-- ==== Sys2Proof/Word.lean ====
section
/-! DEFINITION. The plain words of the part: bytes of the serial line, values of the time counter, and the numbers that
name its parts. -/

namespace Sys2Proof

/-- One byte of the serial line (R202). -/
abbrev Byte := BitVec 8

/-- A value of the time counter, in tu of 100 µs; it wraps modulo 2^32 (R43). -/
abbrev Time := BitVec 32

/-- A set of stop numbers 0..15, bit i for stop i (R145, R207). -/
abbrev StopSet := BitVec 16

/-- A division number 0..5. -/
abbrev DivNo := Fin 6

/-- A microphone number 0..3. -/
abbrev MicNo := Fin 4

/-- A key number of a division, below the largest compass of 61 (R142). -/
abbrev KeyNo := Fin 61

end Sys2Proof
end

