-- ==== Sys2Proof/Config.lean ====
section
/-! DEFINITION. What is fixed for the part: the capacities the manual gives its buffers, and the one free value of the
model, the choice among waits of one moment whose order the manual leaves open (R44, R52). -/

namespace Sys2Proof.Config

/-- Bytes each of the two link FIFOs holds (R203, R208). -/
abbrev fifoBytes : Nat := 1024
/-- Notices the notice queue holds (R209). -/
abbrev maxNotices : Nat := 16
/-- Event records of the shared pool (R3). -/
abbrev poolRecords : Nat := 4096
/-- Records of the onset queue (R71). -/
abbrev maxOnsets : Nat := 16
/-- Windows of one gate list (R69). -/
abbrev maxGates : Nat := 8
/-- Records of the cue list (R82). -/
abbrev maxCues : Nat := 32
/-- Pauses of the pause list (R47). -/
abbrev maxPauses : Nat := 4
/-- Entries of the Dispatch Queue (R126). -/
abbrev maxEntries : Nat := 256
/-- Places an expansion asks for (R115). -/
abbrev expansionRoom : Nat := 26
/-- Values of the temperature history (R55). -/
abbrev maxHistory : Nat := 8
/-- Largest body of a frame (R204). -/
abbrev maxBody : Nat := 240
/-- The part code of the READY notice (R202). -/
abbrev partCode : Nat := 0x4C62
/-- The revision number of the READY notice (R202). -/
abbrev revision : Nat := 1
/-- Start-up time of a hymn, from the accepted start to the first segment (R25). -/
abbrev startingTime : Nat := 10000
/-- The largest lead, part of the rejoin margin (R57, R197). -/
abbrev largestLead : Nat := 6690
/-- Longest gap between two bytes of a frame (R204). -/
abbrev frameGapTime : Nat := 200
/-- The age at which a stored past time is marked stale (R45). -/
abbrev staleAge : Nat := 1073741824

/-- FREE VALUE (log 2, log 8). Which of several waits of one moment is taken first, for the n-th such choice. The manual
gives no order among them (R44, R52), so nothing here says what it is. -/
opaque pick : Nat → Nat

end Sys2Proof.Config
end

