-- ==== Sys2Proof/Syntax.lean ====
section
/-! DEFINITION. The commands of the part: one constructor for each row of spec/opcode_table.json. Every command but the
two resets carries `at`, the counter value at which it comes (log 1). A request carries its TAG and its body bytes as the
frame holds them (R206, R207; log 6). -/

namespace Sys2Proof

/-- What the sense return of a coil reads (R154). -/
inductive CoilCurrent where
  | none | normal | excess
deriving DecidableEq, Repr

/-- One scan of every key coil, division by division, key by key (R154). -/
abbrev CoilReadings := Vector (Vector CoilCurrent 61) 6

/-- A command of the part. -/
inductive Instr where
  /-- RESET_ASSERT (R202). -/
  | resetAssert
  /-- RESET_RELEASE with the strap pins RATE1 and RATE0 (R202). -/
  | resetRelease (rate1 rate0 : Bool)
  /-- RXD_BYTE: a byte whose stop bit ends at `at` (R203). -/
  | rxdByte (at_ : Time) (b : Byte)
  /-- RECEIVER_BYTE (R204). -/
  | receiverByte (at_ : Time)
  /-- FRAME_GAP (R204). -/
  | frameGap (at_ : Time)
  /-- BAD_KIND: a checked frame whose KIND is no request kind (R206). -/
  | badKind (at_ : Time) (kind tag : Byte) (body : List Byte)
  /-- TRANSMIT_MESSAGE (R208). -/
  | transmitMessage (at_ : Time)
  /-- STATUS (R210). -/
  | status (at_ : Time) (tag : Byte) (body : List Byte)
  /-- COUNTERS (R211). -/
  | counters (at_ : Time) (tag : Byte) (body : List Byte)
  /-- QUIET_RESET (R213). -/
  | quietReset (at_ : Time) (tag : Byte) (body : List Byte)
  /-- TUNE_BEGIN (R4, R5). -/
  | tuneBegin (at_ : Time) (tag : Byte) (body : List Byte)
  /-- TUNE_DATA (R6 to R8). -/
  | tuneData (at_ : Time) (tag : Byte) (body : List Byte)
  /-- TUNE_END (R9 to R13). -/
  | tuneEnd (at_ : Time) (tag : Byte) (body : List Byte)
  /-- TUNE_ERASE (R14). -/
  | tuneErase (at_ : Time) (tag : Byte) (body : List Byte)
  /-- TUNE_READ (R15). -/
  | tuneRead (at_ : Time) (tag : Byte) (body : List Byte)
  /-- PLAN_SET (R20). -/
  | planSet (at_ : Time) (tag : Byte) (body : List Byte)
  /-- PLAN_CANCEL (R22). -/
  | planCancel (at_ : Time) (tag : Byte) (body : List Byte)
  /-- PLAN_START with the form NOW (R23). -/
  | planStartNow (at_ : Time) (tag : Byte) (body : List Byte)
  /-- PLAN_START with the form NEXT (R23). -/
  | planStartNext (at_ : Time) (tag : Byte) (body : List Byte)
  /-- STOP with the form NOW (R38). -/
  | stopNow (at_ : Time) (tag : Byte) (body : List Byte)
  /-- STOP with the form LINE (R39). -/
  | stopLine (at_ : Time) (tag : Byte) (body : List Byte)
  /-- STOP with the form VERSE (R39). -/
  | stopVerse (at_ : Time) (tag : Byte) (body : List Byte)
  /-- VERSES (R41). -/
  | verses (at_ : Time) (tag : Byte) (body : List Byte)
  /-- TEMPO (R101). -/
  | tempo (at_ : Time) (tag : Byte) (body : List Byte)
  /-- FOLLOW_SET (R100). -/
  | followSet (at_ : Time) (tag : Byte) (body : List Byte)
  /-- MIC_SET (R61). -/
  | micSet (at_ : Time) (tag : Byte) (body : List Byte)
  /-- DIVISION_SET (R143). -/
  | divisionSet (at_ : Time) (tag : Byte) (body : List Byte)
  /-- STOPS_SET (R144). -/
  | stopsSet (at_ : Time) (tag : Byte) (body : List Byte)
  /-- REGISTRATION_SET (R145). -/
  | registrationSet (at_ : Time) (tag : Byte) (body : List Byte)
  /-- VOICING_SET (R108). -/
  | voicingSet (at_ : Time) (tag : Byte) (body : List Byte)
  /-- CURVE_SET (R168). -/
  | curveSet (at_ : Time) (tag : Byte) (body : List Byte)
  /-- EXPRESS with the form NOW (R172). -/
  | expressNow (at_ : Time) (tag : Byte) (body : List Byte)
  /-- EXPRESS with the form NEXT (R172). -/
  | expressNext (at_ : Time) (tag : Byte) (body : List Byte)
  /-- LEVEL (R179). -/
  | level (at_ : Time) (tag : Byte) (body : List Byte)
  /-- YIELD (R193). -/
  | yield (at_ : Time) (tag : Byte) (body : List Byte)
  /-- RESUME (R193). -/
  | resume (at_ : Time) (tag : Byte) (body : List Byte)
  /-- FAULT_CLEAR (R157). -/
  | faultClear (at_ : Time) (tag : Byte) (body : List Byte)
  /-- TABLE_READ (R212). -/
  | tableRead (at_ : Time) (tag : Byte) (body : List Byte)
  /-- TEMP_READING: the raw reading r, 0..4095 (R54). -/
  | tempReading (at_ : Time) (r : BitVec 12)
  /-- ENVELOPE_BLOCK: a microphone, the time of the block's first sample, the samples (R62). -/
  | envelopeBlock (at_ : Time) (mic : MicNo) (first : Time) (samples : List (BitVec 12))
  /-- ONSET_TAKEN (R85). -/
  | onsetTaken (at_ : Time)
  /-- CUE_EXPIRY (R89). -/
  | cueExpiry (at_ : Time)
  /-- MATCHED_RECORD_REMOVAL (R84). -/
  | matchedRecordRemoval (at_ : Time)
  /-- PAUSE_START (R97). -/
  | pauseStart (at_ : Time)
  /-- PAUSE_END (R98). -/
  | pauseEnd (at_ : Time)
  /-- SEGMENT_START (R31). -/
  | segmentStart (at_ : Time)
  /-- SEGMENT_END (R32). -/
  | segmentEnd (at_ : Time)
  /-- LINE_AHEAD (R36). -/
  | lineAhead (at_ : Time)
  /-- HYMN_CLOSE (R33). -/
  | hymnClose (at_ : Time)
  /-- IDLE_CLOCK_TICK (R170). -/
  | idleClockTick (at_ : Time)
  /-- RAMP_DELAY_END of one division's running ramp (R171). -/
  | rampDelayEnd (at_ : Time) (d : DivNo)
  /-- RAMP_STEP of one division's running ramp (R171). -/
  | rampStep (at_ : Time) (d : DivNo)
  /-- RAMP_HOLD_END of one division's running ramp (R171). -/
  | rampHoldEnd (at_ : Time) (d : DivNo)
  /-- EXPANSION (R116). -/
  | expansion (at_ : Time)
  /-- ENTRY_FALLS_DUE (R131). -/
  | entryFallsDue (at_ : Time)
  /-- STOP_CHANGE_END of one division (R152). -/
  | stopChangeEnd (at_ : Time) (d : DivNo)
  /-- COIL_SCAN with the current of every coil (R154). -/
  | coilScan (at_ : Time) (readings : CoilReadings)
  /-- QUIET_CHECK_DEADLINE (R185). -/
  | quietCheckDeadline (at_ : Time)
  /-- PIPE_HOLD_END (R183). -/
  | pipeHoldEnd (at_ : Time)
  /-- LISTEN_DEADLINE (R183). -/
  | listenDeadline (at_ : Time)
  /-- RELEASE_END (R184). -/
  | releaseEnd (at_ : Time)
  /-- SPACING_END (R184). -/
  | spacingEnd (at_ : Time)
  /-- CT_CHANGE: the new level of the CT line (R192). -/
  | ctChange (at_ : Time) (active : Bool)
  /-- CT_TOUCH_HELD (R192). -/
  | ctTouchHeld (at_ : Time)
  /-- CT_RELEASE_DELAY_END (R192). -/
  | ctReleaseDelayEnd (at_ : Time)
  /-- REJOIN_TIME (R199). -/
  | rejoinTime (at_ : Time)
  /-- TIME_STALE: the last firing of a microphone (R45, R65). -/
  | timeStale (at_ : Time) (mic : MicNo)
  /-- TRANSMIT_BYTE_END (R202). -/
  | transmitByteEnd (at_ : Time)
deriving DecidableEq, Repr

end Sys2Proof
end

