-- ==== Sys2Proof/Machine/State.lean ====
section
/-! DEFINITION. The state of the part: every piece of state the manual gives each of its blocks, as plain data, and the
state at power-on reset. INVENTORY.md lists each field with the rule that names it. -/

namespace Sys2Proof.Machine

/-! ### Voices and tunes (chapter 1) -/

/-- The five voices, in the manual's fixed order (00, Numbering). -/
inductive Voice where
  | S | A | T | B | D
deriving DecidableEq, Repr

/-- One value for each voice. -/
structure PerVoice (α : Type) where
  s : α
  a : α
  t : α
  b : α
  d : α
deriving DecidableEq, Repr

/-- One score event (01, 1.3). -/
structure Event where
  pos : Nat
  len : Nat
  pitch : PerVoice (Option Nat)
  voiceId : Fin 16
  cue : Bool
  fermata : Bool
  breath : Bool
  lineEnd : Bool
  amen : Bool
  tie : PerVoice Bool
deriving DecidableEq, Repr

/-- What TUNE_BEGIN declares of a tune (R4). -/
structure TuneHeader where
  label : Nat
  default : Nat
  minimum : Nat
  maximum : Nat
  declared : Nat
deriving DecidableEq, Repr

/-- One entry of a line table (R11). -/
structure Line where
  start : Nat
  stop : Nat
  firstEvent : Nat
  lastEvent : Nat
deriving DecidableEq, Repr

/-- The Amen tail: its position range and its event range (R12). -/
structure AmenTail where
  start : Nat
  stop : Nat
  firstEvent : Nat
  lastEvent : Nat
deriving DecidableEq, Repr

/-- A READY tune with the tables TUNE_END derived (R11, R12). -/
structure Tune where
  header : TuneHeader
  events : List Event
  lines : List Line
  verseEnd : Nat
  amen : Option AmenTail
deriving DecidableEq, Repr

/-- A tune slot (R2). The expected index of a LOADING slot is the number of its events (R8). -/
inductive Slot where
  | empty
  | loading (header : TuneHeader) (events : List Event)
  | ready (tune : Tune)
deriving DecidableEq, Repr

/-- The Score Store: the slots and the free count (R3). -/
structure Store where
  slots : Vector Slot 16
  free : Nat
deriving DecidableEq, Repr

/-! ### Plans and the running order (chapter 2) -/

/-- A ramp record (R169). -/
structure Ramp where
  fromStep : Option Nat
  toStep : Nat
  stepLength : Nat
  delay : Nat
  hold : Nat
  curve : Fin 8
deriving DecidableEq, Repr

/-- Whether the part follows the singers or holds its own tempo (02, 2.1). -/
inductive Follow where
  | follow | lead
deriving DecidableEq, Repr

/-- A verse record of a plan (02, 2.1). -/
structure VerseRecord where
  registration : Fin 8
  mask : PerVoice Bool
  override : Option (Fin 16)
  follow : Follow
  ramp : Option Ramp
  restAfter : Nat
deriving DecidableEq, Repr

/-- The introduction kinds (02, 2.1). -/
inductive IntroKind where
  | none | lastLine | firstLast | whole
deriving DecidableEq, Repr

/-- A hymn plan (02, 2.1). -/
structure Plan where
  slot : Fin 16
  introKind : IntroKind
  introRegistration : Fin 8
  introMask : PerVoice Bool
  introPeriod : Option Nat
  givingOut : Nat
  verseCount : Nat
  amen : Bool
  amenRegistration : Fin 8
  amenRest : Nat
  factor : Nat
  breath : Nat
  verses : List VerseRecord
deriving DecidableEq, Repr

/-- What a segment is (02, 2.3). -/
inductive SegmentKind where
  | intro | verse | amen
deriving DecidableEq, Repr

/-- A segment of the running order; its index is its place in the order (02, 2.3). -/
structure Segment where
  kind : SegmentKind
  verse : Nat
  sFrom : Nat
  sTo : Nat
  restBefore : Nat
  follow : Follow
  registration : Fin 8
  mask : PerVoice Bool
  override : Option (Fin 16)
  ramp : Option Ramp
deriving DecidableEq, Repr

/-- The play states (R30). -/
inductive PlayState where
  | idle | starting | segment | rest | closing
deriving DecidableEq, Repr

/-- The Plan Unit (02). -/
structure PlanUnit where
  staged : Option Plan
  active : Option Plan
  queued : Bool
  order : List Segment
  play : PlayState
  /-- the first segment's start time, fixed when STARTING is entered (R25) -/
  startTime : Option Time
  /-- the play clock at the current segment's start (R34) -/
  clockBase : Nat
  /-- the highest play-clock value shown so far in this hymn (R34) -/
  clockShown : Nat
  /-- numbers of the lines whose LINE_AHEAD was sent for this segment (R36) -/
  linesSent : List Nat
  stopped : Bool
deriving DecidableEq, Repr

/-! ### Score map and follower (chapters 3 and 5) -/

/-- A pause is PLANNED, with an extension that follows P, or RUNNING with a frozen one (R47). -/
inductive PauseState where
  | planned
  | running (ext : Nat)
deriving DecidableEq, Repr

/-- A fermata pause; `len` is the written length its extension is computed from (R47). -/
structure Pause where
  segment : Nat
  pos : Nat
  len : Nat
  state : PauseState
deriving DecidableEq, Repr

/-- An anchor: a time at which the singers are at a position (R46). -/
structure Anchor where
  time : Time
  pos : Nat
deriving DecidableEq, Repr

/-- The score map (R46). -/
structure ScoreMap where
  current : Option Nat
  anchor : Option Anchor
  period : Nat
  pauses : List Pause
deriving DecidableEq, Repr

/-- The kinds of a cue (R82). -/
inductive CueKind where
  | normal | reEntry
deriving DecidableEq, Repr

/-- The states of a cue record; a MATCHED record keeps the onset's time and its removal time (R82, R84). -/
inductive CueState where
  | pending
  | matched (tOn removeAt : Time)
deriving DecidableEq, Repr

/-- A cue record (R82). -/
structure Cue where
  segment : Nat
  event : Nat
  pos : Nat
  kind : CueKind
  state : CueState
deriving DecidableEq, Repr

/-- The follower's modes (R78). -/
inductive FollowerMode where
  | off | lead | follow | fermata | steady
deriving DecidableEq, Repr

/-- The follow settings (R99). -/
structure FollowSettings where
  win : Nat
  phaseGain : Nat
  periodGain : Nat
  allowance : Nat
  rejoinCount : Nat
  horizon : Nat
  repeatGap : Nat
  lineLead : Nat
  releaseDelay : Nat
deriving DecidableEq, Repr

/-- The Tempo Follower beside its score map (R78). -/
structure Follower where
  mode : FollowerMode
  credit : Nat
  rejoinRun : Nat
  lastMatch : Option Nat
  owed : Bool
  lastPosted : Option Nat
  cues : List Cue
  settings : FollowSettings
deriving DecidableEq, Repr

/-! ### Acoustic Table and front end (chapters 3 and 4) -/

/-- The temperature channel (R54, R55). -/
structure Acoustic where
  history : List Int
  inUse : Int
  sensorFault : Bool
deriving DecidableEq, Repr

/-- Whether onsets are tested against gate windows (R60). -/
inductive BleedPolicy where
  | open_ | gate
deriving DecidableEq, Repr

/-- The settings of one microphone (R60). -/
structure MicSettings where
  enable : Bool
  choirDistance : Nat
  averaging : Nat
  rise : Nat
  fall : Nat
  minimumGap : Nat
  floorShift : Nat
  policy : BleedPolicy
  gateLength : Nat
deriving DecidableEq, Repr

/-- A gate window, both ends included (R67). -/
structure Window where
  opens : Time
  closes : Time
deriving DecidableEq, Repr

/-- One microphone: settings and running state (R62 to R69). -/
structure Mic where
  settings : MicSettings
  /-- the time of the next block's first sample; while `fresh` holds, the time from which a new block begins with the next
  sample (R62, R77; log 10) -/
  blockFrom : Time
  /-- the next block is the first since sampling began or the block in progress was discarded (R61, R62, R77; log 10) -/
  fresh : Bool
  /-- the latest envelope value and its time (R62, R75) -/
  envelope : Option (Nat × Time)
  /-- the floor, or unsettled (R63) -/
  floor : Option Nat
  /-- the detector is FIRED, else ARMED (R64) -/
  fired : Bool
  /-- the time of the last firing, or stale (R65) -/
  lastFiring : Option Time
  gates : List Window
deriving DecidableEq, Repr

/-- An onset record (R66). -/
structure Onset where
  tObs : Time
  mic : MicNo
  strength : Nat
deriving DecidableEq, Repr

/-- The Listening Front End (04). -/
structure FrontEnd where
  mics : Vector Mic 4
  fallback : Int
  onsets : List Onset
deriving DecidableEq, Repr

/-! ### Key Expander (chapter 6) -/

/-- A voicing target (R107). -/
structure Target where
  division : DivNo
  shift : Int
deriving DecidableEq, Repr

/-- The two targets of a voice, either of which may be absent (R107). -/
structure Targets where
  first : Option Target
  second : Option Target
deriving DecidableEq, Repr

/-- The expansion cursor (R112). -/
inductive Cursor where
  | none
  | at_ (segment event : Nat)
  | after (segment : Nat)
deriving DecidableEq, Repr

/-- The Key Expander (R107, R112, R117). -/
structure Expander where
  voicing : Vector (PerVoice Targets) 16
  cursor : Cursor
  carried : PerVoice (Option Nat)
  firstDone : Bool
  pairCounter : BitVec 16
deriving DecidableEq, Repr

/-! ### Dispatch Queue (chapter 7) -/

/-- The kinds of a dispatch entry with the fields that each holds (R125). -/
inductive Action where
  | keyOn (division : DivNo) (key : KeyNo) (voice : Voice) (pair : BitVec 16) (notBefore : Option Time)
  | keyOff (division : DivNo) (key : KeyNo) (voice : Voice) (pair : BitVec 16) (followOn : Option (BitVec 16))
  | stopSet (division : DivNo) (stops : StopSet)
deriving DecidableEq, Repr

/-- A dispatch entry (R125). -/
structure Entry where
  action : Action
  segment : Nat
  pos : Nat
  issue : Time
deriving DecidableEq, Repr

/-! ### Division Drivers (chapter 8) -/

/-- The kinds of a division (R142). -/
inductive DivisionKind where
  | manual | pedal
deriving DecidableEq, Repr

/-- The fault states of a key (R146). -/
inductive FaultState where
  | normal | openCoil | shorted | clearedPending
deriving DecidableEq, Repr

/-- A key record (R146). -/
structure KeyRecord where
  holders : Nat
  fault : FaultState
  openCount : Nat
  shortCount : Nat
deriving DecidableEq, Repr

/-- The stop state of a division, with the change end of a running change (R152). -/
inductive StopState where
  | settled
  | changing (changeEnd : Time)
deriving DecidableEq, Repr

/-- A division: its record (R142), its stop list (R144), its stop state (R152) and its key records (R146). -/
structure Division where
  present : Bool
  kind : DivisionKind
  compass : Nat
  base : Nat
  enclosed : Bool
  choirDistance : Nat
  micDistance : Vector Nat 4
  speech : Nat
  release : Nat
  stopAction : Nat
  capacity : Nat
  reserve : Nat
  weights : List Nat
  drawn : StopSet
  stopState : StopState
  keys : Vector KeyRecord 61
deriving DecidableEq, Repr

/-- The Division Drivers (08). -/
structure Drivers where
  divisions : Vector Division 6
  registrations : Vector (Vector StopSet 6) 8
  debounce : Nat
deriving DecidableEq, Repr

/-! ### Expression Unit (chapter 9) -/

/-- The states of a running ramp; RUN holds the current step (R169). -/
inductive RampPhase where
  | delay
  | run (step : Nat)
  | hold
deriving DecidableEq, Repr

/-- The running slot: IDLE, or a ramp with its state and the su counted in that state (R169). -/
inductive RunningRamp where
  | idle
  | active (ramp : Ramp) (phase : RampPhase) (count : Nat)
deriving DecidableEq, Repr

/-- One division's shutter (R165, R169). -/
structure Shutter where
  position : Nat
  running : RunningRamp
  queued : Option Ramp
  /-- su that the clock has risen and this ramp has not yet counted (log 9) -/
  uncounted : Nat
deriving DecidableEq, Repr

/-- The Expression Unit: the shutters and the loadable curves 3..7 (R168). -/
structure Expression where
  shutters : Vector Shutter 6
  curves : Vector (Vector Nat 9) 5
deriving DecidableEq, Repr

/-! ### Levelling Unit (chapter 10) -/

/-- The states of a levelling run (R178). -/
inductive LevelPhase where
  | setup | quietCheck | sounding | release | spacing | done
deriving DecidableEq, Repr

/-- The causes of an aborted run (R188). -/
inductive AbortCause where
  | stop | yield | shorted | wind
deriving DecidableEq, Repr

/-- The status of a measured result (R186). -/
inductive LevelStatus where
  | ok | suspect | unsteady
deriving DecidableEq, Repr

/-- How a run ended (R188). -/
inductive LevelOutcome where
  | measured (status : LevelStatus) (values : List Nat) (avg spread travel speech : Nat)
  | noisy (trial : Nat) (values : List Nat)
  | noSound (trial : Nat) (values : List Nat)
  | aborted (cause : AbortCause) (phase : LevelPhase) (values : List Nat)
deriving DecidableEq, Repr

/-- The fields of a LEVEL_DONE notice (R188). -/
structure LevelDone where
  division : DivNo
  stop : Nat
  key : KeyNo
  mic : MicNo
  trials : Nat
  outcome : LevelOutcome
deriving DecidableEq, Repr

/-- A levelling run (R178). -/
structure LevelRun where
  division : DivNo
  stop : Nat
  key : KeyNo
  mic : MicNo
  trials : Nat
  spacing : Nat
  saved : StopSet
  phase : LevelPhase
  /-- in SOUNDING: listening, else holding (R183) -/
  listening : Bool
  /-- in RELEASE: the trial was good, else a NO_SOUND attempt (R184) -/
  good : Bool
  trial : Nat
  retry : Nat
  measured : List Nat
  quietStart : Option Time
  opening : Option Time
  deadline : Option Time
deriving DecidableEq, Repr

/-- The Levelling Unit (R178). -/
structure Levelling where
  run : Option LevelRun
  last : Option LevelDone
deriving DecidableEq, Repr

/-! ### Console Yield Unit (chapter 11) -/

/-- The yield states (R191). -/
inductive YieldState where
  | playingFree | yielded | rejoining
deriving DecidableEq, Repr

/-- The yield sources (R191). -/
inductive YieldSource where
  | pin | link
deriving DecidableEq, Repr

/-- The CT filter; LEAVING keeps the release delay it read (R192). QUIET and HELD keep no start time (log 50). -/
inductive CtFilter where
  | quiet
  | touching (start : Time)
  | held
  | leaving (start : Time) (delay : Nat)
deriving DecidableEq, Repr

/-- A rejoin point (R191). -/
structure RejoinPoint where
  segment : Nat
  event : Nat
  pos : Nat
deriving DecidableEq, Repr

/-- The Console Yield Unit (R191). -/
structure YieldUnit where
  state : YieldState
  pin : Bool
  link : Bool
  filter : CtFilter
  rejoin : Option RejoinPoint
deriving DecidableEq, Repr

/-! ### Service Link (chapter 12) -/

/-- The reasons of HYMN_END (R37). -/
inductive HymnEndReason where
  | completed | stopped | replaced
deriving DecidableEq, Repr

/-- The notices (R214), each with the fields its chapter gives. -/
inductive Notice where
  /-- READY (R202) -/
  | ready (rate : BitVec 2)
  /-- SEGMENT (R35) -/
  | segment (index : Nat) (kind : SegmentKind) (verse sFrom sTo count : Nat) (start : Time) (period : Nat) (flag : Follow)
  /-- LINE_AHEAD (R36) -/
  | lineAhead (segment verse line beats : Nat)
  /-- HYMN_END (R37) -/
  | hymnEnd (reason : HymnEndReason) (label : Nat) (segment : Option Nat) (verse : Nat)
  /-- FOLLOW_STATE (R102) -/
  | followState (mode : FollowerMode) (segment verse pos : Nat) (time : Time) (period credit : Nat)
  /-- FAULT of kind OPEN_COIL (R155) -/
  | openCoil (division : DivNo) (key : Nat) (holders : Nat) (time : Time)
  /-- FAULT of kind SHORTED (R156) -/
  | shorted (division : DivNo) (key : Nat) (holders : Nat) (time : Time)
  /-- FAULT of kind TEMP (R54) -/
  | tempFault (r : BitVec 12)
  /-- LEVEL_DONE (R188) -/
  | levelDone (fields : LevelDone)
  /-- YIELD granted (R194) -/
  | yieldGranted (source : YieldSource) (before : YieldState) (play : PlayState) (segment pos : Option Nat) (time : Time)
  /-- YIELD released (R196, R200) -/
  | yieldReleased (time : Time)
  /-- YIELD rejoined (R199) -/
  | yieldRejoined (segment verse event pos : Nat) (time : Time)
deriving DecidableEq, Repr

/-- The status codes of a reply (R207). -/
inductive Status where
  | ok | badKind | badLength | badField | busy | inUse | noRoom | notLoading | sequence | badTune | notReady | notPlaying
  | range | notEnclosed
deriving DecidableEq, Repr

/-- A message of the outgoing list: a notice, or the reply to a request of this KIND and TAG (R207, R208). -/
inductive Message where
  | notice (n : Notice)
  | reply (kind tag : Byte) (status : Status) (fields : List Byte)
deriving DecidableEq, Repr

/-- A checked frame: its KIND, TAG and body (R205). -/
structure Frame where
  kind : Byte
  tag : Byte
  body : List Byte
deriving DecidableEq, Repr

/-- The receiver's state; every state inside a frame holds the arrival time of the frame's last byte (R204). -/
inductive Receiver where
  | hunt
  | awaitLen (last : Time)
  | awaitKind (last : Time) (len : Nat)
  | awaitTag (last : Time) (len : Nat) (kind : Byte)
  | body (last : Time) (len : Nat) (kind tag : Byte) (got : List Byte)
  | checkHigh (last : Time) (kind tag : Byte) (got : List Byte)
  | checkLow (last : Time) (kind tag : Byte) (got : List Byte) (high : Byte)
deriving DecidableEq, Repr

/-- The Service Link (12). -/
structure ServiceLink where
  rate : BitVec 2
  rx : List (Byte × Time)
  receiver : Receiver
  waiting : Option Frame
  outgoing : List Message
  tx : List Byte
  lost : Bool
deriving DecidableEq, Repr

/-- The sixteen counters, in the order COUNTERS reports them (R211). -/
structure Counters where
  length : BitVec 16
  timeout : BitVec 16
  check : BitVec 16
  overrun : BitVec 16
  late : BitVec 16
  deferred : BitVec 16
  clipped : BitVec 16
  shed : BitVec 16
  forced : BitVec 16
  noDivision : BitVec 16
  masked : BitVec 16
  ignored : BitVec 16
  unmatched : BitVec 16
  duplicate : BitVec 16
  missed : BitVec 16
  onsetsDropped : BitVec 16
deriving DecidableEq, Repr

/-- Which of the actions that the counter's multiples bring have been taken at its present value (R54, R154, R170). -/
structure Marks where
  temp : Bool
  scan : Bool
  idle : Bool
deriving DecidableEq, Repr

/-! ### The whole part -/

/-- The state of the part. -/
structure State where
  /-- the time counter (R43) -/
  now : Time
  /-- RST is asserted (R202) -/
  rstHeld : Bool
  /-- the level of the CT line (R192) -/
  ct : Bool
  store : Store
  plan : PlanUnit
  map : ScoreMap
  follower : Follower
  acoustic : Acoustic
  front : FrontEnd
  expander : Expander
  queue : List Entry
  drivers : Drivers
  expression : Expression
  levelling : Levelling
  yielding : YieldUnit
  link : ServiceLink
  counters : Counters
  marks : Marks
  /-- open choices made so far, the argument of the free value Config.pick (log 2) -/
  choices : Nat
  /-- the commands that wait, first in, first out -/
  pending : List Instr
deriving DecidableEq, Repr

/-- The faults of the part. There are none: every sensor, coil and link fault of the manual is a notice or a counter, and
none of them stops the part (00, "It degrades rather than stops"). -/
inductive Fault where
deriving DecidableEq, Repr

/-- The refusals. -/
inductive Refusal where
  /-- Raised only by a refused arm of `exec`, for a row that has no meaning yet. Safe: the model stops. -/
  | notModelled (mnemonic : String)
deriving DecidableEq, Repr

/-! ### Power-on reset -/

/-- One value for all five voices. -/
def PerVoice.all {α : Type} (x : α) : PerVoice α := ⟨x, x, x, x, x⟩

/-- R18. -/
def Store.powerOn : Store := { slots := Vector.replicate 16 .empty, free := Config.poolRecords }

/-- R42. -/
def PlanUnit.powerOn : PlanUnit :=
  { staged := none, active := none, queued := false, order := [], play := .idle, startTime := none, clockBase := 0,
    clockShown := 0, linesSent := [], stopped := false }

/-- R46. -/
def ScoreMap.powerOn : ScoreMap := { current := none, anchor := none, period := 10000, pauses := [] }

/-- R99. -/
def FollowSettings.powerOn : FollowSettings :=
  { win := 12, phaseGain := 8, periodGain := 64, allowance := 4, rejoinCount := 2, horizon := 20000, repeatGap := 300,
    lineLead := 2, releaseDelay := 20000 }

/-- R106. -/
def Follower.powerOn : Follower :=
  { mode := .off, credit := 4, rejoinRun := 0, lastMatch := none, owed := false, lastPosted := none, cues := [],
    settings := .powerOn }

/-- R54, R55. -/
def Acoustic.powerOn : Acoustic := { history := [], inUse := 200, sensorFault := false }

/-- R60. -/
def MicSettings.powerOn : MicSettings :=
  { enable := false, choirDistance := 0, averaging := 8, rise := 256, fall := 64, minimumGap := 1500, floorShift := 6,
    policy := .gate, gateLength := 400 }

/-- R76. -/
def Mic.powerOn : Mic :=
  { settings := .powerOn, blockFrom := 0, fresh := true, envelope := none, floor := none, fired := false, lastFiring := none, gates := [] }

/-- R76, R60. -/
def FrontEnd.powerOn : FrontEnd := { mics := Vector.replicate 4 .powerOn, fallback := 200, onsets := [] }

/-- The power-on contents of a voice's targets: division 0, shift 0, no second target (R107). -/
def Targets.powerOn : Targets := { first := some { division := 0, shift := 0 }, second := none }

/-- The power-on contents of a voicing mode (R107). -/
def voicingPowerOn : PerVoice Targets := ⟨.powerOn, .powerOn, .powerOn, .powerOn, { first := none, second := none }⟩

/-- R107, R112, R117. -/
def Expander.powerOn : Expander :=
  { voicing := Vector.replicate 16 voicingPowerOn, cursor := .none, carried := .all none, firstDone := false, pairCounter := 0 }

/-- R163. -/
def KeyRecord.powerOn : KeyRecord := { holders := 0, fault := .normal, openCount := 0, shortCount := 0 }

/-- R142, R163. -/
def Division.powerOn : Division :=
  { present := false, kind := .manual, compass := 61, base := 36, enclosed := false, choirDistance := 0,
    micDistance := Vector.replicate 4 0, speech := 0, release := 0, stopAction := 1000, capacity := 4095, reserve := 0,
    weights := [], drawn := 0, stopState := .settled, keys := Vector.replicate 61 .powerOn }

/-- R163. -/
def Drivers.powerOn : Drivers :=
  { divisions := Vector.replicate 6 .powerOn, registrations := Vector.replicate 8 (Vector.replicate 6 0), debounce := 3 }

/-- R177. -/
def Shutter.powerOn : Shutter := { position := 127, running := .idle, queued := none, uncounted := 0 }

/-- The power-on points of a loadable curve, min(16i, 127) (R168). -/
def curvePowerOn : Vector Nat 9 := #v[0, 16, 32, 48, 64, 80, 96, 112, 127]

/-- R177. -/
def Expression.powerOn : Expression :=
  { shutters := Vector.replicate 6 .powerOn, curves := Vector.replicate 5 curvePowerOn }

/-- R178. -/
def Levelling.powerOn : Levelling := { run := none, last := none }

/-- R201. -/
def YieldUnit.powerOn : YieldUnit :=
  { state := .playingFree, pin := false, link := false, filter := .quiet, rejoin := none }

/-- R213; the rate code before the first latch is log 4. -/
def ServiceLink.powerOn : ServiceLink :=
  { rate := 0, rx := [], receiver := .hunt, waiting := none, outgoing := [], tx := [], lost := false }

/-- R211. -/
def Counters.zero : Counters :=
  { length := 0, timeout := 0, check := 0, overrun := 0, late := 0, deferred := 0, clipped := 0, shed := 0, forced := 0,
    noDivision := 0, masked := 0, ignored := 0, unmatched := 0, duplicate := 0, missed := 0, onsetsDropped := 0 }

/-- Every mark set: the counter's present value brings no further action. -/
def Marks.taken : Marks := { temp := true, scan := true, idle := true }

/-- No mark set: the counter has just moved. -/
def Marks.fresh : Marks := { temp := false, scan := false, idle := false }

/-- The part right after RST is asserted, every block at power-on reset and the counter at 0 (R202, R43). RST is still
asserted: RESET_RELEASE starts the part (log 3). The CT level is log 4. -/
def State.reset : State :=
  { now := 0, rstHeld := true, ct := false, store := .powerOn, plan := .powerOn, map := .powerOn, follower := .powerOn,
    acoustic := .powerOn, front := .powerOn, expander := .powerOn, queue := [], drivers := .powerOn,
    expression := .powerOn, levelling := .powerOn, yielding := .powerOn, link := .powerOn, counters := .zero,
    marks := .taken, choices := 0, pending := [] }

end Sys2Proof.Machine
end

