-- ==== Sys2Proof/Machine/Operands.lean ====
section
/-! DEFINITION. The fields of request, reply and notice bodies (R207): reading a field from a body, writing one, and the
numbers that stand for names. -/

namespace Sys2Proof.Machine

/-! ### Reading a body -/

/-- The byte at a place of a body, as a number. -/
def byteAt (b : List Byte) (i : Nat) : Nat := (b.getD i 0).toNat

/-- A two-byte value, high byte first (R207). -/
def wordAt (b : List Byte) (i : Nat) : Nat := byteAt b i * 256 + byteAt b (i + 1)

/-- A signed one-byte value in two's complement (R207). -/
def signedByteAt (b : List Byte) (i : Nat) : Int := (b.getD i 0).toInt

/-- A signed two-byte value in two's complement, high byte first (R207). -/
def signedWordAt (b : List Byte) (i : Nat) : Int := (BitVec.ofNat 16 (wordAt b i)).toInt

/-- An optional one-byte value; the all-ones value is absent (R207). -/
def optByteAt (b : List Byte) (i : Nat) : Option Nat := if byteAt b i = 0xFF then none else some (byteAt b i)

/-- An optional two-byte value; the all-ones value is absent (R207). -/
def optWordAt (b : List Byte) (i : Nat) : Option Nat := if wordAt b i = 0xFFFF then none else some (wordAt b i)

/-- A number as an index below n, or 0 where it is not below n; the callers have checked the range. -/
def toFin (n : Nat) [NeZero n] (x : Nat) : Fin n := Fin.ofNat n x

/-- x lies in lo..hi. -/
def inRange (x lo hi : Nat) : Bool := decide (lo ≤ x) && decide (x ≤ hi)

/-- An optional value is absent or lies in lo..hi. -/
def optInRange (x : Option Nat) (lo hi : Nat) : Bool :=
  match x with
  | none => true
  | some v => inRange v lo hi

/-- The first failing check of a list of places and checks, in order: its place (R207). -/
def firstFailing : List (Nat × Bool) → Option Nat
  | [] => none
  | c :: rest => if c.2 then firstFailing rest else some c.1

/-- A set of voices from its mask byte: bit 0 S, 1 A, 2 T, 3 B, 4 D (R207). -/
def voiceMask (m : Nat) : PerVoice Bool := ⟨m.testBit 0, m.testBit 1, m.testBit 2, m.testBit 3, m.testBit 4⟩

/-! ### Writing a body -/

/-- A one-byte field. -/
def e8 (n : Nat) : List Byte := [BitVec.ofNat 8 n]

/-- A two-byte field, high byte first. -/
def e16 (n : Nat) : List Byte := [BitVec.ofNat 8 (n / 256), BitVec.ofNat 8 n]

/-- A three-byte field, high byte first: the extension of a pause, at most 1920000 tu (log 15). -/
def e24 (n : Nat) : List Byte := [BitVec.ofNat 8 (n / 65536), BitVec.ofNat 8 (n / 256), BitVec.ofNat 8 n]

/-- A four-byte field, high byte first: a time. -/
def e32 (t : Time) : List Byte := e16 (t.toNat / 65536) ++ e16 (t.toNat % 65536)

/-- A signed one-byte field. -/
def e8i (x : Int) : List Byte := [BitVec.ofInt 8 x]

/-- A signed two-byte field, high byte first. -/
def e16i (x : Int) : List Byte := e16 (BitVec.ofInt 16 x).toNat

/-- A flag: 0 for clear or absent, 1 for set or present (R207). -/
def eFlag (b : Bool) : List Byte := e8 (if b then 1 else 0)

/-- An optional one-byte field, all-ones when absent. -/
def eOpt8 : Option Nat → List Byte
  | none => e8 0xFF
  | some n => e8 n

/-- An optional two-byte field, all-ones when absent. -/
def eOpt16 : Option Nat → List Byte
  | none => e16 0xFFFF
  | some n => e16 n

/-- An optional time, all-ones when absent. -/
def eOpt32 : Option Time → List Byte
  | none => e32 0xFFFFFFFF
  | some t => e32 t

/-- A field of n bytes that is absent: all-ones (R207). -/
def eAbsent (n : Nat) : List Byte := List.replicate n 0xFF

/-- A list sent as a one-byte count followed by its items (R207). -/
def eList {α : Type} (item : α → List Byte) (xs : List α) : List Byte := e8 xs.length ++ xs.flatMap item

/-- The mask byte of a set of voices. -/
def maskOf (m : PerVoice Bool) : Nat :=
  (if m.s then 1 else 0) + (if m.a then 2 else 0) + (if m.t then 4 else 0) + (if m.b then 8 else 0) + (if m.d then 16 else 0)

/-! ### Numbers that stand for names (R207, R214; log 12) -/

/-- The status codes of R207. -/
def Status.code : Status → Nat
  | .ok => 0 | .badKind => 1 | .badLength => 2 | .badField => 3 | .busy => 4 | .inUse => 5 | .noRoom => 6
  | .notLoading => 7 | .sequence => 8 | .badTune => 9 | .notReady => 10 | .notPlaying => 11 | .range => 12 | .notEnclosed => 13

/-- STATUS byte 1 (12, 12.6). -/
def PlayState.code : PlayState → Nat
  | .idle => 0 | .starting => 1 | .segment => 2 | .rest => 3 | .closing => 4

/-- STATUS byte 3 (12, 12.6). -/
def SegmentKind.code : SegmentKind → Nat
  | .intro => 0 | .verse => 1 | .amen => 2

/-- FOLLOW 0, LEAD 1, as the verse record lists them (02, 2.1). -/
def Follow.code : Follow → Nat
  | .follow => 0 | .lead => 1

/-- STATUS byte 12 (12, 12.6). -/
def FollowerMode.code : FollowerMode → Nat
  | .off => 0 | .lead => 1 | .follow => 2 | .fermata => 3 | .steady => 4

/-- STATUS byte 14 (12, 12.6). -/
def YieldState.code : YieldState → Nat
  | .playingFree => 0 | .yielded => 1 | .rejoining => 2

/-- STATUS byte 15 without NONE, which is 0 (12, 12.6). -/
def LevelPhase.code : LevelPhase → Nat
  | .setup => 1 | .quietCheck => 2 | .sounding => 3 | .release => 4 | .spacing => 5 | .done => 6

/-- HYMN_END reasons (R214). -/
def HymnEndReason.code : HymnEndReason → Nat
  | .completed => 0 | .stopped => 1 | .replaced => 2

/-- Yield sources, as R191 lists them. -/
def YieldSource.code : YieldSource → Nat
  | .pin => 0 | .link => 1

/-- Causes of an abort, as R188 lists them. -/
def AbortCause.code : AbortCause → Nat
  | .stop => 0 | .yield => 1 | .shorted => 2 | .wind => 3

/-- Fault states of a key, as R146 lists them. -/
def FaultState.code : FaultState → Nat
  | .normal => 0 | .openCoil => 1 | .shorted => 2 | .clearedPending => 3

/-- Voices in their fixed order (00). -/
def Voice.code : Voice → Nat
  | .S => 0 | .A => 1 | .T => 2 | .B => 3 | .D => 4

/-- Slot states, as R2 lists them. -/
def Slot.code : Slot → Nat
  | .empty => 0 | .loading _ _ => 1 | .ready _ => 2

/-- Ramp states of a running slot, as R169 lists them: IDLE, DELAY, RUN, HOLD. -/
def RunningRamp.code : RunningRamp → Nat
  | .idle => 0 | .active _ .delay _ => 1 | .active _ (.run _) _ => 2 | .active _ .hold _ => 3

/-! ### The body of a notice -/

/-- The fields of a LEVEL_DONE notice in R188's order. -/
def LevelDone.fields (r : LevelDone) : List Byte :=
  let run := e8 r.division.val ++ e8 r.stop ++ e8 r.key.val ++ e8 r.mic.val ++ e8 r.trials
  match r.outcome with
  | .measured st vs avg spread travel speech =>
    e8 (match st with | .ok => 0 | .suspect => 1 | .unsteady => 2) ++ run ++ eList e16 vs ++ e16 avg ++ e16 spread ++
      e16 travel ++ e16 speech
  | .noisy trial vs => e8 3 ++ run ++ e8 trial ++ eList e16 vs
  | .noSound trial vs => e8 4 ++ run ++ e8 trial ++ eList e16 vs
  | .aborted cause phase vs => e8 5 ++ run ++ e8 cause.code ++ e8 phase.code ++ eList e16 vs

/-- The KIND of a notice (R214). -/
def Notice.kind : Notice → Nat
  | .ready _ => 0x60
  | .segment .. => 0x61
  | .lineAhead .. => 0x62
  | .hymnEnd .. => 0x63
  | .followState .. => 0x64
  | .openCoil .. => 0x65
  | .shorted .. => 0x65
  | .tempFault _ => 0x65
  | .levelDone _ => 0x66
  | .yieldGranted .. => 0x67
  | .yieldReleased _ => 0x67
  | .yieldRejoined .. => 0x67

/-- The body of a notice: its fields in the order its chapter lists them (R207). -/
def Notice.body : Notice → List Byte
  | .ready rate => e16 Config.partCode ++ e8 Config.revision ++ e8 rate.toNat
  | .segment index kind verse sFrom sTo count start period flag =>
    e8 index ++ e8 kind.code ++ e8 verse ++ e16 sFrom ++ e16 sTo ++ e8 count ++ e32 start ++ e16 period ++ e8 flag.code
  | .lineAhead seg verse line beats => e8 seg ++ e8 verse ++ e8 line ++ e16 beats
  | .hymnEnd reason label seg verse => e8 reason.code ++ e16 label ++ eOpt8 seg ++ e8 verse
  | .followState mode seg verse pos time period credit =>
    e8 mode.code ++ e8 seg ++ e8 verse ++ e16 pos ++ e32 time ++ e16 period ++ e8 credit
  | .openCoil d key holders time => e8 0 ++ e8 d.val ++ e8 key ++ e8 holders ++ e32 time
  | .shorted d key holders time => e8 1 ++ e8 d.val ++ e8 key ++ e8 holders ++ e32 time
  | .tempFault r => e8 2 ++ e16 r.toNat
  | .levelDone fields => fields.fields
  | .yieldGranted source before play seg pos time =>
    e8 0 ++ e8 source.code ++ e8 before.code ++ e8 play.code ++ eOpt8 seg ++ eOpt16 pos ++ e32 time
  | .yieldReleased time => e8 1 ++ e32 time
  | .yieldRejoined seg verse event pos time => e8 2 ++ e8 seg ++ e8 verse ++ e16 event ++ e16 pos ++ e32 time

/-- The KIND of a reply: the request's KIND + 0x80, or the KIND itself when that is 0x80 or more (R207). -/
def replyKind (k : Byte) : Byte := if k.toNat < 0x80 then k + 0x80 else k

/-- The frame of a message: KIND, TAG and body; a notice has TAG 0, a reply's body begins with its status (R207, R209). -/
def Message.frame : Message → Frame
  | .notice n => { kind := BitVec.ofNat 8 n.kind, tag := 0, body := n.body }
  | .reply kind tag status fields => { kind := replyKind kind, tag := tag, body := e8 status.code ++ fields }

end Sys2Proof.Machine
end

