-- ==== Sys2Proof/Machine/Flags.lean ====
section
/-! DEFINITION. The counters and the notices-lost flag: a counter holds at 65535 (00, Counters), and a notice made while
the notice queue holds sixteen is lost and sets the flag (R209). -/

namespace Sys2Proof.Machine

/-- One more on a 16-bit counter, which holds at 65535 rather than wrapping (00, Counters). -/
def bump (c : BitVec 16) : BitVec 16 := if c = 0xFFFF then c else c + 1

/-- n more on a 16-bit counter. -/
def bumpBy (n : Nat) (c : BitVec 16) : BitVec 16 := if c.toNat + n < 65536 then BitVec.ofNat 16 (c.toNat + n) else 0xFFFF

def countLength (s : State) : State := { s with counters := { s.counters with length := bump s.counters.length } }
def countTimeout (s : State) : State := { s with counters := { s.counters with timeout := bump s.counters.timeout } }
def countCheck (s : State) : State := { s with counters := { s.counters with check := bump s.counters.check } }
def countOverrun (s : State) : State := { s with counters := { s.counters with overrun := bump s.counters.overrun } }
def countLate (n : Nat) (s : State) : State := { s with counters := { s.counters with late := bumpBy n s.counters.late } }
def countDeferred (s : State) : State := { s with counters := { s.counters with deferred := bump s.counters.deferred } }
def countClipped (s : State) : State := { s with counters := { s.counters with clipped := bump s.counters.clipped } }
def countShed (s : State) : State := { s with counters := { s.counters with shed := bump s.counters.shed } }
def countForced (n : Nat) (s : State) : State := { s with counters := { s.counters with forced := bumpBy n s.counters.forced } }
def countNoDivision (n : Nat) (s : State) : State :=
  { s with counters := { s.counters with noDivision := bumpBy n s.counters.noDivision } }
def countMasked (s : State) : State := { s with counters := { s.counters with masked := bump s.counters.masked } }
def countIgnored (s : State) : State := { s with counters := { s.counters with ignored := bump s.counters.ignored } }
def countUnmatched (s : State) : State := { s with counters := { s.counters with unmatched := bump s.counters.unmatched } }
def countDuplicate (s : State) : State := { s with counters := { s.counters with duplicate := bump s.counters.duplicate } }
def countMissed (n : Nat) (s : State) : State := { s with counters := { s.counters with missed := bumpBy n s.counters.missed } }
def countOnsetsDropped (s : State) : State :=
  { s with counters := { s.counters with onsetsDropped := bump s.counters.onsetsDropped } }

/-- The play counters cleared and the link counters kept, as a quiet reset does (R211). -/
def Counters.playCleared (c : Counters) : Counters :=
  { Counters.zero with length := c.length, timeout := c.timeout, check := c.check, overrun := c.overrun }

/-- Whether a message of the outgoing list is a notice (R209). -/
def Message.isNotice : Message → Bool
  | .notice _ => true
  | .reply .. => false

/-- The notice queue's occupancy (R209). -/
def noticeCount (l : ServiceLink) : Nat := l.outgoing.countP Message.isNotice

/-- A notice is made: it joins the outgoing list, or is lost with the flag set when the notice queue holds 16 (R209). -/
def notice (n : Notice) (s : State) : State :=
  if noticeCount s.link < Config.maxNotices then
    { s with link := { s.link with outgoing := s.link.outgoing ++ [.notice n] } }
  else { s with link := { s.link with lost := true } }

/-- The handler may take a request: no reply waits in the outgoing list (R206, R208). -/
def handlerFree (l : ServiceLink) : Bool := l.outgoing.all Message.isNotice

end Sys2Proof.Machine
end

