-- ==== Sys2Proof/Decode.lean ====
section
/-! DEFINITION. What a word or a frame spells. The opcode table of this part gives no row any bits (spec/98_reader.md:
n_rows_with_fixed 0), so no word of the table spells a command. A checked frame does spell one: its KIND names the
request, and for PLAN_START, STOP and EXPRESS its form byte chooses among the rows of that KIND (R214, log 7). -/

namespace Sys2Proof

/-- The command that `w` spells as an `nbits`-bit word of the table: none, since no row has bits. -/
def decodeTableWord (_nbits _w : Nat) : Option Instr := none

/-- The request kinds of R214, 0x01..0x1B. -/
def isRequestKind (k : Byte) : Bool := decide (1 ≤ k.toNat) && decide (k.toNat ≤ 0x1B)

/-- A PLAN_START body of form NEXT (R23): the forms are NOW 0 and NEXT 1. -/
def isPlanNext (body : List Byte) : Bool := body == [1#8]

/-- A STOP body of form LINE (R38): the forms are NOW 0, LINE 1 and VERSE 2. -/
def isStopLine (body : List Byte) : Bool := body == [1#8]

/-- A STOP body of form VERSE (R38). -/
def isStopVerse (body : List Byte) : Bool := body == [2#8]

/-- An EXPRESS body of form NEXT (R172): the form is the second byte. -/
def isExpressNext (body : List Byte) : Bool := body.length == 10 && body.getD 1 0 == 1#8

/-- The body of a frame holds at most 240 bytes (R204). -/
def bodyFits (body : List Byte) : Bool := decide (body.length ≤ Config.maxBody)

/-- The body lengths that R214 allows a request kind. The length of STOPS_SET follows from its count byte where that is
in range (log 13). -/
def lengthAllowed (kind : Byte) (body : List Byte) : Bool :=
  let n := body.length
  match kind.toNat with
  | 0x04 => n == 11
  | 0x05 => decide (15 ≤ n) && decide (n ≤ 231) && (n - 3) % 12 == 0
  | 0x06 | 0x07 | 0x08 => n == 1
  | 0x09 => decide (27 ≤ n) && decide (n ≤ 181) && (n - 13) % 14 == 0
  | 0x0B | 0x0C | 0x0D => n == 1
  | 0x0E => n == 2
  | 0x0F => n == 12
  | 0x10 => n == 17
  | 0x11 => n == 26
  | 0x12 =>
    let count := (body.getD 1 0).toNat
    decide (2 ≤ n) && decide (n ≤ 18) && (decide (16 < count) || n == 2 + count)
  | 0x13 => n == 13
  | 0x14 => n == 31
  | 0x15 | 0x16 => n == 10
  | 0x17 => n == 7
  | 0x1A => n == 3
  | 0x1B => n == 5
  | _ => n == 0

/-- The row of the table that takes a checked frame (R206, R214, log 7). -/
def rowOf (t : Time) (kind tag : Byte) (body : List Byte) : Instr :=
  match kind.toNat with
  | 0x01 => .status t tag body
  | 0x02 => .counters t tag body
  | 0x03 => .quietReset t tag body
  | 0x04 => .tuneBegin t tag body
  | 0x05 => .tuneData t tag body
  | 0x06 => .tuneEnd t tag body
  | 0x07 => .tuneErase t tag body
  | 0x08 => .tuneRead t tag body
  | 0x09 => .planSet t tag body
  | 0x0A => .planCancel t tag body
  | 0x0B => if isPlanNext body then .planStartNext t tag body else .planStartNow t tag body
  | 0x0C =>
    if isStopLine body then .stopLine t tag body
    else if isStopVerse body then .stopVerse t tag body else .stopNow t tag body
  | 0x0D => .verses t tag body
  | 0x0E => .tempo t tag body
  | 0x0F => .followSet t tag body
  | 0x10 => .micSet t tag body
  | 0x11 => .divisionSet t tag body
  | 0x12 => .stopsSet t tag body
  | 0x13 => .registrationSet t tag body
  | 0x14 => .voicingSet t tag body
  | 0x15 => .curveSet t tag body
  | 0x16 => if isExpressNext body then .expressNext t tag body else .expressNow t tag body
  | 0x17 => .level t tag body
  | 0x18 => .yield t tag body
  | 0x19 => .resume t tag body
  | 0x1A => .faultClear t tag body
  | 0x1B => .tableRead t tag body
  | _ => .badKind t kind tag body

end Sys2Proof
end

