-- ==== Sys2Proof/WellFormed.lean ====
section
/-! DEFINITION. Which commands the wires can bring: a request's body fits a frame and is of its row's form, a BAD_KIND
frame has no request kind, and an envelope block has an allowed number of samples in an order of time the sampler can
make. A command that fails a check changes nothing but the counter (log 5). -/

namespace Sys2Proof

/-- The averaging settings of R60. -/
def isAveraging (n : Nat) : Bool := n == 4 || n == 8 || n == 16 || n == 32

/-- The block of an ENVELOPE_BLOCK: 4, 8, 16 or 32 samples, the first not after the counter and at most 39 tu before it
(R62). -/
def blockOk (at_ first : Time) (samples : List (BitVec 12)) : Bool :=
  isAveraging samples.length && decide (0 ≤ (at_ - first).toInt) && decide ((at_ - first).toInt ≤ 39)

/-- The commands the wires can bring. -/
def Instr.wf : Instr → Bool
  | .resetAssert => true
  | .resetRelease _ _ => true
  | .rxdByte _ _ => true
  | .receiverByte _ => true
  | .frameGap _ => true
  | .badKind _ k _ body => bodyFits body && !isRequestKind k
  | .transmitMessage _ => true
  | .status _ _ body => bodyFits body
  | .counters _ _ body => bodyFits body
  | .quietReset _ _ body => bodyFits body
  | .tuneBegin _ _ body => bodyFits body
  | .tuneData _ _ body => bodyFits body
  | .tuneEnd _ _ body => bodyFits body
  | .tuneErase _ _ body => bodyFits body
  | .tuneRead _ _ body => bodyFits body
  | .planSet _ _ body => bodyFits body
  | .planCancel _ _ body => bodyFits body
  | .planStartNow _ _ body => bodyFits body && !isPlanNext body
  | .planStartNext _ _ body => isPlanNext body
  | .stopNow _ _ body => bodyFits body && !isStopLine body && !isStopVerse body
  | .stopLine _ _ body => isStopLine body
  | .stopVerse _ _ body => isStopVerse body
  | .verses _ _ body => bodyFits body
  | .tempo _ _ body => bodyFits body
  | .followSet _ _ body => bodyFits body
  | .micSet _ _ body => bodyFits body
  | .divisionSet _ _ body => bodyFits body
  | .stopsSet _ _ body => bodyFits body
  | .registrationSet _ _ body => bodyFits body
  | .voicingSet _ _ body => bodyFits body
  | .curveSet _ _ body => bodyFits body
  | .expressNow _ _ body => bodyFits body && !isExpressNext body
  | .expressNext _ _ body => isExpressNext body
  | .level _ _ body => bodyFits body
  | .yield _ _ body => bodyFits body
  | .resume _ _ body => bodyFits body
  | .faultClear _ _ body => bodyFits body
  | .tableRead _ _ body => bodyFits body
  | .tempReading _ _ => true
  | .envelopeBlock at_ _ first samples => blockOk at_ first samples
  | .onsetTaken _ => true
  | .cueExpiry _ => true
  | .matchedRecordRemoval _ => true
  | .pauseStart _ => true
  | .pauseEnd _ => true
  | .segmentStart _ => true
  | .segmentEnd _ => true
  | .lineAhead _ => true
  | .hymnClose _ => true
  | .idleClockTick _ => true
  | .rampDelayEnd _ _ => true
  | .rampStep _ _ => true
  | .rampHoldEnd _ _ => true
  | .expansion _ => true
  | .entryFallsDue _ => true
  | .stopChangeEnd _ _ => true
  | .coilScan _ _ => true
  | .quietCheckDeadline _ => true
  | .pipeHoldEnd _ => true
  | .listenDeadline _ => true
  | .releaseEnd _ => true
  | .spacingEnd _ => true
  | .ctChange _ _ => true
  | .ctTouchHeld _ => true
  | .ctReleaseDelayEnd _ => true
  | .rejoinTime _ => true
  | .timeStale _ _ => true
  | .transmitByteEnd _ => true

end Sys2Proof
end

