-- ==== Sys2Proof/Machine/Ops.lean ====
section
/-! DEFINITION. The operations every block shares: rounding (R1), the arithmetic and comparison of times (R44), how a
command reaches the part, how the handler takes a checked frame and replies (R206), and access to numbered records. -/

namespace Sys2Proof.Machine

abbrev Outcome := Host.Outcome State Fault Refusal

/-! ### Rounding (R1) -/

/-- round(n / d): the nearest integer, ties away from zero (R1). -/
def roundDiv (n : Int) (d : Nat) : Int :=
  if 0 ≤ n then (2 * n + d) / (2 * d) else -((2 * -n + d) / (2 * d))

/-- round(n / d) of natural numbers (R1). -/
def roundNat (n d : Nat) : Nat := (2 * n + d) / (2 * d)

/-- floor(n / d) (R1). -/
def floorDiv (n : Int) (d : Nat) : Int := n.fdiv d

/-- clamp(x, lo, hi) (R1). -/
def clampInt (x lo hi : Int) : Int := if x < lo then lo else if hi < x then hi else x

/-- clamp(x, lo, hi) of natural numbers (R1). -/
def clampNat (x lo hi : Nat) : Nat := if x < lo then lo else if hi < x then hi else x

/-- clamp(x, -m, m) (R1). -/
def clampAbs (x : Int) (m : Nat) : Int := clampInt x (-m) m

/-! ### Times (R44) -/

/-- The difference u - t of two times: (u - t) mod 2^32 read as a signed number (R44). -/
def diff (u t : Time) : Int := (u - t).toInt

/-- t is before u (R44). -/
def isBefore (t u : Time) : Bool := decide (0 < diff u t)

/-- t is at or before u (R44). -/
def atOrBefore (t u : Time) : Bool := t == u || isBefore t u

/-- A time and a signed number of tu. -/
def addTu (t : Time) (n : Int) : Time := t + BitVec.ofInt 32 n

/-- The earlier of two times. -/
def earlier (t u : Time) : Time := if isBefore u t then u else t

/-- The later of two times. -/
def later (t u : Time) : Time := if isBefore t u then u else t

/-! ### Voices -/

/-- The value of a voice. -/
def PerVoice.get {α : Type} (p : PerVoice α) : Voice → α
  | .S => p.s
  | .A => p.a
  | .T => p.t
  | .B => p.b
  | .D => p.d

/-- A value for each voice, from a function of the voice. -/
def PerVoice.of {α : Type} (f : Voice → α) : PerVoice α := ⟨f .S, f .A, f .T, f .B, f .D⟩

/-- The voices in their fixed order (00, Numbering). -/
def allVoices : List Voice := [.S, .A, .T, .B, .D]

/-! ### Numbered records -/

/-- The numbers 0..n-1 as indices. -/
def allFin (n : Nat) : List (Fin n) := List.finRange n

/-- Every item of a vector changed by a function of its index and value. -/
def mapIdx {α β : Type} {n : Nat} (f : Fin n → α → β) (v : Vector α n) : Vector β n := Vector.ofFn fun i => f i v[i]

/-- One division of the state. -/
def div (s : State) (d : DivNo) : Division := s.drivers.divisions[d]

/-- One division replaced. -/
def setDiv (d : DivNo) (x : Division) (s : State) : State :=
  { s with drivers := { s.drivers with divisions := s.drivers.divisions.set d x } }

/-- One key record of a division. -/
def key (s : State) (d : DivNo) (k : KeyNo) : KeyRecord := (div s d).keys[k]

/-- One key record replaced. -/
def setKey (d : DivNo) (k : KeyNo) (x : KeyRecord) (s : State) : State :=
  setDiv d { div s d with keys := (div s d).keys.set k x } s

/-- One microphone of the state. -/
def mic (s : State) (m : MicNo) : Mic := s.front.mics[m]

/-- One microphone replaced. -/
def setMic (m : MicNo) (x : Mic) (s : State) : State :=
  { s with front := { s.front with mics := s.front.mics.set m x } }

/-- One shutter of the state. -/
def shutter (s : State) (d : DivNo) : Shutter := s.expression.shutters[d]

/-- One shutter replaced. -/
def setShutter (d : DivNo) (x : Shutter) (s : State) : State :=
  { s with expression := { s.expression with shutters := s.expression.shutters.set d x } }

/-- One tune slot of the state. -/
def slot (s : State) (i : Fin 16) : Slot := s.store.slots[i]

/-! ### Conditions other blocks consult -/

/-- The part is yielded: the yield state is YIELDED (R191). -/
def yielded (s : State) : Bool := s.yielding.state == .yielded

/-- A levelling run is active (R178). -/
def runActive (s : State) : Bool := s.levelling.run.isSome

/-- The settings requests closed during play and during a run are refused BUSY (R61, R100, R143, R144). -/
def settingsClosed (s : State) : Bool := s.plan.play != .idle || runActive s

/-! ### How a command reaches the part -/

/-- The counter reaches the time a command carries; a time not after the present leaves it (log 1). -/
def arrive (t : Time) (s : State) : State :=
  if isBefore s.now t then { s with now := t, marks := .fresh } else s

/-- What a command does: nothing while RST is asserted (log 3), else its effect. -/
def running (f : State → State) (s : State) : Outcome := .next (if s.rstHeld then s else f s)

/-- An event: once the counter has reached its time it acts if its condition holds; otherwise it does not happen (log 5). -/
def event (t : Time) (holds : State → Bool) (act : State → State) (s : State) : Outcome :=
  running (fun s => if holds (arrive t s) then act (arrive t s) else arrive t s) s

/-! ### Requests (R206) -/

/-- A block's answer to a request: the status and the fields after it (R207). -/
structure Answer where
  status : Status
  fields : List Byte
deriving DecidableEq, Repr

/-- The answer OK with fields. -/
def ok (fields : List Byte) : Answer := ⟨.ok, fields⟩

/-- A refusal with no further field. -/
def refuse (st : Status) : Answer := ⟨st, []⟩

/-- What a block makes of a request: the changes and notices, then the answer (R206). -/
abbrev Handler := State → State × Answer

/-- The reply is made: it joins the outgoing list (R206, R208). -/
def reply (f : Frame) (a : Answer) (s : State) : State :=
  { s with link := { s.link with outgoing := s.link.outgoing ++ [.reply f.kind f.tag a.status a.fields] } }

/-- No checked request waits any more. -/
def clearWaiting (s : State) : State := { s with link := { s.link with waiting := none } }

/-- The handler deals with a frame of a request kind: BAD_LENGTH, or the owning block's answer, the reply last (R206). -/
def handle (f : Frame) (lengthOk : Bool) (h : Handler) (s : State) : State :=
  if lengthOk then reply f (h (clearWaiting s)).2 (h (clearWaiting s)).1
  else reply f (refuse .badLength) (clearWaiting s)

/-- A checked frame meets the handler. The handler takes it when no reply waits and no other checked frame waits before
it; a frame that finds the handler busy waits as the receiver's checked request (R203, R206; log 6). -/
def takeFrame (f : Frame) (lengthOk : Bool) (h : Handler) (s : State) : State :=
  match s.link.waiting with
  | none =>
    if handlerFree s.link then handle f lengthOk h s else { s with link := { s.link with waiting := some f } }
  | some g => if g = f ∧ handlerFree s.link then handle f lengthOk h s else s

/-- A request command: a checked frame of this row's KIND and form (log 6, log 7). -/
def request (t : Time) (f : Frame) (mine lengthOk : Bool) (h : Handler) (s : State) : Outcome :=
  running (fun s => if bodyFits f.body && mine then takeFrame f lengthOk h (arrive t s) else arrive t s) s

end Sys2Proof.Machine
end

