-- ==== Sys2Proof/Machine/Acoustic.lean ====
section
/-! DEFINITION. The Acoustic Table (chapter 3): the average of the last valid temperatures, the temperature in use, the
speed of sound, the travel times and the two leads of every division. Travel times and leads are always their formula's
value, so they are computed where they are read. -/

namespace Sys2Proof.Machine

/-- The speed of sound in cm/s at a temperature (R56). -/
def speedOfSound (tUse : Int) : Int := 33130 + roundDiv (606 * tUse) 100

/-- The travel time of a distance at the temperature in use (R56). -/
def travel (s : State) (distance : Nat) : Nat := roundNat (distance * 10000) (speedOfSound s.acoustic.inUse).toNat

/-- travel(d → choir) (R56). -/
def travelToChoir (s : State) (d : DivNo) : Nat := travel s (div s d).choirDistance

/-- travel(d → m) (R56). -/
def travelToMic (s : State) (d : DivNo) (m : MicNo) : Nat := travel s (div s d).micDistance[m]

/-- travel(m → choir) (R56). -/
def micToChoir (s : State) (m : MicNo) : Nat := travel s (mic s m).settings.choirDistance

/-- lead_on(d) (R57). -/
def leadOn (s : State) (d : DivNo) : Nat := (div s d).speech + travelToChoir s d

/-- lead_off(d) (R57). -/
def leadOff (s : State) (d : DivNo) : Nat := (div s d).release + travelToChoir s d

/-- The average of the history, or the fallback temperature when it is empty (R55). -/
def averageTemp (s : State) : Int :=
  if s.acoustic.history = [] then s.front.fallback else roundDiv s.acoustic.history.sum s.acoustic.history.length

/-- T_use takes the clamped average when the two differ by 5 or more (R55). -/
def updateInUse (s : State) : State :=
  let avg := clampInt (averageTemp s) (-100) 400
  if 5 ≤ (avg - s.acoustic.inUse).natAbs then { s with acoustic := { s.acoustic with inUse := avg } } else s

/-- The temperature in tenths of a valid reading (R54). -/
def temperatureOf (r : BitVec 12) : Int := floorDiv (r.toNat * 5) 16 - 400

/-- A reading is valid for 16 ≤ r ≤ 4079 (R54). -/
def validReading (r : BitVec 12) : Bool := decide (16 ≤ r.toNat) && decide (r.toNat ≤ 4079)

/-- A valid temperature joins the history at the newest end, pushing the oldest of eight out (R55). -/
def joinHistory (x : Int) (h : List Int) : List Int :=
  if h.length < Config.maxHistory then h ++ [x] else h.drop 1 ++ [x]

/-- What a reading does to the temperature channel: a fault raises the flag with one notice, a valid reading clears it,
joins the history and may move T_use (R54, R55). -/
def takeReading (r : BitVec 12) (s : State) : State :=
  if validReading r then
    updateInUse { s with acoustic :=
      { s.acoustic with history := joinHistory (temperatureOf r) s.acoustic.history, sensorFault := false } }
  else if s.acoustic.sensorFault then s
  else notice (.tempFault r) { s with acoustic := { s.acoustic with sensorFault := true } }

end Sys2Proof.Machine
end

