-- ==== Sys2Proof/Machine/ScoreMap.lean ====
section
/-! DEFINITION. The score map and the walk of the running order (chapters 2 and 3): the tune and segments in play, the
extension of a pause, the time of a position on either side, the projection into the next segment, the position of a
time, the lines of a segment and the play clock. -/

namespace Sys2Proof.Machine

/-! ### The tune and the segments in play -/

/-- The tune of a slot, where it is READY (R17). -/
def tuneOf (s : State) (i : Fin 16) : Option Tune :=
  match slot s i with
  | .ready t => some t
  | _ => none

/-- The active plan's tune (R16, R17). -/
def activeTune (s : State) : Option Tune := s.plan.active.bind fun p => tuneOf s p.slot

/-- The events of the active tune. -/
def activeEvents (s : State) : List Event := (activeTune s).elim [] (·.events)

/-- The segment with an index (02, 2.3). -/
def segmentAt (s : State) (i : Nat) : Option Segment := s.plan.order[i]?

/-- The current segment of the map (R46). -/
def currentSegment (s : State) : Option Segment := s.map.current.bind (segmentAt s)

/-- The index of the next segment: segment 0 in STARTING, else the one after the current (R50). -/
def nextIndex (s : State) : Option Nat :=
  match s.plan.play with
  | .idle => none
  | .starting => if s.plan.order = [] then none else some 0
  | _ => s.map.current.bind fun c => if c + 1 < s.plan.order.length then some (c + 1) else none

/-- The next segment of the running order (R50). -/
def nextSegment (s : State) : Option Segment := (nextIndex s).bind (segmentAt s)

/-- An event belongs to a segment when its pos lies in [s_from, s_to) (02, 2.3). -/
def inSegment (g : Segment) (e : Event) : Bool := decide (g.sFrom ≤ e.pos) && decide (e.pos < g.sTo)

/-- The index of a segment's first event (02, 2.3). -/
def firstEventOf (s : State) (g : Segment) : Option Nat := (activeEvents s).findIdx? (inSegment g)

/-! ### Pauses -/

/-- The fermata factor of the active plan; without a plan no fermata lengthens (02, 2.1). -/
def activeFactor (s : State) : Nat := s.plan.active.elim 8 (·.factor)

/-- The extension of a PLANNED pause with the current P (R47). -/
def plannedExt (factor period len : Nat) : Nat := roundNat (len * (factor - 8) * period) 384

/-- The extension of a pause: from P while PLANNED, frozen while RUNNING (R47). -/
def pauseExt (s : State) (p : Pause) : Nat :=
  match p.state with
  | .planned => plannedExt (activeFactor s) s.map.period p.len
  | .running ext => ext

/-- The sum of the extensions of the pauses that satisfy a condition. -/
def extSum (s : State) (f : Pause → Bool) : Nat := ((s.map.pauses.filter f).map (pauseExt s)).sum

/-- A pause is RUNNING. -/
def Pause.isRunning (p : Pause) : Bool :=
  match p.state with
  | .planned => false
  | .running _ => true

/-- The RUNNING pause of the current segment (R97). -/
def runningPause (s : State) : Option Pause :=
  s.map.pauses.find? fun p => some p.segment == s.map.current && p.isRunning

/-! ### Times of positions -/

/-- t(s) in the current segment; `rel` reads the release side (R49). -/
def currentTime (s : State) (pos : Nat) (rel : Bool) : Option Time :=
  s.map.current.bind fun c => s.map.anchor.map fun a =>
    addTu a.time (roundDiv (((pos : Int) - a.pos) * s.map.period) 48 +
      extSum s fun p => p.segment == c && decide (a.pos ≤ p.pos) && (decide (p.pos < pos) || (rel && p.pos == pos)))

/-- T_next, the projected start of the next segment (R46, R50). -/
def nextStart (s : State) : Option Time :=
  match s.plan.play with
  | .starting => if s.plan.order = [] then none else s.plan.startTime
  | _ => (currentSegment s).bind fun g => (nextSegment s).bind fun h =>
      (currentTime s g.sTo true).map fun t => addTu t (h.restBefore * s.map.period)

/-- The time of a position of the next segment (R50). -/
def nextTime (s : State) (pos : Nat) (rel : Bool) : Option Time :=
  (nextIndex s).bind fun n => (nextSegment s).bind fun h => (nextStart s).map fun t =>
    addTu t (roundDiv (((pos : Int) - h.sFrom) * s.map.period) 48 +
      extSum s fun p => p.segment == n && (decide (p.pos < pos) || (rel && p.pos == pos)))

/-- The time of a position of a segment: by R49 in the current one, by R50 in the next, none elsewhere. -/
def positionTime (s : State) (seg pos : Nat) (rel : Bool) : Option Time :=
  if s.map.current = some seg then currentTime s pos rel
  else if nextIndex s = some seg then nextTime s pos rel
  else none

/-- The current segment's end, t(s_to, release side) (R32). -/
def segmentEndTime (s : State) : Option Time := (currentSegment s).bind fun g => currentTime s g.sTo true

/-! ### Positions of times -/

/-- The first pause of the current segment at or after the anchor position (R51). -/
def firstPauseAhead (s : State) (a : Anchor) : Option Pause :=
  s.map.pauses.find? fun p => some p.segment == s.map.current && decide (a.pos ≤ p.pos)

/-- s(t), the position of a time, while the map has a current segment (R51). -/
def positionAt (s : State) (t : Time) : Option Nat :=
  (currentSegment s).bind fun g => s.map.anchor.map fun a =>
    let raw := (a.pos : Int) + floorDiv (diff t a.time * 48) s.map.period
    let high := match firstPauseAhead s a with
      | some p => min p.pos g.sTo
      | none => g.sTo
    (max (g.sFrom : Int) (min raw high)).toNat

/-- s(now) (R51). -/
def positionNow (s : State) : Option Nat := positionAt s s.now

/-- The position the STATUS reply reports (R51; log 23). -/
def reportedPosition (s : State) : Nat :=
  match s.plan.play with
  | .idle => 0
  | .starting => (segmentAt s 0).elim 0 (·.sFrom)
  | .segment => (positionNow s).getD 0
  | .rest | .closing => (currentSegment s).elim 0 (·.sTo)

/-! ### Lines -/

/-- The lines formed from consecutive events, each ending at a LINE_END event; the first line starts at a given position
(R11, R29). `i` is the index of the first event of the list; `opened` is the start and first event of the line in
progress. -/
def formLines (i : Nat) (opened : Option (Nat × Nat)) (start : Nat) : List Event → List Line
  | [] => []
  | e :: es =>
    let o := opened.getD (start, i)
    if e.lineEnd then
      ⟨o.1, e.pos + e.len, o.2, i⟩ :: formLines (i + 1) none ((es.head?.map (·.pos)).getD 0) es
    else formLines (i + 1) (some o) start es

/-- A line with its number (R29). -/
structure NumberedLine where
  number : Nat
  line : Line
deriving DecidableEq, Repr

/-- Lines numbered from 1. -/
def numberFrom1 (ls : List Line) : List NumberedLine := ls.mapIdx fun i l => ⟨i + 1, l⟩

/-- The lines of the Amen tail, formed as the line table is from the verse part (R29). -/
def amenLines (t : Tune) : List Line :=
  t.amen.elim [] fun a => formLines a.firstEvent none a.start (t.events.drop a.firstEvent)

/-- The lines of a segment: those whose ranges lie within [s_from, s_to), with their numbers (R29). -/
def segmentLines (s : State) (g : Segment) : List NumberedLine :=
  (activeTune s).elim [] fun t =>
    (numberFrom1 (match g.kind with
      | .amen => amenLines t
      | _ => t.lines)).filter fun l => decide (g.sFrom ≤ l.line.start) && decide (l.line.stop ≤ g.sTo)

/-- The current line in SEGMENT: the first line of the current segment whose end is at or after s(now) (R29). -/
def currentLine (s : State) : Option NumberedLine :=
  if s.plan.play = .segment then
    (currentSegment s).bind fun g => (positionNow s).bind fun x =>
      (segmentLines s g).find? fun l => decide (x ≤ l.line.stop)
  else none

/-! ### Tempo and the play clock -/

/-- The tempo report of a beat period (R53). -/
def tempoReport (period : Nat) : Nat := roundNat 6000000 period

/-- The play clock that the formula of R34 gives at the present. -/
def clockFormula (s : State) : Nat :=
  match s.plan.play with
  | .idle | .starting => 0
  | .segment => s.plan.clockBase + ((positionNow s).elim 0 fun x => x - (currentSegment s).elim 0 (·.sFrom))
  | .rest =>
    let length := (currentSegment s).elim 0 fun g => g.sTo - g.sFrom
    let rested := s.map.anchor.elim 0 fun a => (floorDiv (diff s.now a.time * 48) s.map.period).toNat
    s.plan.clockBase + length + min rested (48 * (nextSegment s).elim 0 (·.restBefore))
  | .closing => s.plan.clockShown

/-- The play clock: the formula, held at what it has already shown; no value in IDLE (R34). -/
def playClock (s : State) : Option Nat :=
  if s.plan.play = .idle then none else some (max s.plan.clockShown (clockFormula s))

/-- The play clock at the current segment's end (R34). -/
def clockAtEnd (s : State) : Nat := s.plan.clockBase + (currentSegment s).elim 0 fun g => g.sTo - g.sFrom

end Sys2Proof.Machine
end

