-- ==== Sys2Proof/Machine/Expression.lean ====
section
/-! DEFINITION. The Expression Unit (chapter 9): curves, the states of a ramp, the counting of su, and what starts and
ends ramps. The su a ramp has risen past but not yet counted stand in `uncounted` (log 9); every transition takes place at
the su that completes a count (R171). -/

namespace Sys2Proof.Machine

/-! ### Curves -/

/-- round(√n) for n up to 127 × 127: the number of r ≥ 1 with r - 1/2 ≤ √n (R1, R167). -/
def roundSqrt (n : Nat) : Nat := ((List.range 127).filter fun r => decide ((2 * r + 1) * (2 * r + 1) ≤ 4 * n)).length

/-- The position of a loadable curve at a step (R168). -/
def loadedCurve (points : Vector Nat 9) (step : Nat) : Nat :=
  let i := step / 16
  let p : Int := points.toList.getD i 0
  let q : Int := points.toList.getD (i + 1) 0
  (p + roundDiv ((q - p) * (step - 16 * i : Nat)) 16).toNat

/-- The position a curve gives at a step (R167, R168). -/
def curveAt (x : Expression) (c : Fin 8) (step : Nat) : Nat :=
  match c.val with
  | 0 => step
  | 1 => roundNat (step * step) 127
  | 2 => roundSqrt (step * 127)
  | n + 3 => loadedCurve (x.curves.toList.getD n curvePowerOn) step

/-- The distance between two numbers. -/
def distance (a b : Nat) : Nat := (a - b) + (b - a)

/-- The step whose value on a curve is nearest a position, the lowest of equally near ones (R171). -/
def nearestStep (x : Expression) (c : Fin 8) (position : Nat) : Nat :=
  (List.range 128).foldl
    (fun best i => if distance (curveAt x c i) position < distance (curveAt x c best) position then i else best) 0

/-- The step RUN starts at (R171). -/
def startStep (x : Expression) (r : Ramp) (position : Nat) : Nat := r.fromStep.getD (nearestStep x r.curve position)

/-- One step toward the to step (R171). -/
def stepToward (toStep step : Nat) : Nat := if step < toStep then step + 1 else step - 1

/-! ### The ramp's states -/

/-- The su still to be counted before the running ramp's next transition; none when the slot is IDLE (R171). -/
def suNeeded (sh : Shutter) : Option Nat :=
  match sh.running with
  | .idle => none
  | .active r .delay count => some (r.delay - count)
  | .active r (.run step) count => if step = r.toStep then some 0 else some (r.stepLength - count)
  | .active r .hold count => some (r.hold - count)

/-- The running slot after the running ramp has become IDLE: a queued ramp moves up and enters DELAY (R171). -/
def moveUp (sh : Shutter) : Shutter :=
  match sh.queued with
  | none => { sh with running := .idle, uncounted := 0 }
  | some q => { sh with running := .active q .delay 0, queued := none }

/-- The transition that a completed count brings (R171). -/
def rampTransition (x : Expression) (sh : Shutter) : Shutter :=
  match sh.running with
  | .idle => sh
  | .active r .delay _ =>
    let st := startStep x r sh.position
    { sh with position := curveAt x r.curve st, running := .active r (.run st) 0 }
  | .active r (.run step) _ =>
    if step = r.toStep then { sh with running := .active r .hold 0 }
    else
      let st := stepToward r.toStep step
      { sh with position := curveAt x r.curve st, running := .active r (.run st) 0 }
  | .active _ .hold _ => moveUp sh

/-- The su of the next transition are counted and the transition made, where enough su have risen. -/
def rampMove (x : Expression) (sh : Shutter) : Option Shutter :=
  match suNeeded sh with
  | none => none
  | some n => if n ≤ sh.uncounted then some (rampTransition x { sh with uncounted := sh.uncounted - n }) else none

/-- The transitions that need no further su: a count of 0 passes the state at the moment it is entered (R171). -/
def passStates (x : Expression) : Nat → Shutter → Shutter
  | 0, sh => sh
  | n + 1, sh => if suNeeded sh = some 0 then passStates x n (rampTransition x sh) else sh

/-- More passed states than any two ramps can have at one moment (RUN, HOLD, DELAY, RUN, HOLD). -/
abbrev passFuel : Nat := 8

/-- All risen su are counted one after another, with every transition they bring (R170). -/
def countRisen (x : Expression) : Nat → Shutter → Shutter
  | 0, sh => sh
  | n + 1, sh =>
    match rampMove x sh with
    | some sh' => countRisen x n sh'
    | none => sh

/-- More transitions than a running and a queued ramp can make together: at most 127 steps and three states each. -/
abbrev countFuel : Nat := 512

/-- The su that completed no count are counted in the present state. -/
def absorb (sh : Shutter) : Shutter :=
  match sh.running with
  | .idle => { sh with uncounted := 0 }
  | .active r phase count => { sh with running := .active r phase (count + sh.uncounted), uncounted := 0 }

/-- A shutter with every risen su counted (R170, R171). -/
def settleShutter (x : Expression) (sh : Shutter) : Shutter := absorb (countRisen x countFuel sh)

/-- A ramp placed in the running slot, entering DELAY; the queued slot is emptied (R172). -/
def placeNow (x : Expression) (r : Ramp) (sh : Shutter) : Shutter :=
  passStates x passFuel { sh with running := .active r .delay 0, queued := none, uncounted := 0 }

/-- A ramp placed in the queued slot; it moves up at once when the running slot is IDLE (R172). -/
def placeNext (x : Expression) (r : Ramp) (sh : Shutter) : Shutter :=
  match sh.running with
  | .idle => placeNow x r sh
  | .active .. => { sh with queued := some r }

/-- A ramp set IDLE and the queued slot emptied; the position stays (R174). -/
def idleShutter (sh : Shutter) : Shutter := { sh with running := .idle, queued := none, uncounted := 0 }

/-! ### The clock that ramps count -/

/-- su that rise on a division's ramp; an IDLE slot counts nothing (R170). -/
def riseShutter (n : Nat) (sh : Shutter) : Shutter :=
  match sh.running with
  | .idle => sh
  | .active .. => { sh with uncounted := sh.uncounted + n }

/-- Every shutter changed by one function. -/
def mapShutters (f : DivNo → Shutter → Shutter) (s : State) : State :=
  { s with expression := { s.expression with shutters := mapIdx f s.expression.shutters } }

/-- The play clock is read as standing at a value: it shows at least that, and the rise is given to the ramps (R34, R170). -/
def raiseClock (v : Nat) (s : State) : State :=
  let shown := max s.plan.clockShown v
  mapShutters (fun _ sh => riseShutter (shown - s.plan.clockShown) sh)
    { s with plan := { s.plan with clockShown := shown } }

/-- The play clock is read at the present (R34); in IDLE it has no value. -/
def readClock (s : State) : State := if s.plan.play = .idle then s else raiseClock (clockFormula s) s

/-- Every ramp counts the su risen so far (R170). -/
def countAll (s : State) : State := mapShutters (fun _ sh => settleShutter s.expression sh) s

/-- The clock is read and every ramp counted up to it. -/
def syncRamps (s : State) : State := countAll (readClock s)

/-- Every running ramp set IDLE and every queued slot emptied (R174, R175). -/
def idleRamps (s : State) : State := mapShutters (fun _ sh => idleShutter sh) s

/-- A division is present and enclosed (R165). -/
def enclosed (s : State) (d : DivNo) : Bool := (div s d).present && (div s d).enclosed

/-- The output SHUTn: the position it is driven to, or undriven (R165). -/
def shutOutput (s : State) (d : DivNo) : Option Nat :=
  if enclosed s d && !yielded s then some (shutter s d).position else none

/-- A segment's ramp starts as an EXPRESS NOW on every present, enclosed division, unless the part is yielded (R173). -/
def startSegmentRamp (g : Segment) (s : State) : State :=
  match g.ramp with
  | none => s
  | some r =>
    if yielded s then s
    else mapShutters (fun d sh => if enclosed s d then placeNow s.expression r sh else sh) s

/-- The ramp of a division has reached the end of a count in a state of the given kind (R171). -/
def rampDue (inState : RampPhase → Bool) (d : DivNo) (s : State) : Bool :=
  let sh := shutter (readClock s) d
  match sh.running with
  | .idle => false
  | .active _ phase _ => inState phase && (suNeeded sh).any (decide <| · ≤ sh.uncounted)

/-- The count completes: the transition is made, with the states it passes (R171). -/
def rampAct (d : DivNo) (s : State) : State :=
  let s := readClock s
  match rampMove s.expression (shutter s d) with
  | some sh => setShutter d (passStates s.expression passFuel sh) s
  | none => s

def RampPhase.isDelay : RampPhase → Bool
  | .delay => true
  | .run _ => false
  | .hold => false

def RampPhase.isRun : RampPhase → Bool
  | .delay => false
  | .run _ => true
  | .hold => false

def RampPhase.isHold : RampPhase → Bool
  | .delay => false
  | .run _ => false
  | .hold => true

end Sys2Proof.Machine
end

