-- ==== Sys2Proof/Machine/Listening.lean ====
section
/-! DEFINITION. The Listening Front End (chapter 4): gate windows, the envelope and floor, the detector and the onset
queue. -/

namespace Sys2Proof.Machine

/-! ### Gate windows -/

/-- Two windows overlap or touch: the later-opening one opens at or before the other's close + 1 (R69). -/
def touches (a b : Window) : Bool :=
  if isBefore a.opens b.opens then atOrBefore b.opens (addTu a.closes 1) else atOrBefore a.opens (addTu b.closes 1)

/-- The window that spans two (R69). -/
def spanOf (a b : Window) : Window := ⟨earlier a.opens b.opens, later a.closes b.closes⟩

/-- A window at its place in open-time order (R69). -/
def placeWindow (w : Window) : List Window → List Window
  | [] => [w]
  | v :: vs => if isBefore w.opens v.opens then w :: v :: vs else v :: placeWindow w vs

/-- The close that comes earliest among windows, from a first one (R69). -/
def earliestClose (c : Time) (ws : List Window) : Time := ws.foldl (fun c w => earlier c w.closes) c

/-- The list without its first window that closes at a time. -/
def dropClosing (c : Time) : List Window → List Window
  | [] => []
  | w :: ws => if w.closes = c then ws else w :: dropClosing c ws

/-- A new window enters a gate list: merged with the windows it overlaps or touches, else inserted, else inserted in
place of the window with the earliest close when the list holds 8 (R69). -/
def enterWindow (w : Window) (ws : List Window) : List Window :=
  if ws.any (touches w) then
    placeWindow ((ws.filter (touches w)).foldl spanOf w) (ws.filter fun v => !touches w v)
  else if ws.length < Config.maxGates then placeWindow w ws
  else placeWindow w (dropClosing (earliestClose ((ws.head?.map (·.closes)).getD w.closes) ws) ws)

/-- The window an opening of a division makes on a microphone (R68). -/
def gateWindow (s : State) (d : DivNo) (m : MicNo) : Window :=
  let a := addTu s.now ((div s d).speech + travelToMic s d m : Nat)
  ⟨addTu a (-20), addTu a (mic s m).settings.gateLength⟩

/-- A microphone after an opening of a division: an enabled GATE microphone gets a window (R68). -/
def withGate (s : State) (d : DivNo) (m : MicNo) (x : Mic) : Mic :=
  if x.settings.enable && x.settings.policy == .gate then { x with gates := enterWindow (gateWindow s d m) x.gates } else x

/-- The drivers report that a valve of a division has started to be driven: each enabled GATE microphone gets a window
(R68, R147). -/
def reportOpening (d : DivNo) (s : State) : State :=
  { s with front := { s.front with mics := mapIdx (withGate s d) s.front.mics } }

/-- Windows whose close the envelope time has passed leave the list (R70). -/
def expireWindows (envTime : Time) (ws : List Window) : List Window := ws.filter fun w => !isBefore w.closes envTime

/-- A window holds a time, both ends included (R67). -/
def Window.holds (w : Window) (t : Time) : Bool := atOrBefore w.opens t && atOrBefore t w.closes

/-! ### Envelope, floor and detector -/

/-- The envelope value of a block (R62). -/
def envelopeOf (samples : List (BitVec 12)) : Nat :=
  min 4095 (2 * (samples.map fun x => distance x.toNat 2048).sum / samples.length)

/-- The floor after a later envelope value (R63). -/
def floorAfter (shift env floor : Nat) : Nat := if env < floor then env else floor + (env - floor) / 2 ^ shift

/-- The excess of an envelope value over the floor as it stands; none while the floor is unsettled (R63, R64). -/
def excessOf (x : Mic) (env : Nat) : Option Int := x.floor.map fun f => (env : Int) - f

/-- A stored time of the last firing whose age has reached 2^30 tu is stale (R45, R65). -/
def isStale (now : Time) (t : Time) : Bool := decide ((Config.staleAge : Int) ≤ diff now t)

/-- The time since the last firing is at least the minimum gap; a stale time always is (R64). -/
def gapPassed (now envTime : Time) (x : Mic) : Bool :=
  match x.lastFiring with
  | none => true
  | some t => isStale now t || decide ((x.settings.minimumGap : Int) ≤ diff envTime t)

/-- The detector fires on this excess and makes an onset (R64). -/
def makesOnset (now envTime : Time) (x : Mic) (excess : Int) : Bool :=
  !x.fired && decide ((x.settings.rise : Int) ≤ excess) && gapPassed now envTime x

/-- The detector after an excess (R64, R65). -/
def detect (now envTime : Time) (x : Mic) (excess : Int) : Mic :=
  if x.fired then { x with fired := !decide (excess ≤ x.settings.fall) }
  else if (x.settings.rise : Int) ≤ excess then
    { x with fired := true, lastFiring := if gapPassed now envTime x then some envTime else x.lastFiring }
  else x

/-- The duration of a block of n samples: 5, 10, 20 or 40 tu for 4, 8, 16 or 32 (R62). -/
def blockDuration (n : Nat) : Nat := n * 5 / 4

/-- A time at which the next block's first sample may stand: the end of the block before, or, for a first block, a counter
value that the next sample can show, samples being 1.25 tu apart (R62; log 10). -/
def blockStarts (x : Mic) (first : Time) : Bool :=
  if x.fresh then decide (0 ≤ diff first x.blockFrom) && decide (diff first x.blockFrom ≤ 2) else first == x.blockFrom

/-- A block completes at the present: its last sample's counter value is one or two tu short of the block's end (R62;
log 10). -/
def blockCompletes (now first : Time) (n : Nat) : Bool :=
  diff now first == (blockDuration n : Int) - 2 || diff now first == (blockDuration n : Int) - 1

/-- A microphone after a completed block: expired windows leave, the detector examines the value against the floor as it
stood, and the floor takes the value in; an unsettled floor is set and nothing is examined (R62 to R64, R70). -/
def afterBlock (now : Time) (env : Nat) (envTime : Time) (x : Mic) : Mic :=
  let next := addTu envTime (blockDuration x.settings.averaging)
  let y := { x with gates := expireWindows envTime x.gates, envelope := some (env, envTime), blockFrom := next, fresh := false }
  match x.floor, excessOf x env with
  | some f, some e => { detect now envTime y e with floor := some (floorAfter x.settings.floorShift env f) }
  | _, _ => { y with floor := some env }

/-- The onset record of a block, where its detector makes one (R66). -/
def onsetOf (now : Time) (m : MicNo) (env : Nat) (envTime : Time) (x : Mic) : Option Onset :=
  (excessOf x env).bind fun e => if makesOnset now envTime x e then some ⟨envTime, m, e.toNat⟩ else none

/-- An onset reaches the onset queue (R71). -/
def queueOnset (o : Onset) (s : State) : State :=
  if s.front.onsets.length < Config.maxOnsets then
    { s with front := { s.front with onsets := s.front.onsets ++ [o] } }
  else countOnsetsDropped s

/-- An onset that does not go to the Levelling Unit: the gate test where the policy is GATE, then the queue (R66, R67). -/
def routeOnset (o : Onset) (s : State) : State :=
  if (mic s o.mic).settings.policy == .gate && (mic s o.mic).gates.any (·.holds o.tObs) then countMasked s
  else queueOnset o s

/-! ### Running state after resets and settings -/

/-- The running state of a microphone that starts afresh at a time: no block in progress, floor unsettled, detector
ARMED, last firing stale, no windows (R61, R77). -/
def Mic.afresh (t : Time) (x : Mic) : Mic :=
  { settings := x.settings, blockFrom := t, fresh := true, envelope := none, floor := none, fired := false, lastFiring := none
    gates := [] }

/-- A microphone after accepted settings (R61). -/
def Mic.withSettings (t : Time) (new : MicSettings) (x : Mic) : Mic :=
  let y := { x with settings := new }
  if new.enable != x.settings.enable then y.afresh t
  else
    let y := if new.averaging != x.settings.averaging then { y with blockFrom := t, fresh := true } else y
    if x.settings.policy == .gate && new.policy == .open_ then { y with gates := [] } else y

end Sys2Proof.Machine
end

