-- ==== Sys2Proof/Machine/Divisions.lean ====
section
/-! DEFINITION. The Division Drivers (chapter 8): which valves are driven, the wind demand and the wind check, the
delivery of KEY_ON and KEY_OFF, stop changes, forced releases, the coil monitor and the test drive of a levelling run. -/

namespace Sys2Proof.Machine

/-! ### Outputs and wind -/

/-- The stops that exist in a division's stop list (R144). -/
def existing (x : Division) : StopSet := BitVec.ofNat 16 (2 ^ min x.weights.length 16 - 1)

/-- The stops a registration draws on a division (R145). -/
def drawsOn (x : Division) (r : StopSet) : StopSet := r &&& existing x

/-- The stops that registration set g draws on division d (R145). -/
def setDraws (s : State) (g : Fin 8) (d : DivNo) : StopSet := drawsOn (div s d) s.drivers.registrations[g][d]

/-- The magnet of a stop is driven: the stop is drawn and the stop chains are the part's (R144, R158). -/
def stopOutput (s : State) (d : DivNo) (i : Fin 16) : Bool := (div s d).drawn[i.val] && !yielded s

/-- A key's fault state lets its valve be driven (R147). -/
def KeyRecord.sound (k : KeyRecord) : Bool := k.fault == .normal || k.fault == .openCoil

/-- The test key of a levelling run is driven while the run is SOUNDING (R147, R182). -/
def testDriven (s : State) (d : DivNo) (k : KeyNo) : Bool :=
  s.levelling.run.any fun r => r.phase == .sounding && r.division == d && r.key == k

/-- A valve is driven (R147). -/
def driven (s : State) (d : DivNo) (k : KeyNo) : Bool :=
  (decide (1 ≤ (key s d k).holders) && (key s d k).sound && !yielded s) || testDriven s d k

/-- n, the number of a division's valves driven (R148). -/
def drivenCount (s : State) (d : DivNo) : Nat := ((allFin 61).filter (driven s d)).length

/-- w, the summed weight of a division's drawn stops (R148). -/
def drawnWeight (x : Division) : Nat := (x.weights.mapIdx fun i w => if x.drawn.getLsbD i then w else 0).sum

/-- The wind demand n × w of a division (R148). -/
def windDemand (s : State) (d : DivNo) : Nat := drivenCount s d * drawnWeight (div s d)

/-- The wind check of an opening against a limit: (n + 1) × w ≤ limit (R148). -/
def windAllows (s : State) (d : DivNo) (limit : Nat) : Bool :=
  decide ((drivenCount s d + 1) * drawnWeight (div s d) ≤ limit)

/-- The limit of the wind check for a voice: the capacity for S, less the melody reserve for any other (R148). -/
def windLimit (x : Division) (v : Voice) : Nat := if v = .S then x.capacity else x.capacity - x.reserve

/-! ### Keys -/

/-- A key whose holder count becomes 0; CLEARED_PENDING becomes NORMAL at that moment (R146). -/
def KeyRecord.released (k : KeyRecord) : KeyRecord :=
  { k with holders := 0, fault := if k.fault == .clearedPending then .normal else k.fault }

/-- Every holder count of a division set to 0 (R151, R158). -/
def releaseKeys (x : Division) : Division := { x with keys := mapIdx (fun _ k => k.released) x.keys }

/-- Every division changed by one function. -/
def mapDivisions (f : DivNo → Division → Division) (s : State) : State :=
  { s with drivers := { s.drivers with divisions := mapIdx f s.drivers.divisions } }

/-- Every holder count of every division set to 0, so that every valve is released (R24, R159). -/
def releaseAll (s : State) : State := mapDivisions (fun _ x => releaseKeys x) s

/-- Every holder count of every division is 0 (R33). -/
def allReleased (s : State) : Bool :=
  (allFin 6).all fun d => (allFin 61).all fun k => (key s d k).holders == 0

/-- The outcome of a delivered KEY_ON (R149). -/
inductive KeyOnOutcome where
  | discarded | heldSilent | heldDriven | opened | shed
deriving DecidableEq, Repr

/-- Which case of R149 a delivered KEY_ON meets. -/
def keyOnCase (s : State) (d : DivNo) (k : KeyNo) (v : Voice) : KeyOnOutcome :=
  if 10 ≤ (key s d k).holders then .discarded
  else if !(key s d k).sound then .heldSilent
  else if 1 ≤ (key s d k).holders then .heldDriven
  else if windAllows s d (windLimit (div s d) v) then .opened
  else .shed

/-- The holder count of a key one higher. -/
def holdKey (d : DivNo) (k : KeyNo) (s : State) : State :=
  setKey d k { key s d k with holders := (key s d k).holders + 1 } s

/-- A KEY_ON is delivered (R149): true where its KEY_OFF must leave the queue. -/
def deliverKeyOn (d : DivNo) (k : KeyNo) (v : Voice) (s : State) : State × Bool :=
  match keyOnCase s d k v with
  | .discarded => (countShed s, true)
  | .heldSilent => (holdKey d k s, false)
  | .heldDriven => (holdKey d k s, false)
  | .opened => (reportOpening d (holdKey d k s), false)
  | .shed => (countShed s, true)

/-- A KEY_OFF is delivered (R150). -/
def deliverKeyOff (d : DivNo) (k : KeyNo) (s : State) : State :=
  if (key s d k).holders = 0 then s
  else if (key s d k).holders = 1 then setKey d k (key s d k).released s
  else setKey d k { key s d k with holders := (key s d k).holders - 1 } s

/-! ### Stop changes -/

/-- A stop change of a division to a set of stops begins at the present (R152). -/
def stopChange (d : DivNo) (r : StopSet) (s : State) : State :=
  setDiv d { div s d with
    drawn := drawsOn (div s d) r
    stopState := .changing (addTu s.now (div s d).stopAction) } s

/-- Stop changes of several divisions, each to the stops a function gives, in division order. -/
def stopChanges (want : DivNo → Option StopSet) (s : State) : State :=
  (allFin 6).foldl (fun s d => match want d with
    | some r => stopChange d r s
    | none => s) s

/-- The change end of a division that is CHANGING (R152). -/
def changeEnd (x : Division) : Option Time :=
  match x.stopState with
  | .settled => none
  | .changing t => some t

/-- A key of a division is held (R151). -/
def anyHeld (x : Division) : Bool := x.keys.toList.any fun k => decide (1 ≤ k.holders)

/-- What the yield does to the drivers: holders 0, every stop retired, every stop state SETTLED, every debounce count of a
CLEARED_PENDING key at 0 (R158). -/
def yieldDivision (x : Division) : Division :=
  { x with drawn := 0, stopState := .settled, keys := mapIdx (fun _ k =>
      if k.fault == .clearedPending then { k.released with openCount := 0, shortCount := 0 } else k.released) x.keys }

/-- What a quiet reset does to a division (R164). -/
def quietDivision (x : Division) : Division :=
  { x with drawn := 0, stopState := .settled,
           keys := mapIdx (fun _ k => { k.released with openCount := 0, shortCount := 0 }) x.keys }

/-! ### The coil monitor -/

/-- A debounce count one higher, held at 8 (R154). -/
def debounceUp (n : Nat) : Nat := if n < 8 then n + 1 else 8

/-- The counts of a key after a scan (R154). -/
def scanCounts (isDriven : Bool) (c : CoilCurrent) (k : KeyRecord) : KeyRecord :=
  if isDriven then
    match c with
    | .none => { k with openCount := debounceUp k.openCount, shortCount := 0 }
    | .normal => { k with openCount := 0, shortCount := 0 }
    | .excess => { k with openCount := 0, shortCount := debounceUp k.shortCount }
  else { k with openCount := 0, shortCount := 0 }

/-- What a scan finds on a key (R155, R156). -/
inductive ScanFinding where
  | nothing | openCoil | shorted
deriving DecidableEq, Repr

/-- A count reaches the debounce value at the scan whose update leaves it equal to the value; a count held at 8 does so at
every further scan while the value is 8 (R154, R155, R156; log 19, log 55). -/
def scanFinding (debounce : Nat) (isDriven : Bool) (c : CoilCurrent) (k : KeyRecord) : ScanFinding :=
  let after := scanCounts isDriven c k
  if !isDriven then .nothing
  else match c with
    | .none => if after.openCount = debounce ∧ k.fault = .normal then .openCoil else .nothing
    | .normal => .nothing
    | .excess => if after.shortCount = debounce ∧ k.sound = true then .shorted else .nothing

/-- A key record after a scan (R154 to R156). -/
def scanKey (debounce : Nat) (isDriven : Bool) (c : CoilCurrent) (k : KeyRecord) : KeyRecord :=
  match scanFinding debounce isDriven c k with
  | .nothing => scanCounts isDriven c k
  | .openCoil => { scanCounts isDriven c k with fault := .openCoil }
  | .shorted => { scanCounts isDriven c k with fault := .shorted }

/-- A key is scanned: an output of a present division (R154). -/
def scanned (s : State) (d : DivNo) (k : KeyNo) : Bool := (div s d).present && decide (k.val < (div s d).compass)

/-- Every key record after a scan of all coils, each judged by its output before the scan (R154). -/
def scanAll (r : CoilReadings) (s : State) : State :=
  mapDivisions (fun d x => { x with keys := mapIdx (fun k rec =>
    if scanned s d k then scanKey s.drivers.debounce (driven s d k) r[d][k] rec else rec) x.keys }) s

/-- The finding of a scan on one key, from the state before it. -/
def findingAt (r : CoilReadings) (s : State) (d : DivNo) (k : KeyNo) : ScanFinding :=
  if scanned s d k then scanFinding s.drivers.debounce (driven s d k) r[d][k] (key s d k) else .nothing

/-- The FAULT notice of a finding, with the holder count and the present time (R155, R156). -/
def faultNotice (r : CoilReadings) (before : State) (d : DivNo) (k : KeyNo) : Option Notice :=
  match findingAt r before d k with
  | .nothing => none
  | .openCoil => some (.openCoil d k.val (key before d k).holders before.now)
  | .shorted => some (.shorted d k.val (key before d k).holders before.now)

/-- The FAULT notices of a scan, division by division and key by key (log 20). -/
def faultNotices (r : CoilReadings) (s : State) : List Notice :=
  (allFin 6).flatMap fun d => (allFin 61).filterMap fun k => faultNotice r s d k

/-- A FAULT_CLEAR's new fault state (R157). -/
def clearedFault (k : KeyRecord) : FaultState :=
  match k.fault with
  | .openCoil => .normal
  | .shorted => if k.holders = 0 then .normal else .clearedPending
  | f => f

/-- A named key after a FAULT_CLEAR (R157). -/
def clearKey (k : KeyRecord) : KeyRecord := { k with fault := clearedFault k, openCount := 0, shortCount := 0 }

end Sys2Proof.Machine
end

