-- ==== Sys2Proof/Machine/Queue.lean ====
section
/-! DEFINITION. The Dispatch Queue (chapter 7): issue times from score positions, retiming and sorting, late entries,
clipped pairs, deferrals, the delivery of an entry that falls due, removals, flushes and insertions. -/

namespace Sys2Proof.Machine

/-! ### Entries -/

/-- The division of an entry (R125). -/
def Action.division : Action → DivNo
  | .keyOn d _ _ _ _ => d
  | .keyOff d _ _ _ _ => d
  | .stopSet d _ => d

/-- The pair number of an entry's KEY_ON (R125). -/
def Action.onPair : Action → Option (BitVec 16)
  | .keyOn _ _ _ n _ => some n
  | .keyOff .. => none
  | .stopSet .. => none

/-- The pair number of an entry's KEY_OFF (R125). -/
def Action.offPair : Action → Option (BitVec 16)
  | .keyOn .. => none
  | .keyOff _ _ _ n _ => some n
  | .stopSet .. => none

/-- The release side: clear for a KEY_ON, set for the others (R125). -/
def Action.releaseSide : Action → Bool
  | .keyOn .. => false
  | .keyOff .. => true
  | .stopSet .. => true

/-- The entry is a KEY_ON or a KEY_OFF (R33). -/
def Entry.isKey (e : Entry) : Bool :=
  match e.action with
  | .keyOn .. => true
  | .keyOff .. => true
  | .stopSet .. => false

/-- The KEY_ON of a pair in a queue. -/
def onOf (q : List Entry) (n : BitVec 16) : Option Entry := q.find? fun e => e.action.onPair == some n

/-- The KEY_OFF of a pair in a queue. -/
def offOf (q : List Entry) (n : BitVec 16) : Option Entry := q.find? fun e => e.action.offPair == some n

/-- The KEY_ON of a pair is still queued (R126). -/
def onQueued (q : List Entry) (n : BitVec 16) : Bool := q.any fun e => e.action.onPair == some n

/-! ### Issue times -/

/-- The time of an entry's position, less a lead; none for a segment the map gives no time to (R127). -/
def leadTime (s : State) (e : Entry) (lead : Nat) : Option Time :=
  (positionTime s e.segment e.pos e.action.releaseSide).map fun t => addTu t (-(lead : Int))

/-- A time raised to a not-before that is after it (R128). -/
def notEarlier (t : Time) : Option Time → Time
  | none => t
  | some nb => later t nb

/-- The issue time of a KEY_ON (R127, R128; log 21). -/
def onIssue (s : State) (e : Entry) : Time :=
  match e.action with
  | .keyOn d _ _ _ nb => notEarlier ((leadTime s e (leadOn s d)).getD e.issue) nb
  | _ => e.issue

/-- Step 1 of a retime: the KEY_ON times (R135). -/
def retimeOns (s : State) (q : List Entry) : List Entry := q.map fun e => { e with issue := onIssue s e }

/-- The issue time of a KEY_OFF or STOP_SET, with the KEY_ON times of step 1 (R127, R129, R130). -/
def offIssue (s : State) (ons : List Entry) (e : Entry) : Time :=
  match e.action with
  | .keyOn .. => e.issue
  | .keyOff d _ _ _ followOn =>
    match leadTime s e (leadOff s d) with
    | none => e.issue
    | some raw =>
      match followOn.bind (onOf ons) with
      | none => raw
      | some u => earlier raw (addTu u.issue (-(s.follower.settings.repeatGap : Int)))
  | .stopSet d _ => (leadTime s e (leadOff s d)).getD e.issue

/-- Steps 1 to 3 of a retime: every issue time recomputed, the order kept (R135). -/
def retimeList (s : State) (q : List Entry) : List Entry :=
  let ons := retimeOns s q
  ons.map fun e => { e with issue := offIssue s ons e }

/-- An entry at its place in queue order, after those already present with its issue time (R126). -/
def placeEntry (e : Entry) : List Entry → List Entry
  | [] => [e]
  | v :: vs => if isBefore e.issue v.issue then e :: v :: vs else v :: placeEntry e vs

/-- Entries sorted by issue time; equal times keep the order they stood in (R126, R135). -/
def sortEntries (q : List Entry) : List Entry := q.foldl (fun acc e => placeEntry e acc) []

/-- Entries that a retime moves to an issue time at or before the present (R136). -/
def lateCount (now : Time) (old new : List Entry) : Nat :=
  ((old.zip new).filter fun p => p.1.issue != p.2.issue && atOrBefore p.2.issue now).length

/-- A retime: every issue time recomputed, late entries counted, the queue sorted (R135, R136). -/
def retime (s : State) : State :=
  let new := retimeList s s.queue
  countLate (lateCount s.now s.queue new) { s with queue := sortEntries new }

/-- An insertion: the new entries stand after those present with the same issue time, the retime takes in old and new,
and an entry placed at or before the present is late (R116, R126, R136). The entries come with the present as their issue
time, which an entry of an earlier segment keeps (R127). -/
def insertEntries (new : List Entry) (s : State) : State :=
  let all := retimeList s (s.queue ++ new)
  let late := lateCount s.now s.queue (all.take s.queue.length) +
    ((all.drop s.queue.length).filter fun e => atOrBefore e.issue s.now).length
  countLate late { s with queue := sortEntries all }

/-! ### Removals -/

/-- Follow-ons naming a pair cleared (R125, R137). -/
def dropFollowOn (gone : BitVec 16 → Bool) (e : Entry) : Entry :=
  match e.action with
  | .keyOff d k v n (some f) => if gone f then { e with action := .keyOff d k v n none } else e
  | _ => e

/-- A KEY_OFF holds a follow-on naming a pair. -/
def followsOn (gone : BitVec 16 → Bool) (e : Entry) : Bool :=
  match e.action with
  | .keyOff _ _ _ _ (some f) => gone f
  | _ => false

/-- The KEY_OFF of a pair removed (R137). -/
def removeOff (n : BitVec 16) (s : State) : State :=
  { s with queue := s.queue.filter fun e => e.action.offPair != some n }

/-- A KEY_OFF of a division whose KEY_ON is not in the queue: an issued release (R137). -/
def issuedRelease (q : List Entry) (d : DivNo) (e : Entry) : Bool :=
  match e.action with
  | .keyOff d' _ _ n _ => d' == d && !onQueued q n
  | _ => false

/-- Every issued release of a division removed and counted FORCED (R137, R151). -/
def removeReleases (d : DivNo) (s : State) : State :=
  countForced (s.queue.filter (issuedRelease s.queue d)).length
    { s with queue := s.queue.filter fun e => !issuedRelease s.queue d e }

/-- A flush: every entry removed, none delivered or counted (R138). -/
def flush (s : State) : State := { s with queue := [] }

/-! ### An entry that falls due -/

/-- The first entry is at or before the present (R131). -/
def entryDue (s : State) : Bool := s.queue.head?.any fun e => atOrBefore e.issue s.now

/-- A pair is clipped: its KEY_OFF is at or before its KEY_ON, and both are queued (R129). -/
def clipped (q : List Entry) (n : BitVec 16) : Bool :=
  match onOf q n, offOf q n with
  | some a, some b => atOrBefore b.issue a.issue
  | _, _ => false

/-- A clipped pair leaves the queue undelivered and is counted; a cleared follow-on calls for a retime (R132, R135). -/
def clipPair (n : BitVec 16) (s : State) : State :=
  let left := s.queue.filter fun e => e.action.onPair != some n && e.action.offPair != some n
  let s' := countClipped { s with queue := left.map (dropFollowOn (· == n)) }
  if left.any (followsOn (· == n)) then retime s' else s'

/-- The later of two optional times. -/
def laterOpt : Option Time → Option Time → Option Time
  | none, u => u
  | t, none => t
  | some t, some u => some (later t u)

/-- The end of a division's stop change that ends after the present (R133). -/
def changeBound (s : State) (d : DivNo) : Option Time :=
  (changeEnd (div s d)).bind fun t => if isBefore s.now t then some t else none

/-- The bound of the queued STOP_SETs of a division with a lesser segment index (R133). -/
def stopSetBound (s : State) (d : DivNo) (seg : Nat) : Option Time :=
  s.queue.foldl (fun acc e => match e.action with
    | .stopSet d' _ => if d' = d ∧ e.segment < seg then laterOpt acc (some (addTu e.issue (div s d).stopAction)) else acc
    | _ => acc) none

/-- The new not-before of a KEY_ON that its division must not yet take; none where it may (R133). -/
def deferral (s : State) (d : DivNo) (seg : Nat) : Option Time := laterOpt (changeBound s d) (stopSetBound s d seg)

/-- A KEY_ON is deferred: its not-before is written, it is put back in the queue without being counted LATE by that,
and the queue retimes (R133, R135; log 39). -/
def defer (e : Entry) (d : DivNo) (k : KeyNo) (v : Voice) (n : BitVec 16) (nb : Time) (s : State) : State :=
  let e' := { e with action := .keyOn d k v n (some nb) }
  let e' := { e' with issue := onIssue s e' }
  retime (countDeferred { s with queue := placeEntry e' s.queue })

/-- A STOP_SET is delivered (R151): nothing when the stops are drawn and settled, else held keys are forced closed, their
issued releases removed, and the stop change begins. -/
def deliverStopSet (d : DivNo) (r : StopSet) (s : State) : State :=
  if (div s d).drawn = r ∧ (div s d).stopState = .settled then s
  else if anyHeld (div s d) then stopChange d r (removeReleases d (setDiv d (releaseKeys (div s d)) s))
  else stopChange d r s

/-- An entry that is neither clipped nor deferred is delivered to the Division Drivers (R131). -/
def deliver (e : Entry) (s : State) : State :=
  match e.action with
  | .keyOn d k v n _ => if (deliverKeyOn d k v s).2 then removeOff n (deliverKeyOn d k v s).1 else (deliverKeyOn d k v s).1
  | .keyOff d k _ _ _ => deliverKeyOff d k s
  | .stopSet d r => deliverStopSet d r s

/-- Whether the first entry meets R132 or R133, which may call for a retime. -/
def headRetimes (s : State) : Bool :=
  match s.queue with
  | [] => false
  | e :: rest =>
    match e.action with
    | .keyOn d _ _ n _ => clipped (e :: rest) n || (deferral { s with queue := rest } d e.segment).isSome
    | .keyOff _ _ _ n _ => clipped (e :: rest) n
    | .stopSet .. => false

/-- The first entry is removed and acted on by the first case that applies (R131). -/
def actOnHead (s : State) : State :=
  match s.queue with
  | [] => s
  | e :: rest =>
    let s' := { s with queue := rest }
    match e.action with
    | .keyOn d k v n _ =>
      if clipped (e :: rest) n then clipPair n s'
      else match deferral s' d e.segment with
        | some nb => defer e d k v n nb s'
        | none => deliver e s'
    | .keyOff _ _ _ n _ => if clipped (e :: rest) n then clipPair n s' else deliver e s'
    | .stopSet .. => deliver e s'

end Sys2Proof.Machine
end

