-- ==== Sys2Proof/Machine/Store.lean ====
section
/-! DEFINITION. The Score Store (chapter 1): slots and the event pool, the event records of TUNE_DATA, the validation at
TUNE_END with the tables it derives, and the tune requests. -/

namespace Sys2Proof.Machine

/-- A slot replaced, and the free count set (R3). -/
def setSlot (i : Fin 16) (x : Slot) (free : Nat) (s : State) : State :=
  { s with store := { slots := s.store.slots.set i x, free := free } }

/-- The records a slot reserves (R3). -/
def Slot.reserved : Slot → Nat
  | .empty => 0
  | .loading h _ => h.declared
  | .ready t => t.header.declared

/-- A slot is in use: the active plan names it, or the queued flag is set and the staged plan names it (R16, R21). -/
def slotInUse (s : State) (i : Fin 16) : Bool :=
  s.plan.active.any (·.slot == i) || (s.plan.queued && s.plan.staged.any (·.slot == i))

/-! ### TUNE_BEGIN -/

/-- The header a TUNE_BEGIN body carries (R4). -/
def headerOf (b : List Byte) : TuneHeader :=
  { label := wordAt b 1, default := wordAt b 3, minimum := wordAt b 5, maximum := wordAt b 7, declared := wordAt b 9 }

/-- The header's own check (R4, order 2). -/
def TuneHeader.valid (h : TuneHeader) : Bool :=
  inRange h.default 2000 20000 && inRange h.minimum 2000 20000 && inRange h.maximum 2000 20000 &&
  decide (h.minimum ≤ h.default) && decide (h.default ≤ h.maximum) && inRange h.declared 1 512

/-- TUNE_BEGIN (R4, R5). -/
def doTuneBegin (b : List Byte) : Handler := fun s =>
  let h := headerOf b
  let i := toFin 16 (byteAt b 0)
  if 15 < byteAt b 0 then (s, refuse .badField)
  else if !h.valid then (s, refuse .badField)
  else if slotInUse s i then (s, refuse .inUse)
  else
    let room := s.store.free + (slot s i).reserved
    if room < h.declared then (s, ⟨.noRoom, e16 room⟩)
    else (setSlot i (.loading h []) (room - h.declared) s, ok (e16 (room - h.declared)))

/-! ### TUNE_DATA -/

/-- A pitch byte passes the field check: 0..127, or 255 for absent (R7). -/
def pitchOk (b : List Byte) (i : Nat) : Bool := decide (byteAt b i ≤ 127) || byteAt b i == 255

/-- The event record at a place of a body (12, 12.6). -/
def eventAt (b : List Byte) (i : Nat) : Event :=
  { pos := wordAt b i, len := wordAt b (i + 2),
    pitch := ⟨optByteAt b (i + 4), optByteAt b (i + 5), optByteAt b (i + 6), optByteAt b (i + 7), optByteAt b (i + 8)⟩,
    voiceId := toFin 16 (byteAt b (i + 9)),
    cue := (byteAt b (i + 10)).testBit 0, fermata := (byteAt b (i + 10)).testBit 1, breath := (byteAt b (i + 10)).testBit 2,
    lineEnd := (byteAt b (i + 10)).testBit 3, amen := (byteAt b (i + 10)).testBit 4,
    tie := voiceMask (byteAt b (i + 11)) }

/-- An event record passes the field checks (R7). -/
def eventOk (b : List Byte) (i : Nat) : Bool :=
  inRange (wordAt b (i + 2)) 1 1536 && decide (wordAt b i + wordAt b (i + 2) ≤ 65535) &&
  pitchOk b (i + 4) && pitchOk b (i + 5) && pitchOk b (i + 6) && pitchOk b (i + 7) && pitchOk b (i + 8) &&
  decide (byteAt b (i + 9) ≤ 15) && decide (byteAt b (i + 10) < 32) && decide (byteAt b (i + 11) < 32)

/-- The number of event records of a TUNE_DATA body (R6, R214). -/
def eventCount (b : List Byte) : Nat := (b.length - 3) / 12

/-- TUNE_DATA (R6, R7, R8). -/
def doTuneData (b : List Byte) : Handler := fun s =>
  let i := toFin 16 (byteAt b 0)
  if 15 < byteAt b 0 then (s, refuse .badField)
  else match slot s i with
    | .loading h es =>
      let n := eventCount b
      if wordAt b 1 ≠ es.length then (s, ⟨.sequence, e16 es.length⟩)
      else match (List.range n).find? fun j => !eventOk b (3 + 12 * j) with
        | some j => (s, ⟨.badField, e16 (wordAt b 1 + j)⟩)
        | none =>
          if h.declared < es.length + n then (s, ⟨.noRoom, e16 es.length⟩)
          else
            let es' := es ++ (List.range n).map fun j => eventAt b (3 + 12 * j)
            (setSlot i (.loading h es') s.store.free s, ok (e16 es'.length))
    | .empty => (s, refuse .notLoading)
    | .ready _ => (s, refuse .notLoading)

/-! ### TUNE_END -/

/-- The validation codes of R10, in their order. -/
inductive TuneFault where
  | count | order | amenPlace | verseEnd | lines | noCue | amenEnd
deriving DecidableEq, Repr

/-- The code of a failing check: its place in R10's list, from 0 (R207). -/
def TuneFault.code : TuneFault → Nat
  | .count => 0 | .order => 1 | .amenPlace => 2 | .verseEnd => 3 | .lines => 4 | .noCue => 5 | .amenEnd => 6

/-- The index i + 1 of the lowest pair of neighbours that overlap (R10, ORDER). -/
def firstOverlap (i : Nat) : List Event → Option Nat
  | [] => none
  | e :: es =>
    match es.head? with
    | none => none
    | some f => if f.pos < e.pos + e.len then some (i + 1) else firstOverlap (i + 1) es

/-- The index of the lowest event without AMEN that follows one with AMEN (R10, AMEN_PLACE). -/
def strayVerseEvent (i : Nat) (seen : Bool) : List Event → Option Nat
  | [] => none
  | e :: es => if seen && !e.amen then some i else strayVerseEvent (i + 1) (seen || e.amen) es

/-- The indices of the events that satisfy a condition. -/
def indicesOf (p : Event → Bool) (es : List Event) : List Nat := (List.range es.length).filter fun i => (es[i]?).any p

/-- The non-Amen events: the verse part (R10). -/
def versePart (es : List Event) : List Event := es.filter fun e => !e.amen

/-- The index of the last non-Amen event (R10). -/
def lastVerseIndex (es : List Event) : Nat := ((indicesOf (fun e => !e.amen) es).getLast?).getD 0

/-- The seventeenth LINE_END event among those of a part (R10, LINES). -/
def seventeenth (p : Event → Bool) (es : List Event) : Option Nat := (indicesOf (fun e => p e && e.lineEnd) es)[16]?

/-- The first failing check of R10 with the index it reports; none when every check passes. -/
def tuneFault (h : TuneHeader) (es : List Event) : Option (TuneFault × Nat) :=
  let lastVerse := lastVerseIndex es
  if es.length ≠ h.declared then some (.count, es.length)
  else match firstOverlap 0 es with
  | some i => some (.order, i)
  | none =>
  if es.all (·.amen) then some (.amenPlace, 0)
  else match strayVerseEvent 0 false es with
  | some i => some (.amenPlace, i)
  | none =>
  if !(es[lastVerse]?).any (·.lineEnd) then some (.verseEnd, lastVerse)
  else match seventeenth (fun e => !e.amen) es with
  | some i => some (.lines, i)
  | none =>
  match seventeenth (·.amen) es with
  | some i => some (.lines, i)
  | none =>
  if !(es.any fun e => !e.amen && e.cue) then some (.noCue, lastVerse)
  else if es.any (·.amen) && !(es.getLast?).any (·.lineEnd) then some (.amenEnd, es.length - 1)
  else none

/-- The Amen tail of a validated tune (R12). -/
def amenTailOf (es : List Event) : Option AmenTail :=
  (es.findIdx? (·.amen)).bind fun i => (es[i]?).bind fun e => es.getLast?.map fun l =>
    ⟨e.pos, l.pos + l.len, i, es.length - 1⟩

/-- The end of an event. -/
def Event.stop (e : Event) : Nat := e.pos + e.len

/-- The tune that validation derives: line table, verse end and Amen tail (R11, R12). -/
def deriveTune (h : TuneHeader) (es : List Event) : Tune :=
  { header := h, events := es, lines := formLines 0 none 0 (versePart es),
    verseEnd := (versePart es).getLast?.elim 0 Event.stop, amen := amenTailOf es }

/-- TUNE_END (R9, R10, R13). -/
def doTuneEnd (b : List Byte) : Handler := fun s =>
  let i := toFin 16 (byteAt b 0)
  if 15 < byteAt b 0 then (s, refuse .badField)
  else match slot s i with
    | .loading h es =>
      match tuneFault h es with
      | some (f, at_) => (setSlot i .empty (s.store.free + h.declared) s, ⟨.badTune, e8 f.code ++ e16 at_⟩)
      | none =>
        let t := deriveTune h es
        (setSlot i (.ready t) s.store.free s, ok (e8 t.lines.length ++ e16 t.verseEnd ++ eFlag t.amen.isSome))
    | .empty => (s, refuse .notLoading)
    | .ready _ => (s, refuse .notLoading)

/-! ### TUNE_ERASE and TUNE_READ -/

/-- TUNE_ERASE (R14). -/
def doTuneErase (b : List Byte) : Handler := fun s =>
  let i := toFin 16 (byteAt b 0)
  if 15 < byteAt b 0 then (s, refuse .badField)
  else if slotInUse s i then (s, refuse .inUse)
  else
    let free := s.store.free + (slot s i).reserved
    (setSlot i .empty free s, ok (e16 free))

/-- The label, the three periods and the declared count, as TUNE_READ reports them (R15). -/
def TuneHeader.fields (h : TuneHeader) : List Byte :=
  e16 h.label ++ e16 h.default ++ e16 h.minimum ++ e16 h.maximum ++ e16 h.declared

/-- The further fields of a TUNE_READ reply, by slot state; without an Amen tail its range is sent as all-ones, as R207 sends
an absent record (R15, R207; log 34). -/
def Slot.readFields : Slot → List Byte
  | .empty => []
  | .loading h es => h.fields ++ e16 es.length
  | .ready t => t.header.fields ++ eList (fun l : Line => e16 l.start ++ e16 l.stop) t.lines ++ e16 t.verseEnd ++
      eFlag t.amen.isSome ++ t.amen.elim (eAbsent 4) fun a => e16 a.start ++ e16 a.stop

/-- TUNE_READ (R15). -/
def doTuneRead (b : List Byte) : Handler := fun s =>
  let i := toFin 16 (byteAt b 0)
  if 15 < byteAt b 0 then (s, refuse .badField)
  else (s, ok (e8 (slot s i).code ++ eFlag (slotInUse s i) ++ e16 s.store.free ++ (slot s i).readFields))

/-- What a quiet reset does to a slot: a LOADING slot becomes EMPTY (R19). -/
def Slot.quiet : Slot → Slot
  | .empty => .empty
  | .loading _ _ => .empty
  | .ready t => .ready t

/-- The records that LOADING slots return at a quiet reset (R3, R19). -/
def loadingRecords (s : State) : Nat := (s.store.slots.toList.map fun x => x.reserved - x.quiet.reserved).sum

/-- The Score Store's part of a quiet reset (R19). -/
def quietStore (s : State) : State :=
  { s with store := { slots := mapIdx (fun _ x => x.quiet) s.store.slots, free := s.store.free + loadingRecords s } }

end Sys2Proof.Machine
end

