-- ==== Sys2Proof/Machine/Follower.lean ====
section
/-! DEFINITION. The Tempo Follower (chapter 5): cue windows and times, the posting of cues, misses and expiries, onsets and
matches, and what pauses, segment starts and segment ends do to the map and the follower. What follows a map change (R52)
is in Settle.lean. -/

namespace Sys2Proof.Machine

/-! ### Small updates -/

def setFollower (x : Follower) (s : State) : State := { s with follower := x }
def setMap (x : ScoreMap) (s : State) : State := { s with map := x }
def setMode (m : FollowerMode) (s : State) : State := { s with follower := { s.follower with mode := m } }
def setCues (cs : List Cue) (s : State) : State := { s with follower := { s.follower with cues := cs } }
def setPauses (ps : List Pause) (s : State) : State := { s with map := { s.map with pauses := ps } }

/-- The first item that satisfies a condition, with the items before and after it. -/
def splitFirst {α : Type} (p : α → Bool) : List α → Option (List α × α × List α)
  | [] => none
  | x :: xs =>
    if p x then some ([], x, xs)
    else match splitFirst p xs with
      | some (a, y, b) => some (x :: a, y, b)
      | none => none

/-- The mode becomes OFF, LEAD or FOLLOW other than by a rejoin or a pause end: credit A, rejoin run 0 (R79). -/
def enterMode (m : FollowerMode) (s : State) : State :=
  { s with follower := { s.follower with mode := m, credit := s.follower.settings.allowance, rejoinRun := 0 } }

/-! ### Cues -/

def Cue.isPending (c : Cue) : Bool :=
  match c.state with
  | .pending => true
  | .matched _ _ => false

/-- A cue belongs to the current segment. -/
def ofCurrent (s : State) (c : Cue) : Bool := s.map.current == some c.segment

/-- A PENDING cue of the current segment. -/
def awaited (s : State) (c : Cue) : Bool := c.isPending && ofCurrent s c

/-- W, the window of a cue of a kind at the current P (R83). -/
def cueWindow (s : State) (k : CueKind) : Nat :=
  match k with
  | .normal => roundNat (s.follower.settings.win * s.map.period) 48
  | .reEntry => s.map.period / 2

/-- The time of a cue, t(s_c, release side) (R83). -/
def cueTime (s : State) (c : Cue) : Option Time := positionTime s c.segment c.pos true

/-- A cue at the position of a pause of its segment that has not ended (R83). -/
def cueHeld (s : State) (c : Cue) : Bool := s.map.pauses.any fun p => p.segment == c.segment && p.pos == c.pos

/-- The error of a time against a cue (R87). -/
def cueError (s : State) (c : Cue) (t : Time) : Option Int := (cueTime s c).map fun u => diff t u

/-- A PENDING cue of the current segment contains a time (R83). -/
def cueContains (s : State) (t : Time) (c : Cue) : Bool :=
  awaited s c && !cueHeld s c && (cueError s c t).any fun e => decide (e.natAbs ≤ cueWindow s c.kind)

/-- The expiry time of a PENDING cue of the current segment (R83). -/
def cueExpiryTime (s : State) (c : Cue) : Option Time :=
  if awaited s c then (cueTime s c).map fun u => addTu u (cueWindow s c.kind : Nat) else none

/-- A cue's expiry time has come (R89). -/
def cueExpired (s : State) (c : Cue) : Bool := (cueExpiryTime s c).any fun t => atOrBefore t s.now

/-- A MATCHED record's removal time has come (R84). -/
def removalDue (s : State) (c : Cue) : Bool :=
  match c.state with
  | .pending => false
  | .matched _ removeAt => atOrBefore removeAt s.now

/-- The first MATCHED record whose removal time has come leaves the list (R84). -/
def removeMatched (s : State) : State :=
  match splitFirst (removalDue s) s.follower.cues with
  | some (a, _, b) => setCues (a ++ b) s
  | none => s

/-- The kind a cue takes as it joins the list (R82). -/
def postedKind (s : State) (seg : Nat) (rejoinMark : Bool) : CueKind :=
  if s.follower.lastPosted ≠ some seg then .reEntry
  else if s.map.current = some seg ∧ s.follower.owed = true then .reEntry
  else if rejoinMark then .reEntry
  else .normal

/-- A cue is posted (R82). -/
def postCue (seg event pos : Nat) (rejoinMark : Bool) (s : State) : State :=
  let k := postedKind s seg rejoinMark
  { s with follower := { s.follower with
      cues := s.follower.cues ++ [⟨seg, event, pos, k, .pending⟩]
      lastPosted := some seg
      owed := s.follower.owed && !(k == .reEntry && s.map.current == some seg) } }

/-! ### The map -/

/-- The period limits of the active tune (R101). -/
def clampPeriod (s : State) (p : Nat) : Nat :=
  (activeTune s).elim p fun t => clampNat p t.header.minimum t.header.maximum

/-- A re-anchoring at a position of the current segment, which removes its PLANNED pauses before that position (R48). -/
def reAnchor (t : Time) (pos : Nat) (s : State) : State :=
  { s with map := { s.map with
      anchor := some ⟨t, pos⟩
      pauses := s.map.pauses.filter fun p => p.isRunning || !(some p.segment == s.map.current && decide (p.pos < pos)) } }

/-! ### Losing and finding the choir -/

/-- A FOLLOW_STATE notice about the cue at a position of the current segment (R102). -/
def followStateNotice (pos : Nat) (s : State) : State :=
  notice (.followState s.follower.mode (s.map.current.getD 0) ((currentSegment s).elim 0 (·.verse)) pos s.now s.map.period
    s.follower.credit) s

/-- What a missed cue costs: credit in FOLLOW for a NORMAL cue, STEADY when it is spent; the rejoin run in STEADY; nothing in
the other modes, LEAD among them (R88, R89, R91; log 37). -/
def missCost (c : Cue) (s : State) : State :=
  match s.follower.mode, c.kind with
  | .follow, .normal =>
    if s.follower.credit ≤ 1 then
      followStateNotice c.pos { s with follower := { s.follower with mode := .steady, credit := 0, rejoinRun := 0 } }
    else { s with follower := { s.follower with credit := s.follower.credit - 1 } }
  | .steady, _ => { s with follower := { s.follower with rejoinRun := 0 } }
  | _, _ => s

/-- The kind of a missed RE_ENTRY cue passes to the next PENDING cue of the current segment among those after it, or is
owed (R89). -/
def passKindOn (before after : List Cue) (s : State) : State :=
  match splitFirst (awaited s) after with
  | some (a, c, b) => setCues (before ++ a ++ { c with kind := .reEntry } :: b) s
  | none => { s with follower := { s.follower with cues := before ++ after, owed := true } }

/-- The first cue in list order that satisfies a condition is missed; a RE_ENTRY kind is passed on in every mode (R89; log 37). -/
def missCue (p : Cue → Bool) (s : State) : State :=
  match splitFirst p s.follower.cues with
  | none => s
  | some (a, c, b) =>
    let s := missCost c (countMissed 1 (setCues (a ++ b) s))
    match c.kind with
    | .normal => s
    | .reEntry => passKindOn a b s

/-- The first cue in list order whose expiry time has come is missed (R89). -/
def expireCue (s : State) : State := missCue (cueExpired s) s

/-! ### Onsets -/

/-- t_on, the corrected time of an onset (R85). -/
def correctedTime (s : State) (o : Onset) : Time := addTu o.tObs (-(micToChoir s o.mic : Int))

/-- The follower discards every onset it takes now (R85). -/
def ignoresOnsets (s : State) : Bool :=
  (match s.follower.mode with
    | .off => true
    | .lead => true
    | .fermata => true
    | .follow => false
    | .steady => false) || (runningPause s).isSome || yielded s

/-- An onset time near a MATCHED record of the current segment (R86). -/
def isDuplicate (s : State) (t : Time) : Bool :=
  s.follower.cues.any fun c => !c.isPending && ofCurrent s c &&
    (cueError s c t).any fun e => decide (e.natAbs ≤ cueWindow s c.kind)

/-- The smallest error among the candidates (R87). -/
def bestError (s : State) (t : Time) : Option Nat :=
  ((s.follower.cues.filter (cueContains s t)).filterMap fun c => (cueError s c t).map Int.natAbs).min?

/-- The winning candidate, with the records before and after it: the smallest error, the earlier in the list (R87). -/
def winner (s : State) (t : Time) : Option (List Cue × Cue × List Cue) :=
  (bestError s t).bind fun best =>
    splitFirst (fun c => cueContains s t c && (cueError s c t).any fun e => e.natAbs == best) s.follower.cues

/-- The PENDING cues of the current segment before the winner are passed over, one at a time (R88). -/
def passOver (before : List Cue) (rest : List Cue) (s : State) : State :=
  (before.filter (awaited s)).foldl (fun s c => missCost c (countMissed 1 s))
    (setCues (before.filter (fun c => !awaited s c) ++ rest) s)

/-- ΔP of a normal match, clamped (R93). -/
def periodStep (s : State) (pos : Nat) (e : Int) : Int :=
  match s.follower.lastMatch with
  | none => 0
  | some last =>
    let d : Int := (pos : Int) - last
    if 1 ≤ d ∧ d ≤ 384 then
      clampAbs (roundDiv (e * 48 * s.follower.settings.periodGain) (256 * d.toNat)) (s.map.period / 16)
    else 0

/-- P after a match of a kind (R93, R94). -/
def matchedPeriod (s : State) (k : CueKind) (pos : Nat) (e : Int) : Nat :=
  match k with
  | .normal => clampPeriod s (s.map.period + periodStep s pos e).toNat
  | .reEntry => s.map.period

/-- Δφ of a match of a kind, clamped (R93, R94). -/
def phaseStep (s : State) (k : CueKind) (e : Int) : Int :=
  match k with
  | .normal => clampAbs (roundDiv (e * s.follower.settings.phaseGain) 16) (s.map.period / 4)
  | .reEntry => clampAbs e (s.map.period / 2)

/-- The removal time of a cue that an onset matches, computed with P as it stands (R84). -/
def matchRemoval (c : Cue) (tOn : Time) (s : State) : Time := addTu tOn (2 * cueWindow s c.kind : Nat)

/-- The cue becomes MATCHED, with its removal time; a record whose removal time is already at or before the present leaves at
that moment (R84, R95, R44). -/
def markMatched (c : Cue) (tOn : Time) (s : State) : State :=
  if atOrBefore (matchRemoval c tOn s) s.now then setCues (s.follower.cues.filter (· ≠ c)) s
  else setCues (s.follower.cues.map fun x => if x = c then { c with state := .matched tOn (matchRemoval c tOn s) } else x) s

/-- A match is applied to the map (R93 to R95); the credit is the caller's. -/
def applyMatch (c : Cue) (tOn : Time) (e : Int) (s : State) : State :=
  let t := addTu (addTu tOn (-e)) (phaseStep s c.kind e)
  let p := matchedPeriod s c.kind c.pos e
  let s := reAnchor t c.pos s
  let s := { s with map := { s.map with period := p }, follower := { s.follower with lastMatch := some c.pos } }
  markMatched c tOn s

/-- A match in FOLLOW raises the credit, not above A (R91, R95). -/
def raiseCredit (s : State) : State :=
  { s with follower := { s.follower with credit := min (s.follower.credit + 1) s.follower.settings.allowance } }

/-- The mode returns to FOLLOW by a rejoin, with the credit at A and its notice (R92, R102). -/
def rejoinFollow (pos : Nat) (s : State) : State :=
  followStateNotice pos { s with follower :=
    { s.follower with mode := .follow, credit := s.follower.settings.allowance,
                      rejoinRun := s.follower.settings.rejoinCount } }

/-- A match as the mode gives: applied in FOLLOW; in STEADY it counts toward the rejoin (R91, R92). -/
def takeMatch (c : Cue) (tOn : Time) (e : Int) (s : State) : State :=
  match s.follower.mode with
  | .steady =>
    if s.follower.rejoinRun + 1 < s.follower.settings.rejoinCount then
      markMatched c tOn { s with follower := { s.follower with rejoinRun := s.follower.rejoinRun + 1 } }
    else applyMatch c tOn e (rejoinFollow c.pos s)
  | .off => s
  | .lead => s
  | .fermata => s
  | .follow => raiseCredit (applyMatch c tOn e s)

/-- An onset meets the follower (R85 to R88). -/
def meetOnset (tOn : Time) (s : State) : State :=
  if ignoresOnsets s then countIgnored s
  else if isDuplicate s tOn then countDuplicate s
  else match winner s tOn with
    | none => countUnmatched s
    | some (a, c, b) => takeMatch c tOn ((cueError s c tOn).getD 0) (passOver a (c :: b) s)

/-- The follower takes the oldest onset (R85). -/
def takeOnset (s : State) : State :=
  match s.front.onsets with
  | [] => s
  | o :: rest => meetOnset (correctedTime s o) { s with front := { s.front with onsets := rest } }

/-! ### Pauses -/

/-- A pause at its place in the list, kept in the order of segment and position. -/
def placePause (p : Pause) : List Pause → List Pause
  | [] => [p]
  | q :: qs =>
    if p.segment < q.segment ∨ (p.segment = q.segment ∧ p.pos < q.pos) then p :: q :: qs else q :: placePause p qs

/-- The start time of a PLANNED pause of the current segment has come (R96, R97). -/
def pauseStartDue (s : State) (p : Pause) : Bool :=
  !p.isRunning && some p.segment == s.map.current && (currentTime s p.pos false).any fun t => atOrBefore t s.now

/-- The next pause to start: the first whose start time has come, while none runs (R97). -/
def startingPause (s : State) : Option Pause :=
  if (runningPause s).isSome then none else s.map.pauses.find? (pauseStartDue s)

/-- A pause starts (R97, R48). -/
def startPause (p : Pause) (s : State) : State :=
  let t := currentTime s p.pos false
  { s with
    map := { s.map with
      anchor := t.map fun t => ⟨t, p.pos⟩
      pauses := s.map.pauses.map fun q =>
        if q = p then { p with state := .running (plannedExt (activeFactor s) s.map.period p.len) } else q }
    follower := { s.follower with
      cues := s.follower.cues.filter fun c => c.isPending || !ofCurrent s c
      mode := if s.follower.mode = .follow then .fermata else s.follower.mode } }

/-- The end of the RUNNING pause, t(s_p) + ext (R98). -/
def pauseEndTime (s : State) : Option Time := (runningPause s).bind fun p => currentTime s p.pos true

/-- The first PENDING cue at or after the ended pause becomes RE_ENTRY, or the re-entry is owed (R98). -/
def reEnterAfter (pos : Nat) (s : State) : State :=
  match splitFirst (fun c => awaited s c && decide (pos ≤ c.pos)) s.follower.cues with
  | some (a, c, b) => setCues (a ++ { c with kind := .reEntry } :: b) s
  | none => { s with follower := { s.follower with owed := true } }

/-- The current segment is one the part follows. -/
def followsCurrent (s : State) : Bool := (currentSegment s).any fun g => g.follow == .follow

/-- The RUNNING pause ends (R98). -/
def endPause (s : State) : State :=
  match runningPause s, pauseEndTime s with
  | some p, some t =>
    let s := reAnchor t p.pos (setPauses (s.map.pauses.filter fun q => q != p) s)
    let s := if followsCurrent s then reEnterAfter p.pos s else s
    if s.follower.mode = .fermata then setMode .follow s else s
  | _, _ => s

/-! ### Segment starts and ends -/

/-- The cues of a list that are PENDING, counted. -/
def pendingCount (cs : List Cue) : Nat := (cs.filter Cue.isPending).length

/-- The follower at a segment's end: a running pause ends, the map is anchored at the end, the segment's cues leave, and
the mode becomes LEAD (R81). -/
def followerSegmentEnd (g : Segment) (s : State) : State :=
  let s := endPause s
  let s := match currentTime s g.sTo true with
    | some t => reAnchor t g.sTo (setPauses (s.map.pauses.filter fun p => some p.segment != s.map.current) s)
    | none => s
  enterMode .lead (countMissed (pendingCount (s.follower.cues.filter (ofCurrent s)))
    (setCues (s.follower.cues.filter fun c => !ofCurrent s c) s))

/-- The mode a segment's follow flag gives (R80). -/
def modeOf : Follow → FollowerMode
  | .follow => .follow
  | .lead => .lead

/-- The follower at the start of segment i at a time (R80). -/
def followerSegmentStart (i : Nat) (g : Segment) (t : Time) (s : State) : State :=
  let early := s.follower.cues.filter fun c => decide (c.segment < i)
  let s := countMissed (pendingCount early) (setCues (s.follower.cues.filter fun c => decide (i ≤ c.segment)) s)
  let s := { s with
    map := { s.map with
      current := some i, anchor := some ⟨t, g.sFrom⟩
      pauses := s.map.pauses.filter fun p => decide (i ≤ p.segment) }
    follower := { s.follower with lastMatch := none, owed := false } }
  enterMode (modeOf g.follow) s

/-- The follower when the play state becomes IDLE or at a quiet reset: OFF, no cue, no last posted segment, and the map's
IDLE contents with P kept (R24, R33, R46, R78, R79). -/
def followerOff (s : State) : State :=
  enterMode .off { s with
    map := { s.map with current := none, anchor := none, pauses := [] }
    follower := { s.follower with cues := [], lastPosted := none } }

/-- The follower at a yield (R103). -/
def followerYield (s : State) : State :=
  { s with follower := { s.follower with cues := [], owed := false, lastPosted := none } }

end Sys2Proof.Machine
end

