-- ==== Sys2Proof/Machine/Expander.lean ====
section
/-! DEFINITION. The Key Expander (chapter 6): the cursor, when an event is expanded, folding, ties and breath, follow-on
links, stop changes between segments, and the expansion of one event. -/

namespace Sys2Proof.Machine

/-! ### The cursor (R112, R113) -/

/-- The cursor moves to another segment or is set to a new event: the carried voices and the flag are cleared (R113). -/
def setCursor (c : Cursor) (s : State) : State :=
  { s with expander := { s.expander with cursor := c, carried := .all none, firstDone := false } }

/-- The cursor at the start of segment i; a segment without events is passed. -/
def cursorAtStart (s : State) (i : Nat) : Cursor :=
  match (segmentAt s i).bind (firstEventOf s) with
  | some e => .at_ i e
  | none => .after i

/-- A segment index is the current or the next segment (R113). -/
def readable (s : State) (i : Nat) : Bool := s.map.current == some i || nextIndex s == some i

/-- The third row of R113: a cursor AFTER a segment moves on when the following one is the current or the next (log 32). -/
def advanceCursor (s : State) : State :=
  match s.expander.cursor with
  | .after g => if (segmentAt s (g + 1)).isSome && readable s (g + 1) then setCursor (cursorAtStart s (g + 1)) s else s
  | .none => s
  | .at_ _ _ => s

/-- The fourth row of R113: the cursor has fallen behind the starting segment. -/
def cursorBehind (c : Cursor) (i : Nat) : Bool :=
  match c with
  | .none => false
  | .at_ g _ => decide (g < i)
  | .after g => decide (g + 1 < i)

/-- The cursor at the start of segment i (R113, rows 4 and 3). -/
def cursorSegmentStart (i : Nat) (s : State) : State :=
  advanceCursor (if cursorBehind s.expander.cursor i then setCursor (cursorAtStart s i) s else s)

/-- The event under the cursor, with its segment, its index and the events after it. -/
structure Reading where
  index : Nat
  segment : Segment
  eventIndex : Nat
  event : Event
  later : List Event
deriving DecidableEq, Repr

/-- The event AT the cursor (R114). -/
def reading (s : State) : Option Reading :=
  match s.expander.cursor with
  | .at_ g i => (segmentAt s g).bind fun seg =>
      match (activeEvents s).drop i with
      | e :: rest => some ⟨g, seg, i, e, rest⟩
      | [] => none
  | .none => none
  | .after _ => none

/-- The Key Expander has no event of the running order left to expand (R112, R33). -/
def nothingLeft (s : State) : Bool :=
  match s.expander.cursor with
  | .after g => s.plan.order.length ≤ g + 1
  | .none => s.plan.order = []
  | .at_ _ _ => false

/-! ### When an event is expanded (R114, R115) -/

/-- The event lies within the horizon (R114). -/
def withinHorizon (s : State) (r : Reading) : Bool :=
  (positionTime s r.index r.event.pos false).any fun t => atOrBefore t (addTu s.now (s.follower.settings.horizon : Nat))

/-- The event posts a cue (R121). -/
def makesCue (r : Reading) : Bool := r.event.cue && r.segment.follow == .follow

/-- The event makes a pause (R121). -/
def makesPause (s : State) (r : Reading) : Bool := r.event.fermata && decide (8 < activeFactor s)

/-- The room an expansion needs (R115). -/
def roomFor (s : State) (r : Reading) : Bool :=
  decide (s.queue.length + Config.expansionRoom ≤ Config.maxEntries) &&
  (!makesCue r || decide (s.follower.cues.length < Config.maxCues)) &&
  (!makesPause s r || decide (s.map.pauses.length < Config.maxPauses))

/-- The event that is expanded now (R114, R115). -/
def expandable (s : State) : Option Reading :=
  if yielded s then none
  else (reading s).bind fun r => if withinHorizon s r && roomFor s r then some r else none

/-! ### Keys (R109, R110) -/

/-- Folding of a raw key into a compass (R110). -/
def foldRaw (compass : Nat) (raw : Int) : Nat :=
  let k : Nat := (if raw < 0 then raw % 12 else raw).toNat
  if k < compass then k
  else if 12 ≤ compass then k - 12 * ((k - compass) / 12 + 1)
  else compass - 1

/-- The key of a pitch on a division with an octave shift (R110). -/
def keyOf (x : Division) (pitch : Nat) (shift : Int) : KeyNo :=
  toFin 61 (foldRaw x.compass ((pitch : Int) + 12 * shift - x.base))

/-- The voicing mode of an event (R109). -/
def modeFor (r : Reading) : Fin 16 := r.segment.override.getD r.event.voiceId

/-- A voice is sounded in an event of a segment (R109). -/
def sounded (g : Segment) (e : Event) (v : Voice) : Bool := g.mask.get v && (e.pitch.get v).isSome

/-! ### Ties and breath (R118, R119) -/

/-- A voice is tied forward from an event into the one after it (R118). -/
def tiedInto (g : Segment) (v : Voice) (e f : Event) : Bool :=
  sounded g e v && e.tie.get v && inSegment g f && f.pitch.get v == e.pitch.get v

/-- The last event of a voice's chain of ties (R118). -/
def chainLast (g : Segment) (v : Voice) (e : Event) : List Event → Event
  | [] => e
  | f :: fs => if tiedInto g v e f then chainLast g v f fs else e

/-- The end of a note whose chain ends at an event, shortened for breath (R119). -/
def noteEnd (factor breath : Nat) (l : Event) : Nat :=
  if l.breath && decide (0 < breath) && !(l.fermata && decide (8 < factor)) then max (l.stop - breath) (l.pos + 1) else l.stop

/-- The breath length of the active plan (02, 2.1). -/
def activeBreath (s : State) : Nat := s.plan.active.elim 0 (·.breath)

/-- A carried voice whose pitch is the same here is carried (R118). -/
def carriedHere (s : State) (e : Event) (v : Voice) : Bool :=
  match s.expander.carried.get v with
  | some p => e.pitch.get v == some p
  | none => false

/-- The voices tied forward from the event just expanded, each with its pitch (R118). -/
def carriedAfter (r : Reading) : PerVoice (Option Nat) :=
  .of fun v =>
    match r.later with
    | [] => none
    | f :: _ => if tiedInto r.segment v r.event f then r.event.pitch.get v else none

/-! ### Targets and pairs (R109 to R111, R117) -/

/-- A target that is examined: its voice, its pitch and the target. -/
structure Examined where
  voice : Voice
  pitch : Nat
  target : Target
deriving DecidableEq, Repr

/-- The present targets of a voice, the first before the second (R109). -/
def Targets.list (t : Targets) : List Target := t.first.toList ++ t.second.toList

/-- The examined targets of an event, in the order of R109. -/
def examined (s : State) (r : Reading) : List Examined :=
  allVoices.flatMap fun v =>
    if sounded r.segment r.event v && !carriedHere s r.event v then
      ((s.expander.voicing[modeFor r]).get v).list.map fun t => ⟨v, (r.event.pitch.get v).getD 0, t⟩
    else []

/-- The target's division is present (R111). -/
def kept (s : State) (x : Examined) : Bool := (div s x.target.division).present

/-- The pair numbers that queued entries hold. -/
def usedPairs (q : List Entry) : List (BitVec 16) := q.filterMap fun e => e.action.onPair.or e.action.offPair

/-- The first number from the counter that no queued entry holds (R117). -/
def freePair (used : List (BitVec 16)) : Nat → BitVec 16 → BitVec 16
  | 0, c => c
  | n + 1, c => if used.contains c then freePair used n (c + 1) else c

/-- More numbers than a full queue can hold. -/
abbrev pairFuel : Nat := 512

/-- The pair numbers of so many new pairs, with the counter after them (R117). -/
def takePairs (used : List (BitVec 16)) : Nat → BitVec 16 → List (BitVec 16) × BitVec 16
  | 0, c => ([], c)
  | n + 1, c =>
    let p := freePair used pairFuel c
    let rest := takePairs used n (p + 1)
    (p :: rest.1, rest.2)

/-- The two entries of a pair (R117). -/
def pairEntries (s : State) (r : Reading) (x : Examined) (n : BitVec 16) : List Entry :=
  let d := x.target.division
  let k := keyOf (div s d) x.pitch x.target.shift
  let stop := noteEnd (activeFactor s) (activeBreath s) (chainLast r.segment x.voice r.event r.later)
  [⟨.keyOn d k x.voice n none, r.index, r.event.pos, s.now⟩, ⟨.keyOff d k x.voice n none, r.index, stop, s.now⟩]

/-! ### Follow-on links (R120) -/

/-- A position in running-order order: first by segment, then by position (R120). -/
def placeLe (a b : Nat × Nat) : Bool := decide (a.1 < b.1) || (a.1 == b.1 && decide (a.2 ≤ b.2))

/-- A queued KEY_OFF that a new KEY_ON may follow (R120). -/
def linkable (new e : Entry) : Bool :=
  match new.action, e.action with
  | .keyOn d k _ _ _, .keyOff d' k' _ _ none => d == d' && k == k' && placeLe (e.segment, e.pos) (new.segment, new.pos)
  | _, _ => false

/-- The latest segment and position among entries. -/
def latestPlace (es : List Entry) : Option (Nat × Nat) :=
  es.foldl (fun best e => match best with
    | some b => if placeLe (e.segment, e.pos) b then best else some (e.segment, e.pos)
    | none => some (e.segment, e.pos)) none

/-- A KEY_OFF takes a follow-on. -/
def Entry.withFollowOn (n : BitVec 16) (e : Entry) : Entry :=
  match e.action with
  | .keyOff d k v p _ => { e with action := .keyOff d k v p (some n) }
  | _ => e

/-- One new KEY_ON becomes the follow-on of the latest KEY_OFF it may follow, the first written of equals (R120; log 30). -/
def linkOne (q : List Entry) (new : Entry) : List Entry :=
  match new.action.onPair, latestPlace (q.filter (linkable new)) with
  | some n, some place =>
    match splitFirst (fun e => linkable new e && (e.segment, e.pos) == place) q with
    | some (a, e, b) => a ++ e.withFollowOn n :: b
    | none => q
  | _, _ => q

/-- The links of all new entries, in the order they are written (R120). -/
def linkAll (q new : List Entry) : List Entry := new.foldl linkOne q

/-! ### Stop changes between segments (R122) -/

/-- The stops of the STOP_SET entry for a division most recently written that is still queued (log 31). -/
def queuedStops (q : List Entry) (d : DivNo) : Option (Nat × StopSet) :=
  q.foldl (fun best e => match e.action with
    | .stopSet d' r => if d' = d ∧ (best.all fun b => decide (b.1 ≤ e.segment)) = true then some (e.segment, r) else best
    | .keyOn .. => best
    | .keyOff .. => best) none

/-- The requested stops of a division (R122). -/
def requestedStops (s : State) (d : DivNo) : StopSet := (queuedStops s.queue d).elim (div s d).drawn (·.2)

/-- The STOP_SET entries of a segment's first expansion (R122). -/
def stopSetEntries (s : State) (r : Reading) : List Entry :=
  match r.index, segmentAt s (r.index - 1) with
  | g + 1, some ended =>
    if s.expander.firstDone then []
    else ((allFin 6).filter fun d => (div s d).present && setDraws s r.segment.registration d != requestedStops s d).map
      fun d => ⟨.stopSet d (setDraws s r.segment.registration d), g, ended.sTo, s.now⟩
  | _, _ => []

/-! ### The expansion of one event (R116) -/

/-- The event is the rejoin event of a part that is REJOINING (R121, R198). -/
def isRejoinEvent (s : State) (r : Reading) : Bool :=
  s.yielding.state == .rejoining && s.yielding.rejoin.any fun p => p.segment == r.index && p.event == r.eventIndex

/-- The pause of an expansion joins the list (R96); a pause of the same segment and position is not added twice (log 17). -/
def addPause (r : Reading) (s : State) : State :=
  let p : Pause := ⟨r.index, r.event.stop, r.event.len, .planned⟩
  if s.map.pauses.any fun q => q.segment == p.segment && q.pos == p.pos then s
  else setPauses (placePause p s.map.pauses) s

/-- The entries an expansion writes, with the pair counter after them: the STOP_SETs, then each pair (R116, R126). -/
def newEntries (s : State) (r : Reading) : List Entry × BitVec 16 :=
  let targets := (examined s r).filter (kept s)
  let nums := takePairs (usedPairs s.queue) targets.length s.expander.pairCounter
  (stopSetEntries s r ++ (targets.zip nums.1).flatMap fun p => pairEntries s r p.1 p.2, nums.2)

/-- The cursor after an event is expanded (R113). -/
def cursorNext (r : Reading) : Cursor :=
  match r.later with
  | f :: _ => if inSegment r.segment f then .at_ r.index (r.eventIndex + 1) else .after r.index
  | [] => .after r.index

/-- The expansion of the event under the cursor (R116). -/
def expand (r : Reading) (s : State) : State :=
  let s := if makesPause s r then addPause r s else s
  let s := if makesCue r then postCue r.index r.eventIndex r.event.pos (isRejoinEvent s r) s else s
  let s := countNoDivision ((examined s r).filter fun x => !kept s x).length s
  let new := newEntries s r
  let s := insertEntries new.1 { s with queue := linkAll s.queue new.1 }
  advanceCursor { s with expander := { s.expander with
    cursor := cursorNext r, carried := carriedAfter r, firstDone := true, pairCounter := new.2 } }

end Sys2Proof.Machine
end

