-- ==== Sys2Proof/Machine/Levelling.lean ====
section
/-! DEFINITION. The Levelling Unit (chapter 10): what its waits, the envelope values and the onsets of its microphone, a
short on its key, a yield and a stop do to a run. -/

namespace Sys2Proof.Machine

/-- The run replaced. -/
def setRun (r : Option LevelRun) (s : State) : State := { s with levelling := { s.levelling with run := r } }

/-- The LEVEL_DONE notice is made, and its fields become the last result (R188). -/
def reportLevel (r : LevelRun) (o : LevelOutcome) (s : State) : State :=
  let f : LevelDone := ⟨r.division, r.stop, r.key, r.mic, r.trials, o⟩
  notice (.levelDone f) { s with levelling := { s.levelling with last := some f } }

/-- The measured values a run keeps in DONE: those of a failed run, NOISY or NO_SOUND, are reported and then discarded (R185;
log 45). -/
def keptValues (o : LevelOutcome) (vs : List Nat) : List Nat :=
  match o with
  | .measured .. => vs
  | .noisy .. => []
  | .noSound .. => []
  | .aborted .. => vs

/-- The run enters DONE: its notice, and the stop change that restores the saved stops; it has no phase deadline there (R187,
R185; log 54). -/
def enterDone (r : LevelRun) (o : LevelOutcome) (s : State) : State :=
  stopChange r.division r.saved
    (setRun (some { r with phase := .done, listening := false, measured := keptValues o r.measured, deadline := none })
      (reportLevel r o s))

/-- The run is aborted into DONE (R189). -/
def abortRun (r : LevelRun) (cause : AbortCause) (s : State) : State :=
  enterDone r (.aborted cause r.phase r.measured) s

/-- The run enters QUIET_CHECK, where the opening time of the attempt before returns to none (R181; log 43). -/
def enterQuietCheck (r : LevelRun) (s : State) : State :=
  setRun (some { r with
    phase := .quietCheck, listening := false, quietStart := none, opening := none, deadline := some (addTu s.now 20000) }) s

/-- The run enters SOUNDING: the test drive is refused, which ends the run with no opening, or the valve opens and the opening
time is recorded. The quiet start stays as it stood when the check passed (R182, R160, R181; log 33, log 49). -/
def enterSounding (r : LevelRun) (s : State) : State :=
  let r := { r with phase := .sounding }
  if !(key s r.division r.key).sound then abortRun r .shorted s
  else if !windAllows s r.division (div s r.division).capacity then abortRun r .wind s
  else reportOpening r.division (setRun
    (some { r with listening := true, opening := some s.now, deadline := some (addTu s.now 5000) }) s)

/-- The run enters RELEASE, which lasts the division's release time (R184). -/
def enterRelease (r : LevelRun) (good : Bool) (s : State) : State :=
  setRun (some { r with
    phase := .release, listening := false, good := good
    deadline := some (addTu s.now ((div s r.division).release : Nat)) }) s

/-- The run's phase deadline has come in a phase that satisfies a condition (R44). -/
def levelDue (p : LevelRun → Bool) (s : State) : Bool :=
  s.levelling.run.any fun r => p r && r.deadline.any fun t => atOrBefore t s.now

/-- What the run of the unit becomes, where there is one. -/
def onRun (f : LevelRun → State → State) (s : State) : State :=
  match s.levelling.run with
  | some r => f r s
  | none => s

/-! ### The streams of the run's microphone (R72) -/

/-- A microphone is the run's while a run is active (R72). -/
def isRunMic (s : State) (m : MicNo) : Bool := s.levelling.run.any fun r => r.mic == m

/-- An envelope value is considered: its time is not before the entry into QUIET_CHECK, 20000 before its deadline (R181). -/
def considered (r : LevelRun) (envTime : Time) : Bool :=
  r.phase == .quietCheck && r.deadline.any fun t => !isBefore envTime (addTu t (-20000))

/-- An envelope value of the run's microphone is handed to the quiet check (R181). -/
def quietValue (excess : Option Int) (envTime : Time) (fall : Nat) (r : LevelRun) (s : State) : State :=
  if !considered r envTime then s
  else if !(excess.any fun e : Int => decide (e ≤ (fall : Int))) then setRun (some { r with quietStart := none }) s
  else match r.quietStart with
    | none => setRun (some { r with quietStart := some envTime }) s
    | some q => if 1000 ≤ diff envTime q then enterSounding r s else s

/-- An onset of the run's microphone is handed to the unit: the pipe, or discarded (R183). -/
def pipeOnset (tObs : Time) (r : LevelRun) (s : State) : State :=
  match r.opening with
  | none => s
  | some t =>
    if r.phase == .sounding && r.listening && atOrBefore t tObs then
      setRun (some { r with
        measured := r.measured ++ [(diff tObs t).toNat], listening := false, deadline := some (addTu s.now 2000) }) s
    else s

/-! ### Failures and results -/

/-- The quiet check fails as NOISY (R185). -/
def failNoisy (r : LevelRun) (s : State) : State :=
  if r.retry < 3 then enterQuietCheck { r with retry := r.retry + 1 } s else enterDone r (.noisy r.trial r.measured) s

/-- The listening fails as NO_SOUND (R183, R185). -/
def failNoSound (r : LevelRun) (s : State) : State :=
  if r.retry < 3 then enterRelease { r with retry := r.retry + 1 } false s
  else enterDone r (.noSound r.trial r.measured) s

/-- The spread of measured values (R186). -/
def spreadOf (vs : List Nat) : Nat := (vs.max?).getD 0 - (vs.min?).getD 0

/-- The average of measured values (R186). -/
def averageOf (vs : List Nat) : Nat := roundNat vs.sum vs.length

/-- The status of a result (R186). -/
def resultStatus (vs : List Nat) (travelTime : Nat) : LevelStatus :=
  let d : Int := (averageOf vs : Int) - travelTime
  if 200 < spreadOf vs then .unsteady else if d < 0 ∨ 3000 < d then .suspect else .ok

/-- The speech time of a result, clamped (R186). -/
def resultSpeech (vs : List Nat) (travelTime : Nat) : Nat := (clampInt ((averageOf vs : Int) - travelTime) 0 3000).toNat

/-- The result is computed, stored unless UNSTEADY, and reported; the run enters DONE (R186, R58). -/
def finishRun (r : LevelRun) (s : State) : State :=
  let tr := travelToMic s r.division r.mic
  let st := resultStatus r.measured tr
  let sp := resultSpeech r.measured tr
  let stored := match st with
    | .unsteady => s
    | .ok => retime (setDiv r.division { div s r.division with speech := sp } s)
    | .suspect => retime (setDiv r.division { div s r.division with speech := sp } s)
  enterDone r (.measured st r.measured (averageOf r.measured) (spreadOf r.measured) tr sp) stored

/-- RELEASE ends: the result after the last good trial, else SPACING, for the next trial after a good one (R184). -/
def endRelease (r : LevelRun) (s : State) : State :=
  if r.good ∧ r.trials ≤ r.measured.length then finishRun r s
  else setRun (some { r with
    phase := .spacing, trial := if r.good then r.trial + 1 else r.trial, retry := if r.good then 0 else r.retry
    deadline := some (addTu s.now (r.spacing : Nat)) }) s

/-- A stop change of a division has ended: SETUP passes to QUIET_CHECK, and a run in DONE ceases to exist (R180, R187). -/
def levelChangeEnd (d : DivNo) (s : State) : State :=
  onRun (fun r s =>
    if r.division = d then
      match r.phase with
      | .setup => enterQuietCheck r s
      | .done => setRun none s
      | .quietCheck => s
      | .sounding => s
      | .release => s
      | .spacing => s
    else s) s

/-- The test key has become SHORTED while the run is SOUNDING (R156, R189). -/
def levelShorted (s : State) : State :=
  onRun (fun r s =>
    if r.phase = .sounding ∧ (key s r.division r.key).fault = .shorted then abortRun r .shorted s else s) s

/-- The yield ends a run at once, with its notice unless it was in DONE (R190). -/
def levelYield (s : State) : State :=
  onRun (fun r s =>
    setRun none (if r.phase = .done then s else reportLevel r (.aborted .yield r.phase r.measured) s)) s

end Sys2Proof.Machine
end

