-- ==== Sys2Proof/Machine/Yield.lean ====
section
/-! DEFINITION. The Console Yield Unit (chapter 11): the CT filter, giving up the organ, the choice of a rejoin point and
the way back. What an end of the yield in IDLE starts (R33) is in Settle.lean. -/

namespace Sys2Proof.Machine

def setYielding (x : YieldUnit) (s : State) : State := { s with yielding := x }

/-! ### Outputs and conditions (R191, R202) -/

/-- YG (R191). -/
def State.yg (s : State) : Bool := s.yielding.state != .playingFree

/-- TXEN (R202). -/
def State.txen (s : State) : Bool := s.link.tx != []

/-- A source is present (R191). -/
def anySource (s : State) : Bool := s.yielding.pin || s.yielding.link

/-- The part awaits a rejoin point: YIELDED with both sources absent (R197). -/
def awaiting (s : State) : Bool := yielded s && !anySource s

/-- A source set present or absent. -/
def setSource (src : YieldSource) (present : Bool) (s : State) : State :=
  match src with
  | .pin => { s with yielding := { s.yielding with pin := present } }
  | .link => { s with yielding := { s.yielding with link := present } }

/-! ### Giving up the organ (R194) -/

/-- The YIELD granted notice (R194; log 24). -/
def grantedNotice (src : YieldSource) (before : YieldState) (s : State) : Notice :=
  .yieldGranted src before s.plan.play s.map.current (positionNow s) s.now

/-- The part yields, in one step, and makes its notices (R194). -/
def grant (src : YieldSource) (s : State) : State :=
  let before := s.yielding.state
  let s := syncRamps s
  let s := idleRamps (mapDivisions (fun _ x => yieldDivision x) (flush s))
  let s := setYielding { s.yielding with state := .yielded, rejoin := none } (followerYield s)
  let s := levelYield s
  notice (grantedNotice src before s) s

/-- A source becomes present (R191, R194). -/
def sourcePresent (src : YieldSource) (s : State) : State :=
  let s' := setSource src true s
  if yielded s then s' else grant src s'

/-! ### The rejoin point (R197) -/

/-- A candidate: a rejoin point with its time (R197). -/
structure Candidate where
  point : RejoinPoint
  time : Time
deriving DecidableEq, Repr

/-- A candidate at an event of a segment, where the map gives its position a time (R197). -/
def candidateAt (s : State) (seg event : Nat) : Option Candidate :=
  ((activeEvents s)[event]?).bind fun e => (positionTime s seg e.pos false).map fun t => ⟨⟨seg, event, e.pos⟩, t⟩

/-- The first events of the lines after the current line, in line order (R197). -/
def lineCandidates (s : State) : List Candidate :=
  match s.map.current, currentSegment s, currentLine s with
  | some c, some g, some l =>
    ((segmentLines s g).filter fun m => decide (l.number < m.number)).filterMap fun m => candidateAt s c m.line.firstEvent
  | _, _, _ => []

/-- The first event of the next segment (R197). -/
def nextCandidate (s : State) : List Candidate :=
  ((nextIndex s).bind fun n => (nextSegment s).bind fun g => (firstEventOf s g).bind fun e => candidateAt s n e).toList

/-- The margin: the largest lead and the largest stop-action time of the present divisions (R197; log 22). -/
def margin (s : State) : Nat :=
  Config.largestLead + (allFin 6).foldl (fun m d => if (div s d).present then max m (div s d).stopAction else m) 0

/-- The rejoin point: the first candidate far enough ahead (R197). -/
def chooseRejoin (s : State) : Option RejoinPoint :=
  ((lineCandidates s ++ nextCandidate s).find? fun c => atOrBefore (addTu s.now (margin s : Nat)) c.time).map (·.point)

/-- The registration set drawn at a rejoin: the current segment's, or segment 0's in STARTING (R198). -/
def rejoinRegistration (s : State) : Option (Fin 8) :=
  (match s.plan.play with
    | .starting => segmentAt s 0
    | .idle => none
    | .segment => currentSegment s
    | .rest => currentSegment s
    | .closing => currentSegment s).map fun g : Segment => g.registration

/-- A rejoin event in the current FOLLOW segment without a CUE owes a re-entry (R198). -/
def rejoinOwes (p : RejoinPoint) (s : State) : Bool :=
  s.map.current == some p.segment && followsCurrent s && ((activeEvents s)[p.event]?).any fun e => !e.cue

/-- The part enters REJOINING with a rejoin point (R198). -/
def enterRejoining (p : RejoinPoint) (s : State) : State :=
  let s := stopChanges (fun d => if (div s d).present then (rejoinRegistration s).map fun g => setDraws s g d else none) s
  let s := setYielding { s.yielding with state := .rejoining, rejoin := some p } s
  let s := setCursor (.at_ p.segment p.event) s
  if rejoinOwes p s then { s with follower := { s.follower with owed := true } } else s

/-- A part that awaits a rejoin point tests the candidates again (R197). -/
def awaitTest (s : State) : State :=
  if awaiting s then
    match chooseRejoin s with
    | some p => enterRejoining p s
    | none => s
  else s

/-! ### Coming back (R196, R199, R200) -/

/-- The part becomes PLAYING_FREE with no rejoin point. -/
def setFree (s : State) : State := setYielding { s.yielding with state := .playingFree, rejoin := none } s

/-- The part becomes PLAYING_FREE with a YIELD released notice (R196, R200). -/
def releaseYield (s : State) : State := notice (.yieldReleased s.now) (setFree s)

/-- The rejoin time: t(pos) of the rejoin event on the map as it stands (R199). -/
def rejoinTimeOf (s : State) : Option Time :=
  if s.yielding.state = .rejoining then s.yielding.rejoin.bind fun p => positionTime s p.segment p.pos false else none

/-- The rejoin point lies in a segment that has passed, so its time has been reached (R199; log 44). -/
def rejoinPassed (s : State) : Bool :=
  s.yielding.state == .rejoining && s.yielding.rejoin.any fun p => s.map.current.any fun c => decide (p.segment < c)

/-- The rejoin time has come (R199). -/
def rejoinDue (s : State) : Bool := rejoinPassed s || (rejoinTimeOf s).any fun t => atOrBefore t s.now

/-- The part has come back: PLAYING_FREE with a YIELD rejoined notice (R199). -/
def rejoined (s : State) : State :=
  match s.yielding.rejoin with
  | some p => notice (.yieldRejoined p.segment ((segmentAt s p.segment).elim 0 (·.verse)) p.event p.pos s.now) (setFree s)
  | none => s

/-! ### The CT filter (R192) -/

/-- The CT filter when the line changes to a level (R192). -/
def filterChange (active : Bool) (s : State) : CtFilter :=
  match s.yielding.filter, active with
  | .quiet, true => .touching s.now
  | .quiet, false => .quiet
  | .touching _, false => .quiet
  | .touching t, true => .touching t
  | .held, false => .leaving s.now s.follower.settings.releaseDelay
  | .held, true => .held
  | .leaving _ _, true => .held
  | .leaving t n, false => .leaving t n

def setFilter (f : CtFilter) (s : State) : State := { s with yielding := { s.yielding with filter := f } }

/-- TOUCHING has lasted 50 tu with CT active (R192). -/
def touchDue (s : State) : Bool :=
  match s.yielding.filter with
  | .touching t => s.ct && atOrBefore (addTu t 50) s.now
  | .quiet => false
  | .held => false
  | .leaving _ _ => false

/-- LEAVING has lasted the kept release delay with CT inactive (R192). -/
def leavingDue (s : State) : Bool :=
  match s.yielding.filter with
  | .leaving t n => !s.ct && atOrBefore (addTu t (n : Nat)) s.now
  | .quiet => false
  | .held => false
  | .touching _ => false

/-- The filter as it starts to watch CT (R201). -/
def filterStart (s : State) : CtFilter := if s.ct then .touching s.now else .quiet

end Sys2Proof.Machine
end

