-- ==== Sys2Proof/Machine/Plan.lean ====
section
/-! DEFINITION. The Plan Unit (chapter 2): the plan of PLAN_SET, the running order, the start and the end of a hymn, segment
starts and ends, line-ahead notices, the cut of the running order and the plan requests. -/

namespace Sys2Proof.Machine

def setPlan (x : PlanUnit) (s : State) : State := { s with plan := x }
def setPlay (p : PlayState) (s : State) : State := { s with plan := { s.plan with play := p } }

/-- A map change reaches its readers: the queue retimes and an awaiting part tests its candidates again (R52, R197). The
waits it brings about are taken by `settle` (R44). -/
def mapChanged (s : State) : State := awaitTest (retime s)

/-! ### The plan of a PLAN_SET body (R20) -/

/-- The checks of a ramp's fields at a place of a body, with the place number of the first (R169). -/
def rampChecks (b : List Byte) (i first : Nat) : List (Nat × Bool) :=
  [(first, optInRange (optByteAt b i) 0 127), (first + 1, inRange (byteAt b (i + 1)) 0 127),
   (first + 2, inRange (byteAt b (i + 2)) 1 96), (first + 3, inRange (wordAt b (i + 3)) 0 1536),
   (first + 4, inRange (wordAt b (i + 5)) 0 1536), (first + 5, inRange (byteAt b (i + 7)) 0 7)]

/-- The ramp at a place of a body (R169). -/
def rampAt (b : List Byte) (i : Nat) : Ramp :=
  { fromStep := optByteAt b i, toStep := byteAt b (i + 1), stepLength := byteAt b (i + 2), delay := wordAt b (i + 3),
    hold := wordAt b (i + 5), curve := toFin 8 (byteAt b (i + 7)) }

/-- The checks of the plan's own fields, with their places (R20). -/
def planChecks (b : List Byte) : List (Nat × Bool) :=
  [(0, inRange (byteAt b 0) 0 15), (1, inRange (byteAt b 1) 0 3), (2, inRange (byteAt b 2) 0 7),
   (3, inRange (byteAt b 3) 0 31), (4, optInRange (optWordAt b 4) 2000 20000), (5, inRange (byteAt b 6) 0 8),
   (6, inRange (byteAt b 7) 1 12), (7, inRange (byteAt b 8) 0 1), (8, inRange (byteAt b 9) 0 7),
   (9, inRange (byteAt b 10) 0 4), (10, inRange (byteAt b 11) 8 32), (11, inRange (byteAt b 12) 0 24)]

/-- The checks of the verse record at a place of a body (R20); an absent ramp's fields are not examined (R207). -/
def verseChecks (b : List Byte) (i : Nat) : List (Nat × Bool) :=
  [(0, inRange (byteAt b i) 0 7), (1, inRange (byteAt b (i + 1)) 0 31), (2, optInRange (optByteAt b (i + 2)) 0 15),
   (3, inRange (byteAt b (i + 3)) 0 1), (4, inRange (byteAt b (i + 4)) 0 1)] ++
  (if byteAt b (i + 4) = 1 then rampChecks b (i + 5) 5 else []) ++ [(11, inRange (byteAt b (i + 13)) 0 16)]

/-- The verse record at a place of a body (02, 2.1). -/
def verseAt (b : List Byte) (i : Nat) : VerseRecord :=
  { registration := toFin 8 (byteAt b i), mask := voiceMask (byteAt b (i + 1)),
    override := (optByteAt b (i + 2)).map (toFin 16), follow := if byteAt b (i + 3) = 0 then .follow else .lead,
    ramp := if byteAt b (i + 4) = 1 then some (rampAt b (i + 5)) else none, restAfter := byteAt b (i + 13) }

/-- The introduction kind with a number (02, 2.1). -/
def introKindOf : Nat → IntroKind
  | 0 => .none
  | 1 => .lastLine
  | 2 => .firstLast
  | _ => .whole

/-- The number of verse records of a body (R20, R214). -/
def verseRecords (b : List Byte) : Nat := (b.length - 13) / 14

/-- The plan of a body (02, 2.1). -/
def planOf (b : List Byte) : Plan :=
  { slot := toFin 16 (byteAt b 0), introKind := introKindOf (byteAt b 1), introRegistration := toFin 8 (byteAt b 2),
    introMask := voiceMask (byteAt b 3), introPeriod := optWordAt b 4, givingOut := byteAt b 6, verseCount := byteAt b 7,
    amen := byteAt b 8 == 1, amenRegistration := toFin 8 (byteAt b 9), amenRest := byteAt b 10, factor := byteAt b 11,
    breath := byteAt b 12, verses := (List.range (verseRecords b)).map fun j => verseAt b (13 + 14 * j) }

/-- The first failing field of a plan: its place and its verse record's number, 0 for the plan itself (R20). -/
def planFault (b : List Byte) : Option (Nat × Nat) :=
  match firstFailing (planChecks b) with
  | some place => some (place, 0)
  | none => (List.range (verseRecords b)).findSome? fun j =>
      (firstFailing (verseChecks b (13 + 14 * j))).map fun place => (place, j + 1)

/-- PLAN_SET (R20). -/
def doPlanSet (b : List Byte) : Handler := fun s =>
  if s.plan.queued then (s, refuse .busy)
  else match planFault b with
    | some (place, verse) => (s, ⟨.badField, e8 place ++ e8 verse⟩)
    | none => (setPlan { s.plan with staged := some (planOf b) } s, ok [])

/-- PLAN_CANCEL (R22); the results are UNQUEUED 0, DISCARDED 1 and NONE 2. -/
def doPlanCancel : Handler := fun s =>
  if s.plan.queued then (setPlan { s.plan with queued := false } s, ok (e8 0))
  else if s.plan.staged.isSome then (setPlan { s.plan with staged := none } s, ok (e8 1))
  else (s, ok (e8 2))

/-! ### The running order (R26 to R28) -/

/-- An introduction segment over a range (R26). -/
def introSegment (p : Plan) (a b : Nat) : Segment :=
  { kind := .intro, verse := 0, sFrom := a, sTo := b, restBefore := 0, follow := .lead, registration := p.introRegistration,
    mask := p.introMask, override := none, ramp := none }

/-- The start of the last line. -/
def lastLineStart (t : Tune) : Nat := t.lines.getLast?.elim 0 (·.start)

/-- The introduction (R26). -/
def introSegments (p : Plan) (t : Tune) : List Segment :=
  match p.introKind with
  | .none => []
  | .lastLine => [introSegment p (lastLineStart t) t.verseEnd]
  | .firstLast =>
    if t.lines.length ≤ 1 then [introSegment p 0 t.verseEnd]
    else [introSegment p 0 (t.lines.head?.elim 0 (·.stop)), introSegment p (lastLineStart t) t.verseEnd]
  | .whole => [introSegment p 0 t.verseEnd]

/-- The verse record that serves verse k; the fallback is never read, a plan has a record (02, 2.1). -/
def recordFor (p : Plan) (k : Nat) : VerseRecord :=
  p.verses.getD (min (k - 1) (p.verses.length - 1))
    { registration := 0, mask := .all false, override := none, follow := .lead, ramp := none, restAfter := 0 }

/-- The rest before verse k (R27). -/
def restBeforeVerse (p : Plan) (hasIntro : Bool) (k : Nat) : Nat :=
  if k ≤ 1 then (if hasIntro then p.givingOut else 0) else (recordFor p (k - 1)).restAfter

/-- The segment of verse k (R27). -/
def verseSegment (p : Plan) (t : Tune) (hasIntro : Bool) (k : Nat) : Segment :=
  let r := recordFor p k
  { kind := .verse, verse := k, sFrom := 0, sTo := t.verseEnd, restBefore := restBeforeVerse p hasIntro k, follow := r.follow,
    registration := r.registration, mask := r.mask, override := r.override, ramp := r.ramp }

/-- The segments of verses first..n (R27). -/
def verseSegments (p : Plan) (t : Tune) (hasIntro : Bool) (first n : Nat) : List Segment :=
  (List.range (n + 1 - first)).map fun i => verseSegment p t hasIntro (first + i)

/-- The AMEN segment after n verses, when the plan asks for one and the tune has a tail (R28). -/
def amenSegments (p : Plan) (t : Tune) (n : Nat) : List Segment :=
  match p.amen, t.amen with
  | true, some a =>
    let r := recordFor p n
    [{ kind := .amen, verse := 0, sFrom := a.start, sTo := a.stop, restBefore := p.amenRest, follow := r.follow,
       registration := p.amenRegistration, mask := r.mask, override := r.override, ramp := none }]
  | _, _ => []

/-- The running order of a plan and its tune (R26 to R28). -/
def runningOrder (p : Plan) (t : Tune) : List Segment :=
  introSegments p t ++ verseSegments p t (introSegments p t != []) 1 p.verseCount ++ amenSegments p t p.verseCount

/-! ### The start of a hymn (R25, R123) -/

/-- The beat period a hymn starts at (R25). -/
def initialPeriod (p : Plan) (t : Tune) : Nat :=
  clampNat (p.introPeriod.getD t.header.default) t.header.minimum t.header.maximum

/-- The Plan Unit at a hymn's start (R25). -/
def startPlan (p : Plan) (t : Tune) (s : State) : State :=
  setPlan { s.plan with
    active := some p, queued := false, order := runningOrder p t, play := .starting
    startTime := some (addTu s.now (Config.startingTime : Nat)), clockBase := 0, clockShown := 0, linesSent := []
    stopped := false } s

/-- The stops that the first segment's registration asks of a division, where they differ from the drawn ones (R123). -/
def startStops (g : Segment) (s : State) (d : DivNo) : Option StopSet :=
  if (div s d).present && (div s d).drawn != setDraws s g.registration d then some (setDraws s g.registration d) else none

/-- A hymn starts (R25, R123, R113). -/
def hymnStart (p : Plan) (t : Tune) (s : State) : State :=
  let s := startPlan p t s
  let s := enterMode .lead (setMap { s.map with period := initialPeriod p t } s)
  let s := match segmentAt s 0 with
    | some g => stopChanges (startStops g s) s
    | none => s
  setCursor (cursorAtStart s 0) s

/-- The staged plan with its tune, where the tune is READY (R23). -/
def startable (s : State) : Option (Plan × Tune) :=
  s.plan.staged.bind fun p => (tuneOf s p.slot).map fun t => (p, t)

/-- A queued plan starts, unless the part is yielded (R33). -/
def startQueued (s : State) : State :=
  if s.plan.queued && !yielded s then
    match startable s with
    | some (p, t) => hymnStart p t s
    | none => s
  else s

/-! ### The end of a hymn (R24, R33, R37) -/

/-- The play state becomes IDLE: ramps IDLE, the queue flushed, the follower OFF, the cursor NONE, the running order empty
and the active copy discarded; then the HYMN_END notice, whose verse is 0 when no segment started (R24, R33, R37, R138,
R174; log 35). -/
def hymnOver (reason : HymnEndReason) (s : State) : State :=
  let s := syncRamps s
  let n : Notice := .hymnEnd reason ((activeTune s).elim 0 (·.header.label)) s.map.current
    ((currentSegment s).elim 0 (·.verse))
  let s := setCursor .none (followerOff (idleRamps (flush s)))
  notice n (setPlan { s.plan with
    active := none, order := [], play := .idle, startTime := none, clockBase := 0, clockShown := 0, linesSent := []
    stopped := false } s)

/-- What the Console Yield Unit does when the play state becomes IDLE: a part that is REJOINING, or that awaits a rejoin point,
becomes PLAYING_FREE, its YIELD released notice after the HYMN_END (R197, R200; log 56). -/
def idleYield (s : State) : State :=
  if s.yielding.state == .rejoining || awaiting s then releaseYield s else s

/-- A hymn ended at once is torn down (R24, R159). -/
def tearDown (reason : HymnEndReason) (s : State) : State := idleYield (hymnOver reason (releaseAll s))

/-- The closing conditions hold in CLOSING (R33). -/
def closingHolds (s : State) : Bool :=
  s.plan.play == .closing && s.queue.all (fun e => !e.isKey) && allReleased s && (nothingLeft s || yielded s)

/-- A hymn ends through CLOSING, and a queued plan starts (R33). -/
def closeHymn (s : State) : State :=
  startQueued (idleYield (hymnOver (if s.plan.stopped then .stopped else .completed) s))

/-! ### Lines (R36) -/

/-- The due time of a line's notice: t(line end, release side) − lead × P (R36). -/
def lineDueTime (s : State) (l : NumberedLine) : Option Time :=
  (currentTime s l.line.stop true).map fun t => addTu t (-(s.follower.settings.lineLead * s.map.period : Nat))

/-- A line's notice is due and not yet sent for this segment (R36). -/
def lineDue (s : State) (l : NumberedLine) : Bool :=
  !s.plan.linesSent.contains l.number && (lineDueTime s l).any fun t => atOrBefore t s.now

/-- The lines due now, in line order (R36). -/
def dueLines (s : State) : List NumberedLine :=
  if s.plan.play = .segment then (currentSegment s).elim [] fun g => (segmentLines s g).filter (lineDue s) else []

/-- A line's LINE_AHEAD notice is made and recorded as sent (R36). -/
def sendLine (s : State) (l : NumberedLine) : State :=
  let g := currentSegment s
  notice (.lineAhead (s.map.current.getD 0) (g.elim 0 (·.verse)) l.number ((g.elim 0 (·.sTo) - l.line.stop) / 48))
    (setPlan { s.plan with linesSent := s.plan.linesSent ++ [l.number] } s)

/-- The first line due has its notice made (R36). -/
def sendNextLine (s : State) : State :=
  match dueLines s with
  | l :: _ => sendLine s l
  | [] => s

/-! ### Segment starts and ends (R31, R32) -/

/-- The play clock at the start of the next segment (R34). -/
def clockAtStart (h : Segment) (s : State) : Nat :=
  match s.plan.play with
  | .starting => 0
  | .idle => 0
  | .segment => clockAtEnd s + 48 * h.restBefore
  | .rest => clockAtEnd s + 48 * h.restBefore
  | .closing => clockAtEnd s + 48 * h.restBefore

/-- The SEGMENT notice (R35). -/
def segmentNotice (i : Nat) (g : Segment) (t : Time) (s : State) : Notice :=
  .segment i g.kind g.verse g.sFrom g.sTo s.plan.order.length t s.map.period g.follow

/-- Segment i starts at a time: a part that awaits a rejoin point tests its candidates last, so that the segment's ramp, which
does not start while the part is yielded, has then been passed over (R31, R34, R35, R36, R80, R113, R173, R197; log 58). -/
def beginSegment (i : Nat) (g : Segment) (t : Time) (s : State) : State :=
  let clock := clockAtStart g s
  let s := countAll (raiseClock clock s)
  let s := followerSegmentStart i g t s
  let s := setPlan { s.plan with play := .segment, startTime := none, clockBase := clock, linesSent := [] } s
  let s := startSegmentRamp g s
  let s := notice (segmentNotice i g t s) s
  let s := (dueLines s).foldl sendLine s
  mapChanged (cursorSegmentStart i s)

/-- The next segment starts, at its start time (R31). -/
def startSegment (s : State) : State :=
  match nextIndex s, nextSegment s, nextStart s with
  | some i, some g, some t => beginSegment i g t s
  | _, _, _ => s

/-- The start time of the next segment has come, in STARTING or REST (R31). -/
def segmentStartDue (s : State) : Bool :=
  (s.plan.play == .starting || s.plan.play == .rest) && (nextStart s).any fun t => atOrBefore t s.now

/-- A PLANNED pause of the current segment has yet to start (log 18). -/
def pausePlanned (s : State) : Bool := s.map.pauses.any fun p => !p.isRunning && some p.segment == s.map.current

/-- The end of the current segment has come (R32; log 18). -/
def segmentEndDue (s : State) : Bool :=
  s.plan.play == .segment && !pausePlanned s && (segmentEndTime s).any fun t => atOrBefore t s.now

/-- Where the play state goes at a segment's end: CLOSING, REST, or the next segment at once (R32). -/
def afterSegment (s : State) : State :=
  match nextSegment s with
  | none => mapChanged (setPlay .closing s)
  | some h => if h.restBefore = 0 then startSegment (retime s) else mapChanged (setPlay .rest s)

/-- The current segment ends (R32, R34, R81). -/
def endSegment (s : State) : State :=
  match currentSegment s with
  | some g => afterSegment (followerSegmentEnd g (countAll (raiseClock (clockAtEnd s) s)))
  | none => s

/-! ### The cut of the running order (R40) -/

/-- A KEY_ON that a cut removes (R40). -/
def cutOn (c e : Nat) (x : Entry) : Bool :=
  x.action.onPair.isSome && (decide (c < x.segment) || (x.segment == c && decide (e ≤ x.pos)))

/-- The pair numbers of the KEY_ONs that a cut removes (R40). -/
def cutPairs (c e : Nat) (q : List Entry) : List (BitVec 16) := (q.filter (cutOn c e)).filterMap fun x => x.action.onPair

/-- An entry that a cut removes, given the pairs it removes: every entry of a later segment among them, also a KEY_OFF there whose
KEY_ON has been issued (R40, R137; log 57). -/
def cutEntry (c : Nat) (gone : List (BitVec 16)) (x : Entry) : Bool :=
  match x.action with
  | .keyOn _ _ _ n _ => gone.contains n
  | .keyOff _ _ _ n _ => gone.contains n || decide (c < x.segment)
  | .stopSet .. => decide (c ≤ x.segment)

/-- A kept KEY_OFF of segment c beyond the cut moves to it (R40). -/
def moveOff (c e : Nat) (x : Entry) : Entry :=
  if x.action.offPair.isSome && x.segment == c && decide (e < x.pos) then { x with pos := e } else x

/-- The queue after a cut at position e of segment c (R40). -/
def cutQueue (c e : Nat) (q : List Entry) : List Entry :=
  let gone := cutPairs c e q
  ((q.filter fun x => !cutEntry c gone x).map (moveOff c e)).map (dropFollowOn gone.contains)

/-- A cursor that a cut sends to the end of the running order (R40, R113). -/
def cursorCut (c e : Nat) (s : State) : Bool :=
  match s.expander.cursor with
  | .none => false
  | .after g => decide (c < g)
  | .at_ g i => decide (c < g) || (g == c && ((activeEvents s)[i]?).any fun x => decide (e ≤ x.pos))

/-- What other blocks drop at a cut at position e of segment c; a cursor AT an event of c that goes AFTER c is cleared like one
that changes segments (R40, R113; log 38). -/
def cutAt (c e : Nat) (s : State) : State :=
  let atEnd := cursorCut c e s
  let s := { s with
    queue := cutQueue c e s.queue
    follower := { s.follower with
      cues := s.follower.cues.filter fun x => decide (x.segment < c) || (x.segment == c && decide (x.pos ≤ e))
      lastPosted := s.follower.lastPosted.map fun g => min g c }
    map := { s.map with
      pauses := s.map.pauses.filter fun p => decide (p.segment < c) || (p.segment == c && decide (p.pos ≤ e)) } }
  if atEnd then setCursor (.after c) s else s

/-- What a cut leaves of the queue in STARTING: the KEY_OFFs of KEY_ONs already issued, due at once, with no link (R40). -/
def cutStartingQueue (now : Time) (q : List Entry) : List Entry :=
  ((q.filter fun x => x.action.offPair.any fun n => !onQueued q n).map (dropFollowOn fun _ => true)).map
    fun x => { x with issue := now }

/-- What other blocks drop when the running order is emptied in STARTING (R40). -/
def cutStarting (s : State) : State :=
  setCursor .none { s with
    queue := cutStartingQueue s.now s.queue
    follower := { s.follower with cues := [], lastPosted := none }
    map := { s.map with pauses := [] } }

/-- REJOINING is left when a condition on the rejoin point says that it was cut away (R200). -/
def leaveRejoining (gone : RejoinPoint → Bool) (s : State) : State :=
  if s.yielding.state == .rejoining && s.yielding.rejoin.any gone then releaseYield s else s

/-- A rejoin point lies at or after position e of segment c (R200). -/
def RejoinPoint.beyond (c e : Nat) (p : RejoinPoint) : Bool :=
  decide (c < p.segment) || (p.segment == c && decide (e ≤ p.pos))

/-- What a cut at position e of segment c takes: what other blocks drop, and a rejoin point at or after it (R40, R200). -/
def cutAway (c e : Nat) (s : State) : State := leaveRejoining (RejoinPoint.beyond c e) (cutAt c e s)

/-! ### STOP (R38, R39) -/

/-- The running order cut after segment c with its new end e (R39). -/
def shorten (c e : Nat) (order : List Segment) : List Segment :=
  (order.take (c + 1)).mapIdx fun i g => if i = c then { g with sTo := min g.sTo e } else g

/-- A STOP LINE or STOP VERSE cuts the running order at position e of segment c (R39, R40, R200). -/
def stopAt (c e : Nat) (s : State) : State :=
  cutAway c e (setPlan { s.plan with order := shorten c e s.plan.order, stopped := true } s)

/-- A STOP LINE or STOP VERSE in STARTING (R39, R40, R200). -/
def stopStarting (s : State) : State :=
  leaveRejoining (fun _ => true)
    (cutStarting (setPlan { s.plan with order := [], play := .closing, startTime := none, stopped := true } s))

/-- The new end of a STOP LINE or STOP VERSE: the current line's end, or the current segment's s_to (R39). -/
def stopEnd (line : Bool) (g : Segment) (s : State) : Nat :=
  if line then (currentLine s).elim g.sTo (·.line.stop) else g.sTo

/-- The effect of a STOP LINE or STOP VERSE by play state (R38, R39). -/
def stopPart (line : Bool) (s : State) : State :=
  let s := syncRamps s
  match s.plan.play, s.map.current, currentSegment s with
  | .segment, some c, some g => mapChanged (stopAt c (stopEnd line g s) s)
  | .rest, some c, some g => mapChanged (setPlay .closing (stopAt c g.sTo s))
  | .starting, _, _ => mapChanged (stopStarting s)
  | _, _, _ => s

/-! ### VERSES (R41) -/

/-- The current verse number (R41). -/
def currentVerse (s : State) : Nat :=
  match s.plan.play with
  | .segment => (currentSegment s).elim 0 (·.verse)
  | .rest => (currentSegment s).elim 0 (·.verse)
  | .idle => 0
  | .starting => 0
  | .closing => 0

/-- VERSES is refused BUSY (R41). -/
def versesClosed (s : State) : Bool :=
  s.plan.play == .closing || s.plan.stopped || (currentSegment s).any fun g => g.kind == .amen

/-- The number of leading segments that a rebuild never touches: those up to the current one (R41). -/
def startedCount (s : State) : Nat := s.map.current.elim 0 (· + 1)

/-- The running order rebuilt for n verses (R41). -/
def rebuiltOrder (p : Plan) (t : Tune) (n : Nat) (s : State) : List Segment :=
  let keep := s.plan.order.take (startedCount s) ++ (s.plan.order.drop (startedCount s)).filter fun g => g.kind == .intro
  keep ++ verseSegments p t (keep.any fun g => g.kind == .intro) (currentVerse s + 1) n ++ amenSegments p t n

/-- The running order takes its new contents; when the segment that follows the current one differs, what lies beyond the
current segment is cut away, and a rejoin point whose segment the rebuild removes is left in any case (R41, R40, R200;
log 26). -/
def setVerses (p : Plan) (order : List Segment) (s : State) : State :=
  let s := syncRamps s
  let i := startedCount s
  let differs := s.plan.order[i]? != order[i]?
  let s := setPlan { s.plan with active := some p, order := order } s
  let s := match differs, s.map.current, currentSegment s with
    | true, some c, some g => cutAway c g.sTo s
    | _, _, _ => s
  let s := leaveRejoining (fun r => decide (order.length ≤ r.segment)) s
  let s := if s.plan.play = .rest ∧ (nextSegment s).isNone = true then setPlay .closing s else s
  mapChanged (advanceCursor s)

/-- VERSES without what it brings about: IDLE is examined first, then BUSY, then the range of n, in the order in which R41
names the refusals (R41; log 52). -/
def doVerses (b : List Byte) : Handler := fun s =>
  let n := byteAt b 0
  if s.plan.play = .idle then (s, refuse .notPlaying)
  else if versesClosed s then (s, refuse .busy)
  else if n < 1 ∨ n < currentVerse s ∨ 12 < n then (s, refuse .range)
  else match s.plan.active, activeTune s with
    | some p, some t =>
      let p := { p with verseCount := n }
      let order := rebuiltOrder p t n s
      (setVerses p order s, ok (e8 order.length))
    | _, _ => (s, refuse .notPlaying)

/-! ### PLAN_START and STOP (R23, R38) -/

/-- The checks of PLAN_START after its form, in order (R23). -/
def startRefusal (s : State) : Option Status :=
  if runActive s then some .busy
  else if yielded s then some .busy
  else match startable s with
    | some _ => none
    | none => some .notReady

/-- The reply STARTED: the start time of the first segment and the number of segments (R23). -/
def startedReply (s : State) : Answer :=
  ok (e8 0 ++ eOpt32 s.plan.startTime ++ e8 s.plan.order.length)

/-- The staged plan starts, replacing a hymn that plays (R23, R24, R25). -/
def startStaged (s : State) : State :=
  match startable s with
  | some (p, t) => hymnStart p t (if s.plan.play = .idle then s else tearDown .replaced s)
  | none => s

/-- PLAN_START of a form that is not NEXT (R23). -/
def doPlanStartNow (b : List Byte) : Handler := fun s =>
  if byteAt b 0 ≠ 0 then (s, refuse .badField)
  else match startRefusal s with
    | some st => (s, refuse st)
    | none => (startStaged s, startedReply (startStaged s))

/-- PLAN_START NEXT (R23). -/
def doPlanStartNext : Handler := fun s =>
  match startRefusal s with
  | some st => (s, refuse st)
  | none =>
    if s.plan.play = .idle then (startStaged s, startedReply (startStaged s))
    else (setPlan { s.plan with queued := true } s, ok (e8 1))

/-- STOP of a form that is not LINE or VERSE: a form outside the list is refused before the play state is examined; with a run
in DONE it replies OK (R38, R174, R187, R189; log 51, log 53). -/
def doStopNow (b : List Byte) : Handler := fun s =>
  if byteAt b 0 ≠ 0 then (s, refuse .badField)
  else if s.plan.play = .idle then
    match s.levelling.run with
    | none => (s, refuse .notPlaying)
    | some r => (if r.phase = .done then idleRamps s else abortRun r .stop (idleRamps s), ok [])
  else (tearDown .stopped (setPlan { s.plan with queued := false } s), ok [])

/-- STOP LINE and STOP VERSE without what they bring about; in CLOSING nothing changes (R38, R39). -/
def doStopPart (line : Bool) : Handler := fun s =>
  match s.plan.play with
  | .idle => (s, refuse .notPlaying)
  | .closing => (s, ok [])
  | .starting => (stopPart line s, ok [])
  | .segment => (stopPart line s, ok [])
  | .rest => (stopPart line s, ok [])

end Sys2Proof.Machine
end

