-- ==== Sys2Proof/Machine/Settle.lean ====
section
/-! DEFINITION. What happens at once: the waits that a command sets or moves to or before the present are acted on within that
command (R44, R52, R135). A wait that had come before the command and is not moved by it is an event of its own, which comes
before or after the command and never inside it (R206). The manual gives no order among the waits of one moment, so a free value
picks one at a time (log 8). -/

namespace Sys2Proof.Machine

/-- A wait that a map change or a retime can set or move, with what waits and the time that it waits for. -/
inductive Wait where
  | entry
  | pauseEnd (p : Pause) (t : Option Time)
  | pauseStart (p : Pause) (t : Option Time)
  | segmentEnd (i : Option Nat) (t : Option Time)
  | segmentStart (i : Option Nat) (t : Option Time)
  | cue (c : Cue) (t : Option Time)
  | rejoin (p : Option RejoinPoint) (t : Option Time)
  | line (i : Option Nat) (l : NumberedLine) (t : Option Time)
  | close
deriving DecidableEq, Repr

/-- The RUNNING pause's end has come (R98). -/
def pauseEndDue (s : State) : Bool := (pauseEndTime s).any fun t => atOrBefore t s.now

/-- A PENDING cue's expiry has come (R89). -/
def anyCueExpired (s : State) : Bool := s.follower.cues.any (cueExpired s)

/-- A wait if a condition holds. -/
def waitIf (b : Bool) (w : Wait) : List Wait := if b then [w] else []

/-- The waits at or before the present, each kind in the order in which its own are taken: cues in list order (R89), lines in
line order (R36). -/
def comeWaits (s : State) : List (List Wait) :=
  [waitIf (entryDue s) .entry,
   ((runningPause s).filter fun _ => pauseEndDue s).toList.map fun p => .pauseEnd p (pauseEndTime s),
   (startingPause s).toList.map fun p => .pauseStart p (currentTime s p.pos false),
   waitIf (segmentEndDue s) (.segmentEnd s.map.current (segmentEndTime s)),
   waitIf (segmentStartDue s) (.segmentStart (nextIndex s) (nextStart s)),
   (s.follower.cues.filter (cueExpired s)).map fun c => .cue c (cueExpiryTime s c),
   waitIf (rejoinDue s) (.rejoin s.yielding.rejoin (rejoinTimeOf s)),
   (dueLines s).map fun l => .line s.map.current l (lineDueTime s l),
   waitIf (closingHolds s) .close]

/-- A wait had come before a command, and stands as it did: it is none of the command's. A retime acts on every entry at or
before the present, also on one that it does not move, so no entry stands so (R135, R136). -/
def stands (before : State) (w : Wait) : Bool := w != .entry && (comeWaits before).any (·.contains w)

/-- The pause whose start time has come starts (R97, R52). -/
def actPauseStart (s : State) : State :=
  match startingPause s with
  | some p => mapChanged (startPause p (syncRamps s))
  | none => s

/-- The RUNNING pause ends (R98, R52). -/
def actPauseEnd (s : State) : State := mapChanged (endPause (syncRamps s))

/-- A wait is acted on. -/
def actOn (w : Wait) (s : State) : State :=
  match w with
  | .entry => actOnHead s
  | .pauseEnd _ _ => actPauseEnd s
  | .pauseStart _ _ => actPauseStart s
  | .segmentEnd _ _ => endSegment s
  | .segmentStart _ _ => startSegment s
  | .cue c _ => missCue (· == c) s
  | .rejoin _ _ => rejoined s
  | .line _ l _ => sendLine s l
  | .close => closeHymn s

/-- The waits that a command which found the part in one state has set or moved to or before the present of another, the first
of each kind (R44, R206). -/
def dueWaits (before s : State) : List Wait := (comeWaits s).filterMap fun ws => ws.find? fun w => !stands before w

/-- One open choice more has been made (log 2). -/
def countChoice (s : State) : State := { s with choices := s.choices + 1 }

/-- One due wait is acted on: the only one, or the one the free value picks (log 8). -/
def actOnOne (ws : List Wait) (s : State) : State :=
  match ws with
  | [] => s
  | [w] => actOn w s
  | w :: w' :: rest =>
    actOn ((w :: w' :: rest).getD (Config.pick s.choices % (w :: w' :: rest).length) w) (countChoice s)

/-- The waits that a command has set or moved to or before the present are acted on, one after another, until none is left. -/
def settleFor (before : State) : Nat → State → State
  | 0, s => s
  | n + 1, s => if dueWaits before s = [] then s else settleFor before n (actOnOne (dueWaits before s) s)

/-- More waits than one moment can hold: 256 entries, 32 cues, 4 pauses, 15 segments of at most 16 lines (log 8). -/
abbrev settleFuel : Nat := 2000

/-- Everything that a command, which found the part in the state `before`, has set or moved to or before the present is acted on
at once (R44). -/
def settle (before s : State) : State := settleFor before settleFuel s

/-- The Plan Unit tests its closing conditions (R33). -/
def closeIfHeld (s : State) : State := if closingHolds s then closeHymn s else s

/-- Some lead of some division differs between two states (R58). -/
def leadsDiffer (s s' : State) : Bool := (allFin 6).any fun d => leadOn s d != leadOn s' d || leadOff s d != leadOff s' d

/-- A change that may have moved a lead: where it did, the queue retimes and what falls due is acted on (R58, R135). -/
def afterLeads (before after : State) : State := if leadsDiffer before after then settle before (retime after) else after

/-- A source becomes absent: in IDLE the part is released and a queued plan starts, else it seeks a rejoin point (R196,
R197, R33). -/
def sourceAbsent (src : YieldSource) (s : State) : State :=
  let s' := setSource src false s
  if anySource s && awaiting s' then
    if s.plan.play = .idle then startQueued (releaseYield s') else awaitTest s'
  else s'

/-- A source becomes present, and the closing conditions are tested (R194). -/
def claim (src : YieldSource) (s : State) : State := closeIfHeld (sourcePresent src s)

end Sys2Proof.Machine
end

