-- ==== Sys2Proof/Machine/Settings.lean ====
section
/-! DEFINITION. The requests that write settings and tables, and those that act on ramps, faults, the tempo, the yield and
levelling runs: FOLLOW_SET, MIC_SET, DIVISION_SET, STOPS_SET, REGISTRATION_SET, VOICING_SET, CURVE_SET, EXPRESS,
FAULT_CLEAR, TEMPO, YIELD, RESUME and LEVEL. -/

namespace Sys2Proof.Machine

/-- A request whose refusals carry the first failing field's place, then BUSY while settings are closed (R61, R100, R143). -/
def guarded (checks : List (Nat × Bool)) (accept : Handler) : Handler := fun s =>
  match firstFailing checks with
  | some place => (s, ⟨.badField, e8 place⟩)
  | none => if settingsClosed s then (s, refuse .busy) else accept s

/-- A request whose only refusal is a field out of range, with its place (R108, R168). -/
def checked (checks : List (Nat × Bool)) (accept : Handler) : Handler := fun s =>
  match firstFailing checks with
  | some place => (s, ⟨.badField, e8 place⟩)
  | none => accept s

/-! ### FOLLOW_SET (R99, R100) -/

/-- The ranges of the follow settings (R99). -/
def followChecks (b : List Byte) : List (Nat × Bool) :=
  [(0, inRange (byteAt b 0) 3 24), (1, inRange (byteAt b 1) 0 16), (2, inRange (byteAt b 2) 0 128),
   (3, inRange (byteAt b 3) 1 8), (4, inRange (byteAt b 4) 1 4), (5, inRange (wordAt b 5) 8000 40000),
   (6, inRange (wordAt b 7) 100 1000), (7, inRange (byteAt b 9) 1 8), (8, inRange (wordAt b 10) 5000 50000)]

/-- The follow settings of a body (R99). -/
def followOf (b : List Byte) : FollowSettings :=
  { win := byteAt b 0, phaseGain := byteAt b 1, periodGain := byteAt b 2, allowance := byteAt b 3, rejoinCount := byteAt b 4,
    horizon := wordAt b 5, repeatGap := wordAt b 7, lineLead := byteAt b 9, releaseDelay := wordAt b 10 }

/-- FOLLOW_SET (R100). -/
def doFollowSet (b : List Byte) : Handler :=
  guarded (followChecks b) fun s =>
    (setFollower { s.follower with settings := followOf b, credit := (followOf b).allowance } s, ok [])

/-! ### MIC_SET (R60, R61) -/

/-- The ranges of a microphone's settings and the fallback temperature (R60, R61). -/
def micChecks (b : List Byte) : List (Nat × Bool) :=
  [(0, inRange (byteAt b 0) 0 3), (1, inRange (byteAt b 1) 0 1), (2, inRange (wordAt b 2) 0 3000),
   (3, isAveraging (byteAt b 4)), (4, inRange (wordAt b 5) 16 2048), (5, decide (wordAt b 7 < wordAt b 5)),
   (6, inRange (wordAt b 9) 500 5000), (7, inRange (byteAt b 11) 2 10), (8, inRange (byteAt b 12) 0 1),
   (9, inRange (wordAt b 13) 50 2000), (10, decide (-100 ≤ signedWordAt b 15) && decide (signedWordAt b 15 ≤ 400))]

/-- The settings of a microphone in a body; enable, on or off, is read as a flag, 1 for on (R60; log 47). -/
def micOf (b : List Byte) : MicSettings :=
  { enable := byteAt b 1 == 1, choirDistance := wordAt b 2, averaging := byteAt b 4, rise := wordAt b 5, fall := wordAt b 7,
    minimumGap := wordAt b 9, floorShift := byteAt b 11, policy := if byteAt b 12 = 0 then .open_ else .gate,
    gateLength := wordAt b 13 }

/-- The front end after accepted settings of a microphone (R61). -/
def withMicSettings (m : MicNo) (x : MicSettings) (fallback : Int) (s : State) : State :=
  setMic m ((mic s m).withSettings s.now x) { s with front := { s.front with fallback := fallback } }

/-- MIC_SET (R61, R55, R58). -/
def doMicSet (b : List Byte) : Handler :=
  guarded (micChecks b) fun s =>
    (afterLeads s (updateInUse (withMicSettings (toFin 4 (byteAt b 0)) (micOf b) (signedWordAt b 15) s)), ok [])

/-! ### DIVISION_SET (R142, R143, R166) -/

/-- The ranges of a division record, each microphone distance with a place of its own (R142; log 40). -/
def divisionChecks (b : List Byte) : List (Nat × Bool) :=
  [(0, inRange (byteAt b 0) 0 5), (1, inRange (byteAt b 1) 0 1), (2, inRange (byteAt b 2) 0 1),
   (3, inRange (byteAt b 3) 1 (if byteAt b 2 = 1 then 32 else 61)), (4, inRange (byteAt b 4) 0 127),
   (5, inRange (byteAt b 5) 0 1), (6, inRange (wordAt b 6) 0 12000), (7, inRange (wordAt b 8) 0 12000),
   (8, inRange (wordAt b 10) 0 12000), (9, inRange (wordAt b 12) 0 12000), (10, inRange (wordAt b 14) 0 12000),
   (11, inRange (wordAt b 16) 0 3000), (12, inRange (wordAt b 18) 0 1000), (13, inRange (wordAt b 20) 200 4000),
   (14, inRange (wordAt b 22) 1 4095), (15, inRange (wordAt b 24) 0 (wordAt b 22))]

/-- A key record of a key that is no longer, or not yet, part of the division: NORMAL with its counts at 0 (R143). -/
def KeyRecord.cleared (k : KeyRecord) : KeyRecord := { k with fault := .normal, openCount := 0, shortCount := 0 }

/-- The key records after an accepted DIVISION_SET: those of a division that goes absent, and those at or above the old or the
new compass, start NORMAL (R143). -/
def keysAfterSet (present : Bool) (compass : Nat) (x : Division) : Vector KeyRecord 61 :=
  mapIdx (fun k r => if (x.present && !present) || decide (min compass x.compass ≤ k.val) then r.cleared else r) x.keys

/-- A division after an accepted DIVISION_SET; present is read as a flag, 1 for present (R142, R143; log 47). -/
def divisionAfterSet (b : List Byte) (x : Division) : Division :=
  let present := byteAt b 1 == 1
  { x with
    present := present, kind := if byteAt b 2 = 1 then .pedal else .manual, compass := byteAt b 3, base := byteAt b 4
    enclosed := byteAt b 5 == 1, choirDistance := wordAt b 6
    micDistance := #v[wordAt b 8, wordAt b 10, wordAt b 12, wordAt b 14]
    speech := wordAt b 16, release := wordAt b 18, stopAction := wordAt b 20, capacity := wordAt b 22, reserve := wordAt b 24
    drawn := if present then x.drawn else 0
    stopState := if present then x.stopState else .settled
    keys := keysAfterSet present (byteAt b 3) x }

/-- A division written, with the ramps of one that is no longer enclosed set IDLE (R143, R166). -/
def writeDivision (d : DivNo) (x : Division) (s : State) : State :=
  let s' := setDiv d x s
  if enclosed s' d then s' else setShutter d (idleShutter (shutter s' d)) s'

/-- DIVISION_SET (R143, R58). -/
def doDivisionSet (b : List Byte) : Handler :=
  guarded (divisionChecks b) fun s =>
    let d : DivNo := toFin 6 (byteAt b 0)
    (afterLeads s (writeDivision d (divisionAfterSet b (div s d)) s), ok [])

/-! ### STOPS_SET and REGISTRATION_SET (R144, R145) -/

/-- The ranges of a stop list, each weight with a place of its own (R144; log 40). -/
def stopsChecks (b : List Byte) : List (Nat × Bool) :=
  (0, inRange (byteAt b 0) 0 5) :: (1, inRange (byteAt b 1) 0 16) ::
    (List.range (byteAt b 1)).map fun i => (2 + i, inRange (byteAt b (2 + i)) 1 64)

/-- A division with a new stop list: marks below the new count kept, the others retired (R144). -/
def withStops (weights : List Nat) (x : Division) : Division :=
  { x with weights := weights, drawn := x.drawn &&& existing { x with weights := weights } }

/-- STOPS_SET; the fields are examined before BUSY, as R143 orders them for DIVISION_SET (R144; log 48). -/
def doStopsSet (b : List Byte) : Handler :=
  guarded (stopsChecks b) fun s =>
    let d : DivNo := toFin 6 (byteAt b 0)
    (setDiv d (withStops ((List.range (byteAt b 1)).map fun i => byteAt b (2 + i)) (div s d)) s, ok [])

/-- The registration set of a body: six subsets of the stops (R145). -/
def registrationOf (b : List Byte) : Vector StopSet 6 := .ofFn fun d : Fin 6 => BitVec.ofNat 16 (wordAt b (1 + 2 * d.val))

/-- REGISTRATION_SET (R145). -/
def doRegistrationSet (b : List Byte) : Handler := fun s =>
  if 7 < byteAt b 0 then (s, refuse .badField)
  else
    let g : Fin 8 := toFin 8 (byteAt b 0)
    ({ s with drivers := { s.drivers with registrations := s.drivers.registrations.set g (registrationOf b) } }, ok [])

/-! ### VOICING_SET (R107, R108) -/

/-- The checks of the target at a place of a body, with its place number (R108). -/
def targetChecks (b : List Byte) (i : Nat) : List (Nat × Bool) :=
  (i, inRange (byteAt b i) 0 1) ::
    (if byteAt b i = 1 then
      [(i + 1, inRange (byteAt b (i + 1)) 0 5),
       (i + 2, decide (-2 ≤ signedByteAt b (i + 2)) && decide (signedByteAt b (i + 2) ≤ 2))]
    else [])

/-- The checks of a voicing mode (R108). -/
def voicingChecks (b : List Byte) : List (Nat × Bool) :=
  (0, inRange (byteAt b 0) 0 15) :: (List.range 10).flatMap fun j => targetChecks b (1 + 3 * j)

/-- The target at a place of a body (R107). -/
def targetAt (b : List Byte) (i : Nat) : Option Target :=
  if byteAt b i = 1 then some { division := toFin 6 (byteAt b (i + 1)), shift := signedByteAt b (i + 2) } else none

/-- The two targets of a voice in a body (R108). -/
def targetsAt (b : List Byte) (v : Voice) : Targets := ⟨targetAt b (1 + 6 * v.code), targetAt b (4 + 6 * v.code)⟩

/-- VOICING_SET (R108). -/
def doVoicingSet (b : List Byte) : Handler :=
  checked (voicingChecks b) fun s =>
    let m : Fin 16 := toFin 16 (byteAt b 0)
    ({ s with expander := { s.expander with voicing := s.expander.voicing.set m (.of (targetsAt b)) } }, ok [])

/-! ### CURVE_SET and EXPRESS (R168, R172) -/

/-- The checks of a curve, each point with a place of its own (R168; log 40). -/
def curveChecks (b : List Byte) : List (Nat × Bool) :=
  (0, inRange (byteAt b 0) 3 7) :: (List.range 9).map fun i => (1 + i, inRange (byteAt b (1 + i)) 0 127)

/-- The points of a curve in a body (R168). -/
def pointsOf (b : List Byte) : Vector Nat 9 := .ofFn fun i : Fin 9 => byteAt b (1 + i.val)

/-- CURVE_SET: the steps of the su risen by now are made with the points as they stood, and then the points are written
(R168, R170; log 9). -/
def doCurveSet (b : List Byte) : Handler :=
  checked (curveChecks b) fun s =>
    let c : Fin 5 := toFin 5 (byteAt b 0 - 3)
    let s := syncRamps s
    ({ s with expression := { s.expression with curves := s.expression.curves.set c (pointsOf b) } }, ok [])

/-- The checks of an EXPRESS request after its form (R172). -/
def expressRefusal (b : List Byte) (s : State) : Option Status :=
  if 5 < byteAt b 0 ∨ 1 < byteAt b 1 ∨ (firstFailing (rampChecks b 2 2)).isSome = true then some .badField
  else if !enclosed s (toFin 6 (byteAt b 0)) then some .notEnclosed
  else if yielded s then some .busy
  else none

/-- EXPRESS with what it does to the division's shutter once every risen su is counted (R172; log 9). -/
def doExpress (b : List Byte) (place : Expression → Ramp → Shutter → Shutter) : Handler := fun s =>
  match expressRefusal b s with
  | some st => (s, refuse st)
  | none =>
    let d : DivNo := toFin 6 (byteAt b 0)
    let s := syncRamps s
    let sh := place s.expression (rampAt b 2) (shutter s d)
    (setShutter d sh s, ok (e8 sh.running.code ++ eFlag sh.queued.isSome))

/-! ### FAULT_CLEAR (R157) -/

/-- FAULT_CLEAR is refused (R157). -/
def clearRefused (b : List Byte) (s : State) : Bool :=
  decide (5 < byteAt b 0) ||
  (byteAt b 1 != 0xFF && decide ((div s (toFin 6 (byteAt b 0))).compass ≤ byteAt b 1)) ||
  !inRange (byteAt b 2) 1 8

/-- The keys that a FAULT_CLEAR names (R157). -/
def clearNames (b : List Byte) (x : Division) (k : KeyNo) : Bool :=
  x.present && (if byteAt b 1 = 0xFF then decide (k.val < x.compass) else k.val == byteAt b 1)

/-- A division after a FAULT_CLEAR (R157). -/
def clearDivision (b : List Byte) (x : Division) : Division :=
  { x with keys := mapIdx (fun k r => if clearNames b x k then clearKey r else r) x.keys }

/-- The number of keys whose fault state a FAULT_CLEAR changes (R157). -/
def clearedCount (b : List Byte) (x : Division) : Nat :=
  ((allFin 61).filter fun k => clearNames b x k && clearedFault x.keys[k] != x.keys[k].fault).length

/-- FAULT_CLEAR (R157). -/
def doFaultClear (b : List Byte) : Handler := fun s =>
  if clearRefused b s then (s, refuse .badField)
  else
    let d : DivNo := toFin 6 (byteAt b 0)
    (setDiv d (clearDivision b (div s d)) { s with drivers := { s.drivers with debounce := byteAt b 2 } },
      ok (e8 (clearedCount b (div s d))))

/-! ### TEMPO (R101) -/

/-- The re-anchoring of a TEMPO request: at (now, s(now)) in SEGMENT while no pause runs (R101). -/
def tempoAnchor (s : State) : State :=
  if s.plan.play = .segment ∧ (runningPause s).isNone = true then
    match positionNow s with
    | some x => reAnchor s.now x s
    | none => s
  else s

/-- The map and the follower after a TEMPO request (R101). -/
def setTempo (period : Nat) (s : State) : State :=
  let s := tempoAnchor (syncRamps s)
  { s with map := { s.map with period := clampPeriod s period }, follower := { s.follower with lastMatch := none } }

/-- TEMPO: a period out of range is refused before the play state is examined (R101, R53; log 53). -/
def doTempo (b : List Byte) : Handler := fun s =>
  if !inRange (wordAt b 0) 2000 20000 then (s, refuse .badField)
  else if s.plan.play = .idle then (s, refuse .notPlaying)
  else (settle s (mapChanged (setTempo (wordAt b 0) s)),
    ok (e16 (clampPeriod s (wordAt b 0)) ++ e16 (tempoReport (clampPeriod s (wordAt b 0)))))

/-! ### YIELD and RESUME (R193) -/

/-- YIELD (R193, R194). -/
def doYield : Handler := fun s => (claim .link s, ok (e8 (claim .link s).yielding.state.code))

/-- RESUME (R193, R196, R197). -/
def doResume : Handler := fun s => (sourceAbsent .link s, ok (e8 (sourceAbsent .link s).yielding.state.code))

/-! ### LEVEL (R179, R180) -/

/-- The ranges of a LEVEL request (R179, order 1). -/
def levelChecks (b : List Byte) : List (Nat × Bool) :=
  [(0, inRange (byteAt b 0) 0 5), (1, inRange (byteAt b 1) 0 15), (2, inRange (byteAt b 2) 0 60),
   (3, inRange (byteAt b 3) 0 3), (4, byteAt b 4 == 4 || byteAt b 4 == 8 || byteAt b 4 == 16),
   (5, inRange (wordAt b 5) 3000 20000)]

/-- What the division and the microphone must offer (R179, order 3). -/
def levelOffers (b : List Byte) (s : State) : List (Nat × Bool) :=
  let x := div s (toFin 6 (byteAt b 0))
  [(0, x.present), (1, decide (byteAt b 1 < x.weights.length)), (2, decide (byteAt b 2 < x.compass)),
   (3, (mic s (toFin 4 (byteAt b 3))).settings.enable)]

/-- The run that an accepted LEVEL creates; in SETUP it has no phase deadline (R178, R179; log 54). -/
def newRun (b : List Byte) (s : State) : LevelRun :=
  let d : DivNo := toFin 6 (byteAt b 0)
  { division := d, stop := byteAt b 1, key := toFin 61 (byteAt b 2), mic := toFin 4 (byteAt b 3), trials := byteAt b 4,
    spacing := wordAt b 5, saved := (div s d).drawn, phase := .setup, listening := false, good := false, trial := 1,
    retry := 0, measured := [], quietStart := none, opening := none, deadline := none }

/-- LEVEL (R179, R180). -/
def doLevel (b : List Byte) : Handler := fun s =>
  match firstFailing (levelChecks b) with
  | some place => (s, ⟨.badField, e8 place⟩)
  | none =>
    if s.plan.play ≠ .idle ∨ yielded s = true ∨ runActive s = true then (s, refuse .busy)
    else match firstFailing (levelOffers b s) with
      | some place => (s, ⟨.badField, e8 place⟩)
      | none => (stopChange (toFin 6 (byteAt b 0)) (BitVec.ofNat 16 (2 ^ byteAt b 1)) (setRun (some (newRun b s)) s), ok [])

end Sys2Proof.Machine
end

