-- ==== Sys2Proof/Machine/Link.lean ====
section
/-! DEFINITION. The Service Link (chapter 12): the receiver, the check of a frame, the transmitter, STATUS, COUNTERS and the
quiet reset. -/

namespace Sys2Proof.Machine

def setReceiver (r : Receiver) (s : State) : State := { s with link := { s.link with receiver := r } }

/-! ### The check (R205) -/

/-- One shift of the check register (R205). -/
def crcShift (c : BitVec 16) : BitVec 16 := if c.msb then (c <<< 1) ^^^ 0x1021#16 else c <<< 1

/-- A number of shifts. -/
def crcShifts : Nat → BitVec 16 → BitVec 16
  | 0, c => c
  | n + 1, c => crcShifts n (crcShift c)

/-- The check register after a byte (R205). -/
def crcByte (c : BitVec 16) (b : Byte) : BitVec 16 := crcShifts 8 (c ^^^ (b.zeroExtend 16 <<< 8))

/-- The check value of bytes (R205). -/
def crcOf (bs : List Byte) : BitVec 16 := bs.foldl crcByte 0xFFFF

/-- The check value of a frame, over LEN, KIND, TAG and the body (R205). -/
def Frame.check (f : Frame) : BitVec 16 := crcOf (BitVec.ofNat 8 f.body.length :: f.kind :: f.tag :: f.body)

/-- The bytes of a frame, with its sync byte and its check (12, 12.6). -/
def Frame.bytes (f : Frame) : List Byte :=
  0xA5 :: BitVec.ofNat 8 f.body.length :: f.kind :: f.tag :: f.body ++ e16 f.check.toNat

/-! ### The receiver (R203, R204) -/

/-- A byte arrives on RXD: it joins the receive FIFO with its arrival time, or is dropped and counted (R203). -/
def receive (b : Byte) (s : State) : State :=
  if s.link.rx.length < Config.fifoBytes then { s with link := { s.link with rx := s.link.rx ++ [(b, s.now)] } }
  else countOverrun s

/-- The arrival time of the last byte of the frame being received; none in HUNT (R204). -/
def Receiver.last : Receiver → Option Time
  | .hunt => none
  | .awaitLen t => some t
  | .awaitKind t _ => some t
  | .awaitTag t _ _ => some t
  | .body t _ _ _ _ => some t
  | .checkHigh t _ _ _ => some t
  | .checkLow t _ _ _ _ => some t

/-- A gap shows at a time: it lies more than 200 tu after the frame's last byte (R204). -/
def gapAt (s : State) (t : Time) : Bool := s.link.receiver.last.any fun u => decide ((Config.frameGapTime : Int) < diff t u)

/-- A frame with a gap is discarded (R204). -/
def discardStalled (s : State) : State := countTimeout (setReceiver .hunt s)

/-- A frame is complete: a matching check makes it the checked frame that waits for the handler (R205, R206). -/
def checkFrame (f : Frame) (check : Nat) (s : State) : State :=
  let s := setReceiver .hunt s
  if check = f.check.toNat then { s with link := { s.link with waiting := some f } } else countCheck s

/-- The receiver acts on a byte with its arrival time (R204). -/
def receiverStep (b : Byte) (t : Time) (s : State) : State :=
  match s.link.receiver with
  | .hunt => if b = 0xA5 then setReceiver (.awaitLen t) s else s
  | .awaitLen _ =>
    if Config.maxBody < b.toNat then countLength (setReceiver .hunt s) else setReceiver (.awaitKind t b.toNat) s
  | .awaitKind _ n => setReceiver (.awaitTag t n b) s
  | .awaitTag _ n k => setReceiver (if n = 0 then .checkHigh t k b [] else .body t n k b []) s
  | .body _ n k g got =>
    setReceiver (if n ≤ got.length + 1 then .checkHigh t k g (got ++ [b]) else .body t n k g (got ++ [b])) s
  | .checkHigh _ k g got => setReceiver (.checkLow t k g got b) s
  | .checkLow _ k g got high => checkFrame ⟨k, g, got⟩ (high.toNat * 256 + b.toNat) s

/-- The receiver takes bytes: the FIFO holds one and no checked request waits (R203). -/
def receiverReady (s : State) : Bool := s.link.rx != [] && s.link.waiting.isNone

/-- The receiver takes the oldest byte of the FIFO, finding a gap before it if there is one (R204). -/
def takeByte (s : State) : State :=
  match s.link.rx with
  | [] => s
  | (b, t) :: rest =>
    let s' := { s with link := { s.link with rx := rest } }
    receiverStep b t (if gapAt s t then discardStalled s' else s')

/-- The present shows a gap while no later byte has arrived (R204). -/
def frameGapDue (s : State) : Bool := s.link.rx == [] && gapAt s s.now

/-! ### The transmitter (R208) -/

/-- The oldest message of the outgoing list, where the transmit FIFO has room for its whole frame (R208). -/
def sendable (s : State) : Option Message :=
  match s.link.outgoing with
  | [] => none
  | m :: _ => if s.link.tx.length + m.frame.bytes.length ≤ Config.fifoBytes then some m else none

/-- The oldest message moves whole into the transmit FIFO (R208). -/
def sendMessage (s : State) : State :=
  match sendable s with
  | some m => { s with link := { s.link with outgoing := s.link.outgoing.drop 1, tx := s.link.tx ++ m.frame.bytes } }
  | none => s

/-- A byte has left the transmit FIFO (R202, R208). -/
def byteSent (s : State) : State := { s with link := { s.link with tx := s.link.tx.drop 1 } }

/-- The READY notice and what the release of RST starts (R202, R213, R201). -/
def release (rate1 rate0 : Bool) (s : State) : State :=
  let s := { s with now := 0, rstHeld := false, marks := .taken, link := { ServiceLink.powerOn with
    rate := BitVec.ofNat 2 ((if rate1 then 2 else 0) + (if rate0 then 1 else 0)) } }
  notice (.ready s.link.rate) (setFilter (filterStart s) s)

/-! ### STATUS (R210) -/

/-- The staged and queued flags of the STATUS reply (12, 12.6). -/
def planFlags (s : State) : Nat := (if s.plan.staged.isSome then 1 else 0) + (if s.plan.queued then 2 else 0)

/-- The fields of the STATUS reply after its status byte (12, 12.6; R29, R51, R53). -/
def statusFields (s : State) : List Byte :=
  let g := currentSegment s
  e8 s.plan.play.code ++ eOpt8 (if g.isSome then s.map.current else none) ++ eOpt8 (g.map (·.kind.code)) ++
  e8 (g.elim 0 (·.verse)) ++ e8 ((currentLine s).elim 0 (·.number)) ++ e16 (reportedPosition s) ++ e16 s.map.period ++
  e16 (tempoReport s.map.period) ++ e8 s.follower.mode.code ++ e8 s.follower.credit ++ e8 s.yielding.state.code ++
  e8 (s.levelling.run.elim 0 (·.phase.code)) ++ e16 s.queue.length ++ e16i s.acoustic.inUse ++ eFlag s.link.lost ++
  e16 s.store.free ++ e8 (planFlags s) ++ e32 s.now

/-- STATUS (R210): the notices-lost flag is reported and cleared. -/
def doStatus : Handler := fun s => ({ s with link := { s.link with lost := false } }, ok (statusFields s))

/-! ### COUNTERS (R211) -/

/-- The sixteen counters in R211's order. -/
def Counters.list (c : Counters) : List (BitVec 16) :=
  [c.length, c.timeout, c.check, c.overrun, c.late, c.deferred, c.clipped, c.shed, c.forced, c.noDivision, c.masked,
   c.ignored, c.unmatched, c.duplicate, c.missed, c.onsetsDropped]

/-- COUNTERS (R211). -/
def doCounters : Handler := fun s => ({ s with counters := .zero }, ok (s.counters.list.flatMap fun c => e16 c.toNat))

/-! ### QUIET_RESET (R213) -/

/-- The front end's part of a quiet reset (R77). -/
def quietFront (now : Time) (x : FrontEnd) : FrontEnd :=
  { x with mics := mapIdx (fun _ m => m.afresh now) x.mics, onsets := [] }

/-- The expander's part of a quiet reset (R107, R112, R117). -/
def quietExpander (x : Expander) : Expander := { Expander.powerOn with voicing := x.voicing }

/-- The follower's part of a quiet reset: OFF, no cue, no owed re-entry, no last match (R106). -/
def quietFollower (s : State) : State :=
  let s := followerOff s
  { s with follower := { s.follower with lastMatch := none, owed := false } }

/-- The quiet reset of every block, in one step (R213 and the rules it names: R19, R42, R77, R106, R112, R117, R141, R164,
R177, R190, R201, R211). -/
def quietReset (s : State) : State :=
  let s := idleRamps (syncRamps s)
  let s := mapDivisions (fun _ x => quietDivision x) (quietFollower (quietStore s))
  { s with
    plan := .powerOn, front := quietFront s.now s.front, expander := quietExpander s.expander, queue := []
    levelling := { s.levelling with run := none }, yielding := { YieldUnit.powerOn with filter := filterStart s }
    counters := s.counters.playCleared }

/-- QUIET_RESET (R213). -/
def doQuietReset : Handler := fun s => (quietReset s, ok [])

end Sys2Proof.Machine
end

