-- ==== Sys2Proof/Machine/Tables.lean ====
section
/-! DEFINITION. TABLE_READ (R212): the entry of each table, with its fields in the order its chapter gives (log 15). -/

namespace Sys2Proof.Machine

/-- The body bytes a reply has for fields, after its status byte (R204, R207). -/
abbrev fieldRoom : Nat := 239

/-- As many whole items as fit in a number of bytes (R212). -/
def fitItems (room : Nat) : List (List Byte) → List Byte
  | [] => []
  | x :: xs => if x.length ≤ room then x ++ fitItems (room - x.length) xs else []

/-- An entry that holds a list: fields, the list's total length, and its items from the first item onward (R212). -/
def withItems (fields : List Byte) (first : Nat) (items : List (List Byte)) : List Byte :=
  fields ++ e8 items.length ++ fitItems (fieldRoom - fields.length - 1) (items.drop first)

/-- An optional record of n bytes: its presence byte and its fields, all-ones when absent (R207). -/
def eOptRecord (n : Nat) : Option (List Byte) → List Byte
  | none => e8 0 ++ eAbsent n
  | some x => e8 1 ++ x

/-! ### Table 0 (R15) -/

/-- An event record (12, 12.6). -/
def eventFields (e : Event) : List Byte :=
  e16 e.pos ++ e16 e.len ++ eOpt8 e.pitch.s ++ eOpt8 e.pitch.a ++ eOpt8 e.pitch.t ++ eOpt8 e.pitch.b ++ eOpt8 e.pitch.d ++
  e8 e.voiceId.val ++
  e8 ((if e.cue then 1 else 0) + (if e.fermata then 2 else 0) + (if e.breath then 4 else 0) + (if e.lineEnd then 8 else 0) +
    (if e.amen then 16 else 0)) ++ e8 (maskOf e.tie)

/-- The events of a slot (R15). -/
def slotEvents : Slot → List Event
  | .empty => []
  | .loading _ es => es
  | .ready t => t.events

def tableEvent (s : State) (i : Fin 16) (n : Nat) : List Byte := eOptRecord 12 ((slotEvents (slot s i))[n]?.map eventFields)

/-! ### Table 1 (R59) -/

def tableAcoustic (s : State) (d : DivNo) : List Byte :=
  eList e16i s.acoustic.history ++ e16i (averageTemp s) ++ e16i s.acoustic.inUse ++ eFlag s.acoustic.sensorFault ++
  e16 (speedOfSound s.acoustic.inUse).toNat ++ e16 (leadOn s d) ++ e16 (leadOff s d) ++ e16 (travelToChoir s d) ++
  (allFin 4).flatMap (fun m => e16 (travelToMic s d m)) ++ (allFin 4).flatMap fun m => e16 (micToChoir s m)

/-! ### Tables 2 and 3 (R75) -/

/-- The settings of a microphone; enable, on or off, is sent as a flag that is set for on (R60, R75; log 47). -/
def micSettingsFields (x : MicSettings) : List Byte :=
  eFlag x.enable ++ e16 x.choirDistance ++ e8 x.averaging ++ e16 x.rise ++ e16 x.fall ++ e16 x.minimumGap ++
  e8 x.floorShift ++ e8 (match x.policy with | .open_ => 0 | .gate => 1) ++ e16 x.gateLength

/-- The time of the last firing, absent when stale (R45, R75). -/
def freshFiring (now : Time) (x : Mic) : Option Time := x.lastFiring.filter fun t => !isStale now t

/-- The envelope with its time, the floor, the detector and the last firing, absent values as all-ones (R75; log 42). -/
def micRunningFields (now : Time) (x : Mic) : List Byte :=
  eOpt16 (x.envelope.map (·.1)) ++ eOpt32 (x.envelope.map (·.2)) ++ eOpt16 x.floor ++ eFlag x.fired ++
  eOpt32 (freshFiring now x)

/-- A microphone's settings and, while it is enabled, its running state; a disabled one's running values are absent and its
gate list is sent empty (R75; log 36). -/
def tableMic (s : State) (m : MicNo) (first : Nat) : List Byte :=
  let x := mic s m
  let fields := micSettingsFields x.settings ++ e16i s.front.fallback
  if x.settings.enable then
    withItems (fields ++ micRunningFields s.now x) first (x.gates.map fun w => e32 w.opens ++ e32 w.closes)
  else withItems (fields ++ eAbsent 13) first []

def tableOnsets (s : State) (first : Nat) : List Byte :=
  withItems [] first (s.front.onsets.map fun o => e32 o.tObs ++ e8 o.mic.val ++ e16 o.strength)

/-! ### Tables 4 to 6 (R105) -/

def pauseFields (s : State) (p : Pause) : List Byte :=
  e8 p.segment ++ e16 p.pos ++ e24 (pauseExt s p) ++ eFlag p.isRunning

/-- The follower and the map; an absent anchor's values are sent as all-ones (R105; log 42). -/
def tableFollower (s : State) : List Byte :=
  e8 s.follower.mode.code ++ e8 s.follower.credit ++ e8 s.follower.rejoinRun ++ eOpt16 s.follower.lastMatch ++
  eFlag s.follower.owed ++ eOpt8 s.follower.lastPosted ++ eOpt8 s.map.current ++ eOpt32 (s.map.anchor.map (·.time)) ++
  eOpt16 (s.map.anchor.map (·.pos)) ++ e16 s.map.period ++ eOpt32 (nextStart s) ++ eList (pauseFields s) s.map.pauses

/-- The onset time and the removal time of a record; absent while it is PENDING (R105). -/
def matchFields : CueState → List Byte
  | .pending => eAbsent 8
  | .matched t r => e32 t ++ e32 r

def cueFields (s : State) (c : Cue) : List Byte :=
  e8 c.segment ++ e16 c.event ++ e16 c.pos ++ e8 (match c.kind with | .normal => 0 | .reEntry => 1) ++
  eFlag (!c.isPending) ++ eOpt32 (cueTime s c) ++ e16 (cueWindow s c.kind) ++ matchFields c.state

def tableCues (s : State) (first : Nat) : List Byte := withItems [] first (s.follower.cues.map (cueFields s))

def tableFollowSettings (s : State) : List Byte :=
  let x := s.follower.settings
  e8 x.win ++ e8 x.phaseGain ++ e8 x.periodGain ++ e8 x.allowance ++ e8 x.rejoinCount ++ e16 x.horizon ++ e16 x.repeatGap ++
  e8 x.lineLead ++ e16 x.releaseDelay

/-! ### Tables 7 and 8 (R107, R112) -/

def targetFields (t : Option Target) : List Byte := eOptRecord 2 (t.map fun t => e8 t.division.val ++ e8i t.shift)

def tableVoicing (s : State) (m : Fin 16) : List Byte :=
  allVoices.flatMap fun v =>
    targetFields (s.expander.voicing[m].get v).first ++ targetFields (s.expander.voicing[m].get v).second

def cursorFields : Cursor → List Byte
  | .none => e8 0 ++ eAbsent 3
  | .at_ g e => e8 1 ++ e8 g ++ e16 e
  | .after g => e8 2 ++ e8 g ++ eAbsent 2

/-- The carried voices: the mask of the subset, then the pitch of each of the five voices, all-ones for a voice that is not
carried (R112, R207; log 46). -/
def carriedFields (carried : PerVoice (Option Nat)) : List Byte :=
  e8 (maskOf (.of fun v => (carried.get v).isSome)) ++ allVoices.flatMap fun v => eOpt8 (carried.get v)

/-- The cursor, the carried voices and the flag (R112). -/
def tableCursor (s : State) : List Byte :=
  cursorFields s.expander.cursor ++ carriedFields s.expander.carried ++ eFlag s.expander.firstDone

/-! ### Tables 9 and 10 (R140) -/

def actionFields : Action → List Byte
  | .keyOn d k v n _ => e8 0 ++ e8 d.val ++ e8 k.val ++ e8 v.code ++ e16 n.toNat
  | .keyOff d k v n _ => e8 1 ++ e8 d.val ++ e8 k.val ++ e8 v.code ++ e16 n.toNat
  | .stopSet d _ => e8 2 ++ e8 d.val ++ eAbsent 4

/-- The follow-on, the not-before and the registration of an entry, those its kind does not hold absent (R125). -/
def actionExtras : Action → List Byte
  | .keyOn _ _ _ _ nb => eAbsent 2 ++ eOpt32 nb ++ eAbsent 2
  | .keyOff _ _ _ _ f => eOpt16 (f.map (·.toNat)) ++ eAbsent 6
  | .stopSet _ r => eAbsent 6 ++ e16 r.toNat

def entryFields (e : Entry) : List Byte :=
  actionFields e.action ++ e8 e.segment ++ e16 e.pos ++ eFlag e.action.releaseSide ++ actionExtras e.action ++ e32 e.issue

def tableEntry (s : State) (place : Nat) : List Byte := eOptRecord 22 (s.queue[place]?.map entryFields)

def tableQueue (s : State) : List Byte :=
  e16 s.queue.length ++ eOpt32 (s.queue.head?.map (·.issue)) ++ e16 s.counters.late.toNat ++
  e16 s.counters.deferred.toNat ++ e16 s.counters.clipped.toNat

/-! ### Tables 11 to 13 (R162) -/

/-- The division record; present is sent as a flag that is set for present (R142, R162; log 47). -/
def divisionFields (x : Division) : List Byte :=
  eFlag x.present ++ e8 (match x.kind with | .manual => 0 | .pedal => 1) ++ e8 x.compass ++ e8 x.base ++ eFlag x.enclosed ++
  e16 x.choirDistance ++ (allFin 4).flatMap (fun m => e16 x.micDistance[m]) ++ e16 x.speech ++ e16 x.release ++
  e16 x.stopAction ++ e16 x.capacity ++ e16 x.reserve

/-- The stop list: each stop's weight and its mark, sent as a flag that is set for drawn (R162; log 41). -/
def stopListFields (x : Division) : List Byte :=
  e8 x.weights.length ++ (x.weights.mapIdx fun i w => e8 w ++ eFlag (x.drawn.getLsbD i)).flatten

/-- The stop state, SETTLED 0 and CHANGING 1, with the change end, which is sent as all-ones when SETTLED (R162; log 41, log
42). -/
def stopStateFields : StopState → List Byte
  | .settled => e8 0 ++ eAbsent 4
  | .changing t => e8 1 ++ e32 t

def keyFields (k : KeyRecord) : List Byte := e8 k.holders ++ e8 k.fault.code

def tableDivision (s : State) (d : DivNo) (first : Nat) : List Byte :=
  let x := div s d
  withItems
    (divisionFields x ++ stopListFields x ++ stopStateFields x.stopState ++ e16 (drawnWeight x) ++ e8 (drivenCount s d) ++
      e16 (windDemand s d)) first ((x.keys.toList.take x.compass).map keyFields)

def tableRegistration (s : State) (g : Fin 8) : List Byte :=
  (allFin 6).flatMap fun d => e16 (s.drivers.registrations[g][d]).toNat

def tableDebounce (s : State) : List Byte :=
  e8 s.drivers.debounce ++ e16 s.counters.shed.toNat ++ e16 s.counters.forced.toNat

/-! ### Tables 14 and 15 (R176) -/

def rampFields (r : Ramp) : List Byte :=
  eOpt8 r.fromStep ++ e8 r.toStep ++ e8 r.stepLength ++ e16 r.delay ++ e16 r.hold ++ e8 r.curve.val

/-- The ramp, the state, the current step (held in RUN) and the count of a running slot; an IDLE slot's values are absent
(R169, R176; log 42). -/
def runningFields (x : RunningRamp) : List Byte :=
  match x with
  | .idle => eAbsent 8 ++ e8 x.code ++ eAbsent 3
  | .active r .delay n => rampFields r ++ e8 x.code ++ eAbsent 1 ++ e16 n
  | .active r (.run step) n => rampFields r ++ e8 x.code ++ e8 step ++ e16 n
  | .active r .hold n => rampFields r ++ e8 x.code ++ eAbsent 1 ++ e16 n

/-- The shutter as it stands once every su risen by the present is counted; the read changes nothing (R212, log 9). -/
def tableExpression (s : State) (d : DivNo) : List Byte :=
  let sh := shutter (syncRamps s) d
  e8 sh.position ++ eFlag (shutOutput s d).isSome ++ runningFields sh.running ++
  eOptRecord 8 (sh.queued.map rampFields)

def tableCurve (s : State) (c : Fin 5) : List Byte := s.expression.curves[c].toList.flatMap e8

/-! ### Table 16 (R178) -/

/-- The run's fields; without a run they are absent, its state NONE and its list empty (R178; log 42). -/
def runFields : Option LevelRun → List Byte
  | none => eAbsent 9 ++ e8 0 ++ eAbsent 2 ++ e8 0 ++ eAbsent 12
  | some r =>
    e8 r.division.val ++ e8 r.stop ++ e8 r.key.val ++ e8 r.mic.val ++ e8 r.trials ++ e16 r.spacing ++ e16 r.saved.toNat ++
    e8 r.phase.code ++ e8 r.trial ++ e8 r.retry ++ eList e16 r.measured ++ eOpt32 r.quietStart ++ eOpt32 r.opening ++
    eOpt32 r.deadline

/-- The run and the last result, whose presence byte stands alone when there is none (R178; log 42). -/
def tableLevelling (s : State) : List Byte :=
  runFields s.levelling.run ++ (match s.levelling.last with | none => e8 0 | some f => e8 1 ++ f.fields)

/-! ### Table 17 (R201) -/

/-- The CT filter; QUIET and HELD have no start time, and what a state does not have is sent as all-ones (R191, R192, R201;
log 50). -/
def filterFields : CtFilter → List Byte
  | .quiet => e8 0 ++ eAbsent 6
  | .touching t => e8 1 ++ e32 t ++ eAbsent 2
  | .held => e8 2 ++ eAbsent 6
  | .leaving t n => e8 3 ++ e32 t ++ e16 n

/-- The yield unit; each source is sent as a flag that is set for present (R191, R201; log 47). -/
def tableYield (s : State) : List Byte :=
  e8 s.yielding.state.code ++ eFlag s.yielding.pin ++ eFlag s.yielding.link ++ filterFields s.yielding.filter ++
  eOptRecord 5 (s.yielding.rejoin.map fun p => e8 p.segment ++ e16 p.event ++ e16 p.pos) ++ eOpt32 (rejoinTimeOf s) ++
  eFlag (awaiting s)

/-! ### The request (R212) -/

/-- The entry that a table number, two indices and a first item name; none where one is out of range (R212). -/
def tableFields (table i j first : Nat) (s : State) : Option (List Byte) :=
  match table with
  | 0 => if i ≤ 15 ∧ j ≤ 511 then some (tableEvent s (toFin 16 i) j) else none
  | 1 => if i ≤ 5 then some (tableAcoustic s (toFin 6 i)) else none
  | 2 => if i ≤ 3 then some (tableMic s (toFin 4 i) first) else none
  | 3 => some (tableOnsets s first)
  | 4 => some (tableFollower s)
  | 5 => some (tableCues s first)
  | 6 => some (tableFollowSettings s)
  | 7 => if i ≤ 15 then some (tableVoicing s (toFin 16 i)) else none
  | 8 => some (tableCursor s)
  | 9 => if j ≤ 255 then some (tableEntry s j) else none
  | 10 => some (tableQueue s)
  | 11 => if i ≤ 5 then some (tableDivision s (toFin 6 i) first) else none
  | 12 => if i ≤ 7 then some (tableRegistration s (toFin 8 i)) else none
  | 13 => some (tableDebounce s)
  | 14 => if i ≤ 5 then some (tableExpression s (toFin 6 i)) else none
  | 15 => if 3 ≤ i ∧ i ≤ 7 then some (tableCurve s (toFin 5 (i - 3))) else none
  | 16 => some (tableLevelling s)
  | 17 => some (tableYield s)
  | _ => none

/-- TABLE_READ (R212). -/
def doTableRead (b : List Byte) : Handler := fun s =>
  match tableFields (byteAt b 0) (byteAt b 1) (wordAt b 2) (byteAt b 4) s with
  | some fields => (s, ok fields)
  | none => (s, refuse .badField)

end Sys2Proof.Machine
end

