-- ==== Sys2Proof/Machine/CmdConsole.lean ====
section
/-! DEFINITION. The meanings of the commands of the Levelling Unit and the Console Yield Unit (chapters 10 and 11). -/

namespace Sys2Proof.Machine

/-- LEVEL (R179). -/
def execLevel (t : Time) (tag : Byte) (body : List Byte) (s : State) : Outcome :=
  request t ⟨0x17, tag, body⟩ true (lengthAllowed 0x17 body) (doLevel body) s

/-- QUIET_CHECK_DEADLINE (R185). -/
def execQuietCheckDeadline (t : Time) (s : State) : Outcome :=
  event t (levelDue fun r => r.phase == .quietCheck) (onRun failNoisy) s

/-- PIPE_HOLD_END (R183). -/
def execPipeHoldEnd (t : Time) (s : State) : Outcome :=
  event t (levelDue fun r => r.phase == .sounding && !r.listening) (onRun fun r => enterRelease r true) s

/-- LISTEN_DEADLINE (R183). -/
def execListenDeadline (t : Time) (s : State) : Outcome :=
  event t (levelDue fun r => r.phase == .sounding && r.listening) (onRun failNoSound) s

/-- RELEASE_END (R184, R186). -/
def execReleaseEnd (t : Time) (s : State) : Outcome := event t (levelDue fun r => r.phase == .release) (onRun endRelease) s

/-- SPACING_END (R184). -/
def execSpacingEnd (t : Time) (s : State) : Outcome :=
  event t (levelDue fun r => r.phase == .spacing) (onRun enterQuietCheck) s

/-- YIELD (R193). -/
def execYield (t : Time) (tag : Byte) (body : List Byte) (s : State) : Outcome :=
  request t ⟨0x18, tag, body⟩ true (lengthAllowed 0x18 body) doYield s

/-- RESUME (R193). -/
def execResume (t : Time) (tag : Byte) (body : List Byte) (s : State) : Outcome :=
  request t ⟨0x19, tag, body⟩ true (lengthAllowed 0x19 body) doResume s

/-- The CT line has a new level, which the filter watches while the part runs (R192). -/
def changeCt (active : Bool) (s : State) : State := setFilter (filterChange active s) { s with ct := active }

/-- CT_CHANGE: the line's new level; while RST is asserted the filter does not watch it (R192, R201). -/
def execCtChange (t : Time) (active : Bool) (s : State) : Outcome :=
  if s.rstHeld then .next { s with ct := active } else event t (fun s => s.ct != active) (changeCt active) s

/-- CT_TOUCH_HELD (R192, R194). -/
def execCtTouchHeld (t : Time) (s : State) : Outcome := event t touchDue (fun s => claim .pin (setFilter .held s)) s

/-- CT_RELEASE_DELAY_END (R192, R196, R197). -/
def execCtReleaseDelayEnd (t : Time) (s : State) : Outcome :=
  event t leavingDue (fun s => sourceAbsent .pin (setFilter .quiet s)) s

/-- REJOIN_TIME (R199). -/
def execRejoinTime (t : Time) (s : State) : Outcome := event t rejoinDue rejoined s

end Sys2Proof.Machine
end

