-- ==== Sys2Proof/Machine/CmdFollow.lean ====
section
/-! DEFINITION. The meanings of the commands of the Tempo Follower, the Acoustic Table and the Listening Front End (chapters
3, 4 and 5). -/

namespace Sys2Proof.Machine

/-- TEMPO (R101). -/
def execTempo (t : Time) (tag : Byte) (body : List Byte) (s : State) : Outcome :=
  request t ⟨0x0E, tag, body⟩ true (lengthAllowed 0x0E body) (doTempo body) s

/-- FOLLOW_SET (R100). -/
def execFollowSet (t : Time) (tag : Byte) (body : List Byte) (s : State) : Outcome :=
  request t ⟨0x0F, tag, body⟩ true (lengthAllowed 0x0F body) (doFollowSet body) s

/-- MIC_SET (R61). -/
def execMicSet (t : Time) (tag : Byte) (body : List Byte) (s : State) : Outcome :=
  request t ⟨0x10, tag, body⟩ true (lengthAllowed 0x10 body) (doMicSet body) s

/-- A reading is due: the counter has reached a multiple of 10000 whose reading has not been taken (R54). -/
def tempDue (s : State) : Bool := decide (s.now.toNat % 10000 = 0) && !s.marks.temp

/-- TEMP_READING (R54 to R58). -/
def execTempReading (t : Time) (r : BitVec 12) (s : State) : Outcome :=
  event t tempDue (fun s =>
    let s := { s with marks := { s.marks with temp := true } }
    afterLeads s (takeReading r s)) s

/-- A completed block of a microphone is one that its sampler can give now (R62; log 10). -/
def blockFits (m : MicNo) (first : Time) (samples : List (BitVec 12)) (s : State) : Bool :=
  (mic s m).settings.enable && samples.length == (mic s m).settings.averaging && blockOk s.now first samples &&
  blockStarts (mic s m) first && blockCompletes s.now first samples.length

/-- A completed block acts: the microphone's own state, then the Levelling Unit or the path of R66 (R62 to R72). -/
def takeBlock (m : MicNo) (first : Time) (samples : List (BitVec 12)) (s : State) : State :=
  let env := envelopeOf samples
  let x := mic s m
  let o := onsetOf s.now m env first x
  let s := setMic m (afterBlock s.now env first x) s
  if isRunMic s m then
    let s := onRun (quietValue (excessOf x env) first x.settings.fall) s
    o.elim s fun o => onRun (pipeOnset o.tObs) s
  else o.elim s fun o => routeOnset o s

/-- ENVELOPE_BLOCK (R62 to R72, R181 to R183). -/
def execEnvelopeBlock (t : Time) (m : MicNo) (first : Time) (samples : List (BitVec 12)) (s : State) : Outcome :=
  event t (blockFits m first samples) (takeBlock m first samples) s

/-- The last firing of a microphone has become stale (R45, R65). -/
def staleDue (m : MicNo) (s : State) : Bool := (mic s m).lastFiring.any (isStale s.now)

/-- TIME_STALE (R45, R65). -/
def execTimeStale (t : Time) (m : MicNo) (s : State) : Outcome :=
  event t (staleDue m) (fun s => setMic m { mic s m with lastFiring := none } s) s

/-- An onset is taken, with the map change it may make and what that brings about (R85, R52, R44). -/
def onsetAtOnce (s : State) : State :=
  let before := s
  let s := takeOnset (syncRamps s)
  if s.map = before.map then s else settle before (mapChanged s)

/-- ONSET_TAKEN (R85 to R95). -/
def execOnsetTaken (t : Time) (s : State) : Outcome := event t (fun s => s.front.onsets != []) onsetAtOnce s

/-- CUE_EXPIRY (R89). -/
def execCueExpiry (t : Time) (s : State) : Outcome := event t anyCueExpired expireCue s

/-- MATCHED_RECORD_REMOVAL (R84). -/
def execMatchedRecordRemoval (t : Time) (s : State) : Outcome :=
  event t (fun s => s.follower.cues.any (removalDue s)) removeMatched s

/-- PAUSE_START (R97). -/
def execPauseStart (t : Time) (s : State) : Outcome :=
  event t (fun s => (startingPause s).isSome) (fun s => settle s (actPauseStart s)) s

/-- PAUSE_END (R98). -/
def execPauseEnd (t : Time) (s : State) : Outcome := event t pauseEndDue (fun s => settle s (actPauseEnd s)) s

end Sys2Proof.Machine
end

