-- ==== Sys2Proof/Machine/CmdLink.lean ====
section
/-! DEFINITION. The meanings of the reset and Service Link commands (chapter 12). -/

namespace Sys2Proof.Machine

/-- RESET_ASSERT: every block at power-on reset, RST asserted; the CT line is the console's, and the queue of commands and
the count of choices are the model's own (R202; log 3). -/
def execResetAssert (s : State) : Outcome :=
  .next { State.reset with ct := s.ct, choices := s.choices, pending := s.pending }

/-- RESET_RELEASE: the rate pins are latched and the part starts; without an assertion before it nothing happens (R202). -/
def execResetRelease (rate1 rate0 : Bool) (s : State) : Outcome := .next (if s.rstHeld then release rate1 rate0 s else s)

/-- RXD_BYTE (R203). -/
def execRxdByte (t : Time) (b : Byte) (s : State) : Outcome := event t (fun _ => true) (receive b) s

/-- RECEIVER_BYTE (R204). -/
def execReceiverByte (t : Time) (s : State) : Outcome := event t receiverReady takeByte s

/-- FRAME_GAP (R204). -/
def execFrameGap (t : Time) (s : State) : Outcome := event t frameGapDue discardStalled s

/-- BAD_KIND: the first case of the handler (R206). -/
def execBadKind (t : Time) (kind tag : Byte) (body : List Byte) (s : State) : Outcome :=
  request t ⟨kind, tag, body⟩ (!isRequestKind kind) true (fun s => (s, refuse .badKind)) s

/-- TRANSMIT_MESSAGE (R208). -/
def execTransmitMessage (t : Time) (s : State) : Outcome := event t (fun s => (sendable s).isSome) sendMessage s

/-- TRANSMIT_BYTE_END (R202, R208). -/
def execTransmitByteEnd (t : Time) (s : State) : Outcome := event t (fun s => s.txen) byteSent s

/-- STATUS (R210). -/
def execStatus (t : Time) (tag : Byte) (body : List Byte) (s : State) : Outcome :=
  request t ⟨0x01, tag, body⟩ true (lengthAllowed 0x01 body) doStatus s

/-- COUNTERS (R211). -/
def execCounters (t : Time) (tag : Byte) (body : List Byte) (s : State) : Outcome :=
  request t ⟨0x02, tag, body⟩ true (lengthAllowed 0x02 body) doCounters s

/-- QUIET_RESET (R213). -/
def execQuietReset (t : Time) (tag : Byte) (body : List Byte) (s : State) : Outcome :=
  request t ⟨0x03, tag, body⟩ true (lengthAllowed 0x03 body) doQuietReset s

/-- TABLE_READ (R212). -/
def execTableRead (t : Time) (tag : Byte) (body : List Byte) (s : State) : Outcome :=
  request t ⟨0x1B, tag, body⟩ true (lengthAllowed 0x1B body) (doTableRead body) s

end Sys2Proof.Machine
end

