-- ==== Sys2Proof/Machine/CmdOrgan.lean ====
section
/-! DEFINITION. The meanings of the commands of the Key Expander, the Dispatch Queue, the Division Drivers and the Expression
Unit (chapters 6 to 9). -/

namespace Sys2Proof.Machine

/-- DIVISION_SET (R143). -/
def execDivisionSet (t : Time) (tag : Byte) (body : List Byte) (s : State) : Outcome :=
  request t ⟨0x11, tag, body⟩ true (lengthAllowed 0x11 body) (doDivisionSet body) s

/-- STOPS_SET (R144). -/
def execStopsSet (t : Time) (tag : Byte) (body : List Byte) (s : State) : Outcome :=
  request t ⟨0x12, tag, body⟩ true (lengthAllowed 0x12 body) (doStopsSet body) s

/-- REGISTRATION_SET (R145). -/
def execRegistrationSet (t : Time) (tag : Byte) (body : List Byte) (s : State) : Outcome :=
  request t ⟨0x13, tag, body⟩ true (lengthAllowed 0x13 body) (doRegistrationSet body) s

/-- VOICING_SET (R108). -/
def execVoicingSet (t : Time) (tag : Byte) (body : List Byte) (s : State) : Outcome :=
  request t ⟨0x14, tag, body⟩ true (lengthAllowed 0x14 body) (doVoicingSet body) s

/-- CURVE_SET (R168). -/
def execCurveSet (t : Time) (tag : Byte) (body : List Byte) (s : State) : Outcome :=
  request t ⟨0x15, tag, body⟩ true (lengthAllowed 0x15 body) (doCurveSet body) s

/-- EXPRESS NOW, with the forms outside the list that the request refuses (R172; log 7). -/
def execExpressNow (t : Time) (tag : Byte) (body : List Byte) (s : State) : Outcome :=
  request t ⟨0x16, tag, body⟩ (!isExpressNext body) (lengthAllowed 0x16 body) (doExpress body placeNow) s

/-- EXPRESS NEXT (R172). -/
def execExpressNext (t : Time) (tag : Byte) (body : List Byte) (s : State) : Outcome :=
  request t ⟨0x16, tag, body⟩ (isExpressNext body) (lengthAllowed 0x16 body) (doExpress body placeNext) s

/-- FAULT_CLEAR (R157). -/
def execFaultClear (t : Time) (tag : Byte) (body : List Byte) (s : State) : Outcome :=
  request t ⟨0x1A, tag, body⟩ true (lengthAllowed 0x1A body) (doFaultClear body) s

/-- The idle clock's tick is due: IDLE, at a multiple of 200 whose tick has not been taken (R170). -/
def idleTickDue (s : State) : Bool := s.plan.play == .idle && decide (s.now.toNat % 200 = 0) && !s.marks.idle

/-- One su of the idle clock, counted by every ramp (R170). -/
def idleTick (s : State) : State :=
  mapShutters (fun _ sh => settleShutter s.expression (riseShutter 1 sh)) { s with marks := { s.marks with idle := true } }

/-- IDLE_CLOCK_TICK (R170). -/
def execIdleClockTick (t : Time) (s : State) : Outcome := event t idleTickDue idleTick s

/-- RAMP_DELAY_END (R171). -/
def execRampDelayEnd (t : Time) (d : DivNo) (s : State) : Outcome := event t (rampDue RampPhase.isDelay d) (rampAct d) s

/-- RAMP_STEP (R171). -/
def execRampStep (t : Time) (d : DivNo) (s : State) : Outcome := event t (rampDue RampPhase.isRun d) (rampAct d) s

/-- RAMP_HOLD_END (R171). -/
def execRampHoldEnd (t : Time) (d : DivNo) (s : State) : Outcome := event t (rampDue RampPhase.isHold d) (rampAct d) s

/-- The event under the cursor is expanded, with what its map change brings about (R116, R96, R44). -/
def expandAtOnce (s : State) : State :=
  match expandable s with
  | some r => settle s (expand r (syncRamps s))
  | none => s

/-- EXPANSION (R114 to R122). -/
def execExpansion (t : Time) (s : State) : Outcome := event t (fun s => (expandable s).isSome) expandAtOnce s

/-- The first entry is acted on; where that retimes the queue, so is all that has come due (R131 to R135, R33). -/
def headAtOnce (s : State) : State := if headRetimes s then settle s (actOnHead s) else closeIfHeld (actOnHead s)

/-- ENTRY_FALLS_DUE (R131). -/
def execEntryFallsDue (t : Time) (s : State) : Outcome := event t entryDue headAtOnce s

/-- A division's stop change has reached its end (R152). -/
def stopChangeDue (d : DivNo) (s : State) : Bool := (changeEnd (div s d)).any fun t => atOrBefore t s.now

/-- A stop change ends: SETTLED, and a levelling run of the division goes on (R152, R180, R187). -/
def endStopChange (d : DivNo) (s : State) : State := levelChangeEnd d (setDiv d { div s d with stopState := .settled } s)

/-- STOP_CHANGE_END (R152). -/
def execStopChangeEnd (t : Time) (d : DivNo) (s : State) : Outcome := event t (stopChangeDue d) (endStopChange d) s

/-- A scan is due: the counter stands at a multiple of 10 whose scan has not been made (R154). -/
def scanDue (s : State) : Bool := decide (s.now.toNat % 10 = 0) && !s.marks.scan

/-- A scan of every coil: counts and fault states, then the FAULT notices, then a short on a levelling run's test key (R154
to R156, R189). -/
def scanCoils (r : CoilReadings) (s : State) : State :=
  let notices := faultNotices r s
  let s := scanAll r { s with marks := { s.marks with scan := true } }
  levelShorted (notices.foldl (fun s n => notice n s) s)

/-- COIL_SCAN (R154 to R156). -/
def execCoilScan (t : Time) (r : CoilReadings) (s : State) : Outcome := event t scanDue (scanCoils r) s

end Sys2Proof.Machine
end

