-- ==== Sys2Proof/Machine/CmdPlan.lean ====
section
/-! DEFINITION. The meanings of the tune, plan and segment commands (chapters 1 and 2). -/

namespace Sys2Proof.Machine

/-- TUNE_BEGIN (R4, R5). -/
def execTuneBegin (t : Time) (tag : Byte) (body : List Byte) (s : State) : Outcome :=
  request t ⟨0x04, tag, body⟩ true (lengthAllowed 0x04 body) (doTuneBegin body) s

/-- TUNE_DATA (R6 to R8). -/
def execTuneData (t : Time) (tag : Byte) (body : List Byte) (s : State) : Outcome :=
  request t ⟨0x05, tag, body⟩ true (lengthAllowed 0x05 body) (doTuneData body) s

/-- TUNE_END (R9 to R13). -/
def execTuneEnd (t : Time) (tag : Byte) (body : List Byte) (s : State) : Outcome :=
  request t ⟨0x06, tag, body⟩ true (lengthAllowed 0x06 body) (doTuneEnd body) s

/-- TUNE_ERASE (R14). -/
def execTuneErase (t : Time) (tag : Byte) (body : List Byte) (s : State) : Outcome :=
  request t ⟨0x07, tag, body⟩ true (lengthAllowed 0x07 body) (doTuneErase body) s

/-- TUNE_READ (R15). -/
def execTuneRead (t : Time) (tag : Byte) (body : List Byte) (s : State) : Outcome :=
  request t ⟨0x08, tag, body⟩ true (lengthAllowed 0x08 body) (doTuneRead body) s

/-- PLAN_SET (R20). -/
def execPlanSet (t : Time) (tag : Byte) (body : List Byte) (s : State) : Outcome :=
  request t ⟨0x09, tag, body⟩ true (lengthAllowed 0x09 body) (doPlanSet body) s

/-- PLAN_CANCEL (R22). -/
def execPlanCancel (t : Time) (tag : Byte) (body : List Byte) (s : State) : Outcome :=
  request t ⟨0x0A, tag, body⟩ true (lengthAllowed 0x0A body) doPlanCancel s

/-- PLAN_START NOW, with the forms outside the list that the request refuses (R23; log 7). -/
def execPlanStartNow (t : Time) (tag : Byte) (body : List Byte) (s : State) : Outcome :=
  request t ⟨0x0B, tag, body⟩ (!isPlanNext body) (lengthAllowed 0x0B body) (doPlanStartNow body) s

/-- PLAN_START NEXT (R23). -/
def execPlanStartNext (t : Time) (tag : Byte) (body : List Byte) (s : State) : Outcome :=
  request t ⟨0x0B, tag, body⟩ (isPlanNext body) (lengthAllowed 0x0B body) doPlanStartNext s

/-- STOP NOW, with the forms outside the list that the request refuses (R38; log 7). -/
def execStopNow (t : Time) (tag : Byte) (body : List Byte) (s : State) : Outcome :=
  request t ⟨0x0C, tag, body⟩ (!isStopLine body && !isStopVerse body) (lengthAllowed 0x0C body) (doStopNow body) s

/-- A STOP LINE or STOP VERSE with what its map change brings about (R39, R44). -/
def stopPartAtOnce (line : Bool) : Handler := fun s =>
  if s.plan.play = .idle ∨ s.plan.play = .closing then doStopPart line s
  else (settle s (doStopPart line s).1, (doStopPart line s).2)

/-- STOP LINE (R39). -/
def execStopLine (t : Time) (tag : Byte) (body : List Byte) (s : State) : Outcome :=
  request t ⟨0x0C, tag, body⟩ (isStopLine body) (lengthAllowed 0x0C body) (stopPartAtOnce true) s

/-- STOP VERSE (R39). -/
def execStopVerse (t : Time) (tag : Byte) (body : List Byte) (s : State) : Outcome :=
  request t ⟨0x0C, tag, body⟩ (isStopVerse body) (lengthAllowed 0x0C body) (stopPartAtOnce false) s

/-- A VERSES request with what its map change brings about (R41, R44). -/
def versesAtOnce (b : List Byte) : Handler := fun s =>
  if (doVerses b s).2.status = .ok then (settle s (doVerses b s).1, (doVerses b s).2) else doVerses b s

/-- VERSES (R41). -/
def execVerses (t : Time) (tag : Byte) (body : List Byte) (s : State) : Outcome :=
  request t ⟨0x0D, tag, body⟩ true (lengthAllowed 0x0D body) (versesAtOnce body) s

/-- SEGMENT_START (R31). -/
def execSegmentStart (t : Time) (s : State) : Outcome := event t segmentStartDue (fun s => settle s (startSegment s)) s

/-- SEGMENT_END (R32). -/
def execSegmentEnd (t : Time) (s : State) : Outcome := event t segmentEndDue (fun s => settle s (endSegment s)) s

/-- LINE_AHEAD (R36). -/
def execLineAhead (t : Time) (s : State) : Outcome := event t (fun s => dueLines s != []) sendNextLine s

/-- HYMN_CLOSE (R33). -/
def execHymnClose (t : Time) (s : State) : Outcome := event t closingHolds closeHymn s

end Sys2Proof.Machine
end

