-- ==== Sys2Proof/Machine/Dispatch.lean ====
section
/-! DEFINITION. The meaning of every command: one arm for each row of the table. -/

namespace Sys2Proof.Machine

def exec (i : Instr) (s : State) : Host.Outcome State Fault Refusal :=
  match i with
  | .resetAssert => Sys2Proof.Machine.execResetAssert s
  | .resetRelease rate1 rate0 => Sys2Proof.Machine.execResetRelease rate1 rate0 s
  | .rxdByte t b => Sys2Proof.Machine.execRxdByte t b s
  | .receiverByte t => Sys2Proof.Machine.execReceiverByte t s
  | .frameGap t => Sys2Proof.Machine.execFrameGap t s
  | .badKind t kind tag body => Sys2Proof.Machine.execBadKind t kind tag body s
  | .transmitMessage t => Sys2Proof.Machine.execTransmitMessage t s
  | .status t tag body => Sys2Proof.Machine.execStatus t tag body s
  | .counters t tag body => Sys2Proof.Machine.execCounters t tag body s
  | .quietReset t tag body => Sys2Proof.Machine.execQuietReset t tag body s
  | .tuneBegin t tag body => Sys2Proof.Machine.execTuneBegin t tag body s
  | .tuneData t tag body => Sys2Proof.Machine.execTuneData t tag body s
  | .tuneEnd t tag body => Sys2Proof.Machine.execTuneEnd t tag body s
  | .tuneErase t tag body => Sys2Proof.Machine.execTuneErase t tag body s
  | .tuneRead t tag body => Sys2Proof.Machine.execTuneRead t tag body s
  | .planSet t tag body => Sys2Proof.Machine.execPlanSet t tag body s
  | .planCancel t tag body => Sys2Proof.Machine.execPlanCancel t tag body s
  | .planStartNow t tag body => Sys2Proof.Machine.execPlanStartNow t tag body s
  | .planStartNext t tag body => Sys2Proof.Machine.execPlanStartNext t tag body s
  | .stopNow t tag body => Sys2Proof.Machine.execStopNow t tag body s
  | .stopLine t tag body => Sys2Proof.Machine.execStopLine t tag body s
  | .stopVerse t tag body => Sys2Proof.Machine.execStopVerse t tag body s
  | .verses t tag body => Sys2Proof.Machine.execVerses t tag body s
  | .tempo t tag body => Sys2Proof.Machine.execTempo t tag body s
  | .followSet t tag body => Sys2Proof.Machine.execFollowSet t tag body s
  | .micSet t tag body => Sys2Proof.Machine.execMicSet t tag body s
  | .divisionSet t tag body => Sys2Proof.Machine.execDivisionSet t tag body s
  | .stopsSet t tag body => Sys2Proof.Machine.execStopsSet t tag body s
  | .registrationSet t tag body => Sys2Proof.Machine.execRegistrationSet t tag body s
  | .voicingSet t tag body => Sys2Proof.Machine.execVoicingSet t tag body s
  | .curveSet t tag body => Sys2Proof.Machine.execCurveSet t tag body s
  | .expressNow t tag body => Sys2Proof.Machine.execExpressNow t tag body s
  | .expressNext t tag body => Sys2Proof.Machine.execExpressNext t tag body s
  | .level t tag body => Sys2Proof.Machine.execLevel t tag body s
  | .yield t tag body => Sys2Proof.Machine.execYield t tag body s
  | .resume t tag body => Sys2Proof.Machine.execResume t tag body s
  | .faultClear t tag body => Sys2Proof.Machine.execFaultClear t tag body s
  | .tableRead t tag body => Sys2Proof.Machine.execTableRead t tag body s
  | .tempReading t r => Sys2Proof.Machine.execTempReading t r s
  | .envelopeBlock t mic first samples => Sys2Proof.Machine.execEnvelopeBlock t mic first samples s
  | .onsetTaken t => Sys2Proof.Machine.execOnsetTaken t s
  | .cueExpiry t => Sys2Proof.Machine.execCueExpiry t s
  | .matchedRecordRemoval t => Sys2Proof.Machine.execMatchedRecordRemoval t s
  | .pauseStart t => Sys2Proof.Machine.execPauseStart t s
  | .pauseEnd t => Sys2Proof.Machine.execPauseEnd t s
  | .segmentStart t => Sys2Proof.Machine.execSegmentStart t s
  | .segmentEnd t => Sys2Proof.Machine.execSegmentEnd t s
  | .lineAhead t => Sys2Proof.Machine.execLineAhead t s
  | .hymnClose t => Sys2Proof.Machine.execHymnClose t s
  | .idleClockTick t => Sys2Proof.Machine.execIdleClockTick t s
  | .rampDelayEnd t d => Sys2Proof.Machine.execRampDelayEnd t d s
  | .rampStep t d => Sys2Proof.Machine.execRampStep t d s
  | .rampHoldEnd t d => Sys2Proof.Machine.execRampHoldEnd t d s
  | .expansion t => Sys2Proof.Machine.execExpansion t s
  | .entryFallsDue t => Sys2Proof.Machine.execEntryFallsDue t s
  | .stopChangeEnd t d => Sys2Proof.Machine.execStopChangeEnd t d s
  | .coilScan t readings => Sys2Proof.Machine.execCoilScan t readings s
  | .quietCheckDeadline t => Sys2Proof.Machine.execQuietCheckDeadline t s
  | .pipeHoldEnd t => Sys2Proof.Machine.execPipeHoldEnd t s
  | .listenDeadline t => Sys2Proof.Machine.execListenDeadline t s
  | .releaseEnd t => Sys2Proof.Machine.execReleaseEnd t s
  | .spacingEnd t => Sys2Proof.Machine.execSpacingEnd t s
  | .ctChange t active => Sys2Proof.Machine.execCtChange t active s
  | .ctTouchHeld t => Sys2Proof.Machine.execCtTouchHeld t s
  | .ctReleaseDelayEnd t => Sys2Proof.Machine.execCtReleaseDelayEnd t s
  | .rejoinTime t => Sys2Proof.Machine.execRejoinTime t s
  | .timeStale t mic => Sys2Proof.Machine.execTimeStale t mic s
  | .transmitByteEnd t => Sys2Proof.Machine.execTransmitByteEnd t s

end Sys2Proof.Machine
end

