-- ==== Sys2Proof/Machine/Idle.lean ====
section
/-! DEFINITION. What the part does of itself when no command waits (log 2): one of the events that are due now happens; when
none is, the time counter advances by one (R43). Bytes on RXD, the sending of bits on TXD, coil currents, samples, readings
and the pins come from outside and never arise here (log 27, log 28). -/

namespace Sys2Proof.Machine

/-- A command if a condition holds. -/
def dueIf (b : Bool) (i : Instr) : List Instr := if b then [i] else []

/-- The checked request that the handler takes now (R206). -/
def waitingRequest (s : State) : List Instr :=
  match s.link.waiting with
  | some f => dueIf (handlerFree s.link) (rowOf s.now f.kind f.tag f.body)
  | none => []

/-- The link's events that are due (R204, R208). -/
def dueLink (s : State) : List Instr :=
  waitingRequest s ++ dueIf (receiverReady s) (.receiverByte s.now) ++ dueIf (frameGapDue s) (.frameGap s.now) ++
  dueIf (sendable s).isSome (.transmitMessage s.now)

/-- The hymn's events that are due (R31 to R33, R36, R84, R85, R89, R97, R98, R114, R131). -/
def dueHymn (s : State) : List Instr :=
  dueIf (segmentStartDue s) (.segmentStart s.now) ++ dueIf (segmentEndDue s) (.segmentEnd s.now) ++
  dueIf (dueLines s != []) (.lineAhead s.now) ++ dueIf (closingHolds s) (.hymnClose s.now) ++
  dueIf (startingPause s).isSome (.pauseStart s.now) ++ dueIf (pauseEndDue s) (.pauseEnd s.now) ++
  dueIf (s.front.onsets != []) (.onsetTaken s.now) ++ dueIf (anyCueExpired s) (.cueExpiry s.now) ++
  dueIf (s.follower.cues.any (removalDue s)) (.matchedRecordRemoval s.now) ++
  dueIf (expandable s).isSome (.expansion s.now) ++ dueIf (entryDue s) (.entryFallsDue s.now)

/-- A division's events that are due (R152, R171). -/
def dueDivision (s : State) (d : DivNo) : List Instr :=
  dueIf (stopChangeDue d s) (.stopChangeEnd s.now d) ++ dueIf (rampDue RampPhase.isDelay d s) (.rampDelayEnd s.now d) ++
  dueIf (rampDue RampPhase.isRun d s) (.rampStep s.now d) ++ dueIf (rampDue RampPhase.isHold d s) (.rampHoldEnd s.now d)

/-- The run's events that are due (R181 to R185). -/
def dueLevel (s : State) : List Instr :=
  dueIf (levelDue (fun r => r.phase == .quietCheck) s) (.quietCheckDeadline s.now) ++
  dueIf (levelDue (fun r => r.phase == .sounding && !r.listening) s) (.pipeHoldEnd s.now) ++
  dueIf (levelDue (fun r => r.phase == .sounding && r.listening) s) (.listenDeadline s.now) ++
  dueIf (levelDue (fun r => r.phase == .release) s) (.releaseEnd s.now) ++
  dueIf (levelDue (fun r => r.phase == .spacing) s) (.spacingEnd s.now)

/-- The events of the yield unit, the idle clock and the stale marks that are due (R45, R170, R192, R199). -/
def dueOthers (s : State) : List Instr :=
  dueIf (touchDue s) (.ctTouchHeld s.now) ++ dueIf (leavingDue s) (.ctReleaseDelayEnd s.now) ++
  dueIf (rejoinDue s) (.rejoinTime s.now) ++ dueIf (idleTickDue s) (.idleClockTick s.now) ++
  (allFin 4).flatMap fun m => dueIf (staleDue m s) (.timeStale s.now m)

/-- Every event that the part brings about itself and that is due now. -/
def dueEvents (s : State) : List Instr :=
  dueLink s ++ dueHymn s ++ (allFin 6).flatMap (dueDivision s) ++ dueLevel s ++ dueOthers s

/-- The time counter advances by one (R43). -/
def tick (s : State) : State := { s with now := s.now + 1, marks := .fresh }

/-- One of several due events happens; the free value picks it (log 2). -/
def idleAmong (i : Instr) (rest : List Instr) (s : State) : Outcome :=
  match rest with
  | [] => exec i s
  | _ :: _ => exec ((i :: rest).getD (Config.pick s.choices % (i :: rest).length) i) (countChoice s)

/-- What the part does of itself (log 2). -/
def idle (s : State) : Outcome :=
  if s.rstHeld then .next s
  else match dueEvents s with
    | [] => .next (tick s)
    | i :: rest => idleAmong i rest s

/-- A command put at the front of the queue of commands. -/
def pushFront (i : Instr) (s : State) : State := { s with pending := i :: s.pending }

/-- The command at the front runs with the rest of the queue; on an empty queue the part acts of itself (log 2). -/
def stepOf (s : State) : Outcome :=
  match s.pending with
  | [] => idle s
  | i :: rest => exec i { s with pending := rest }

end Sys2Proof.Machine
end

