-- ==== Sys2Proof/Safety.lean ====
section
/-! DEFINITION. What statements about the part say of a state: that the part runs, that the handler takes a request now, what
a reply adds, and the invariants that every step keeps. -/

namespace Sys2Proof.Machine

/-- RST is released: the part runs (R202). -/
def Runs (s : State) : Prop := s.rstHeld = false

/-- The part runs and its handler takes the next checked frame at once: no reply waits and no checked frame waits (R206). -/
def Listens (s : State) : Prop := s.rstHeld = false ∧ s.link.waiting = none ∧ handlerFree s.link = true

/-- The state with a reply added to the outgoing list (R206, R208). -/
def answer (kind tag : Byte) (st : Status) (fields : List Byte) (s : State) : State :=
  { s with link := { s.link with outgoing := s.link.outgoing ++ [.reply kind tag st fields] } }

/-- The state with a notice added to the outgoing list (R208, R209). -/
def noticed (n : Notice) (s : State) : State :=
  { s with link := { s.link with outgoing := s.link.outgoing ++ [.notice n] } }

/-- The notice queue has room for so many more notices (R209). -/
def noticeRoom (n : Nat) (s : State) : Prop := noticeCount s.link + n ≤ Config.maxNotices

/-! ### Parts of the manual's tables -/

/-- The receiver's state after a byte that shows no gap, and whether LENGTH is counted, for every state but CHECK awaiting the
low byte (R204). -/
def receiverMoves (r : Receiver) (b : Byte) (u : Time) (r' : Receiver) (long : Bool) : Prop :=
  match r with
  | .hunt => long = false ∧ r' = if b = 0xA5 then .awaitLen u else .hunt
  | .awaitLen _ => (b.toNat ≤ 240 → long = false ∧ r' = .awaitKind u b.toNat) ∧ (241 ≤ b.toNat → long = true ∧ r' = .hunt)
  | .awaitKind _ n => long = false ∧ r' = .awaitTag u n b
  | .awaitTag _ n k => long = false ∧ r' = if n = 0 then .checkHigh u k b [] else .body u n k b []
  | .body _ n k g got =>
    long = false ∧ r' = if n ≤ got.length + 1 then .checkHigh u k g (got ++ [b]) else .body u n k g (got ++ [b])
  | .checkHigh _ k g got => long = false ∧ r' = .checkLow u k g got b
  | .checkLow _ _ _ _ _ => False

/-- The table numbers and index ranges of TABLE_READ (R212). -/
def tableInRange (table i j : Nat) : Bool :=
  match table with
  | 0 => decide (i ≤ 15) && decide (j ≤ 511)
  | 1 => decide (i ≤ 5)
  | 2 => decide (i ≤ 3)
  | 7 => decide (i ≤ 15)
  | 9 => decide (j ≤ 255)
  | 11 => decide (i ≤ 5)
  | 12 => decide (i ≤ 7)
  | 14 => decide (i ≤ 5)
  | 15 => decide (3 ≤ i) && decide (i ≤ 7)
  | n => decide (n ≤ 17)

/-- A slot is in use: the active plan names it, or the queued plan does (R16). -/
def InUse (s : State) (i : Fin 16) : Prop :=
  (∃ p, s.plan.active = some p ∧ p.slot = i) ∨ (s.plan.queued = true ∧ ∃ p, s.plan.staged = some p ∧ p.slot = i)

/-- The records that a slot reserves: the declared count of a LOADING or READY slot (R3). -/
def Reserves (x : Slot) (n : Nat) : Prop :=
  match x with
  | .empty => n = 0
  | .loading h _ => n = h.declared
  | .ready x => n = x.header.declared

/-- An event record at a place of a TUNE_DATA body fails (R7). -/
def eventFails (b : List Byte) (i : Nat) : Prop :=
  wordAt b (i + 2) = 0 ∨ 1536 < wordAt b (i + 2) ∨ 65535 < wordAt b i + wordAt b (i + 2) ∨
  (∃ v, v < 5 ∧ 128 ≤ byteAt b (i + 4 + v) ∧ byteAt b (i + 4 + v) ≤ 254) ∨ 16 ≤ byteAt b (i + 9) ∨
  32 ≤ byteAt b (i + 10) ∨ 32 ≤ byteAt b (i + 11)

/-- The event that a place of a TUNE_DATA body spells (01, 1.3; the layout of 12, 12.6; the flag bits are log 11). -/
def spellsEvent (b : List Byte) (i : Nat) (e : Event) : Prop :=
  e.pos = wordAt b i ∧ e.len = wordAt b (i + 2) ∧
  (∀ v : Voice, e.pitch.get v =
    if byteAt b (i + 4 + v.code) = 255 then none else some (byteAt b (i + 4 + v.code))) ∧
  e.voiceId.val = byteAt b (i + 9) ∧ e.cue = (byteAt b (i + 10)).testBit 0 ∧ e.fermata = (byteAt b (i + 10)).testBit 1 ∧
  e.breath = (byteAt b (i + 10)).testBit 2 ∧ e.lineEnd = (byteAt b (i + 10)).testBit 3 ∧
  e.amen = (byteAt b (i + 10)).testBit 4 ∧ ∀ v : Voice, e.tie.get v = (byteAt b (i + 11)).testBit v.code

/-- Every condition of a list holds. -/
def AllHold : List Prop → Prop
  | [] => True
  | p :: ps => p ∧ AllHold ps

/-- The condition at a place of a list is the first that fails (R207). -/
def FirstFails : List Prop → Nat → Prop
  | [], _ => False
  | p :: _, 0 => ¬p
  | p :: ps, n + 1 => p ∧ FirstFails ps n

/-- The lines formed from events whose first has an index and whose first line starts at a position: one for each LINE_END
event, running from the first event, or from the one after the LINE_END event before, through that event (R11, R29). -/
def LinesOf (es : List Event) (base start : Nat) (ls : List Line) : Prop :=
  ls.length = es.countP (·.lineEnd) ∧
  ∀ (k : Nat) (l : Line), ls[k]? = some l → ∃ (i j : Nat) (e f : Event), es[i]? = some e ∧ es[j]? = some f ∧ i ≤ j ∧
    f.lineEnd = true ∧ (es.take j).countP (·.lineEnd) = k ∧ (k = 0 → i = 0) ∧
    (∀ prev, ls[k - 1]? = some prev → 0 < k → base + i = prev.lastEvent + 1) ∧
    l = ⟨if k = 0 then start else e.pos, f.pos + f.len, base + i, base + j⟩

/-- The check of R10 with a code, COUNT 0 to AMEN_END 6, passes. -/
def tunePasses (h : TuneHeader) (es : List Event) (code : Nat) : Prop :=
  match code with
  | 0 => es.length = h.declared
  | 1 => ∀ (j : Nat) (e f : Event), es[j]? = some e → es[j + 1]? = some f → e.pos + e.len ≤ f.pos
  | 2 => (∃ e ∈ es, e.amen = false) ∧
      ∀ (j k : Nat) (e f : Event), j < k → es[j]? = some e → es[k]? = some f → e.amen = true → f.amen = true
  | 3 => ∀ e, (es.filter fun x => !x.amen).getLast? = some e → e.lineEnd = true
  | 4 => es.countP (fun x => !x.amen && x.lineEnd) ≤ 16 ∧ es.countP (fun x => x.amen && x.lineEnd) ≤ 16
  | 5 => ∃ e ∈ es, e.amen = false ∧ e.cue = true
  | _ => (∃ e ∈ es, e.amen = true) → ∀ e, es.getLast? = some e → e.lineEnd = true

/-- An index is that of the last non-Amen event. -/
def lastVerseEvent (es : List Event) (i : Nat) : Prop :=
  (∃ e, es[i]? = some e ∧ e.amen = false) ∧ ∀ k f, i < k → es[k]? = some f → f.amen = true

/-- An index is that of the seventeenth LINE_END event among those that satisfy a condition. -/
def seventeenthLine (p : Event → Bool) (es : List Event) (i : Nat) : Prop :=
  (∃ e, es[i]? = some e ∧ p e = true ∧ e.lineEnd = true) ∧ (es.take i).countP (fun x => p x && x.lineEnd) = 16

/-- The event index that the failing check with a code reports (R10). -/
def tuneReports (es : List Event) (code index : Nat) : Prop :=
  match code with
  | 0 => index = es.length
  | 1 => ∃ (i : Nat) (e f : Event), index = i + 1 ∧ es[i]? = some e ∧ es[i + 1]? = some f ∧ f.pos < e.pos + e.len ∧
      ∀ (j : Nat) (x y : Event), j < i → es[j]? = some x → es[j + 1]? = some y → x.pos + x.len ≤ y.pos
  | 2 => ((∀ e ∈ es, e.amen = true) → index = 0) ∧ ((∃ e ∈ es, e.amen = false) → ∀ strays : Nat → Prop,
      (∀ k, strays k = ((∃ f, es[k]? = some f ∧ f.amen = false) ∧ ∃ (j : Nat) (e : Event), j < k ∧ es[j]? = some e ∧
        e.amen = true)) → strays index ∧ ∀ k, k < index → ¬strays k)
  | 3 => lastVerseEvent es index
  | 4 => (16 < es.countP (fun x => !x.amen && x.lineEnd) → seventeenthLine (fun x => !x.amen) es index) ∧
      (es.countP (fun x => !x.amen && x.lineEnd) ≤ 16 → seventeenthLine (·.amen) es index)
  | 5 => lastVerseEvent es index
  | _ => index = es.length - 1

/-- The ranges of a ramp's fields at a place of a body, in body order (R169). -/
def rampRanges (b : List Byte) (i : Nat) : List Prop :=
  [byteAt b i ≤ 127 ∨ byteAt b i = 255, byteAt b (i + 1) ≤ 127, 1 ≤ byteAt b (i + 2) ∧ byteAt b (i + 2) ≤ 96,
   wordAt b (i + 3) ≤ 1536, wordAt b (i + 5) ≤ 1536, byteAt b (i + 7) ≤ 7]

/-- The ramp that a place of a body spells (R169; the layout of 12, 12.6). -/
def spellsRamp (b : List Byte) (i : Nat) (r : Ramp) : Prop :=
  r.fromStep = (if byteAt b i = 255 then none else some (byteAt b i)) ∧ r.toStep = byteAt b (i + 1) ∧
  r.stepLength = byteAt b (i + 2) ∧ r.delay = wordAt b (i + 3) ∧ r.hold = wordAt b (i + 5) ∧ r.curve.val = byteAt b (i + 7)

/-- The ranges of a verse record's fields at a place of a body, in body order; the fields of an absent ramp are not examined
(R20, R207). -/
def verseRanges (b : List Byte) (i : Nat) : List Prop :=
  [byteAt b i ≤ 7, byteAt b (i + 1) ≤ 31, byteAt b (i + 2) ≤ 15 ∨ byteAt b (i + 2) = 255, byteAt b (i + 3) ≤ 1,
   byteAt b (i + 4) ≤ 1] ++
  ((rampRanges b (i + 5)).map fun p => byteAt b (i + 4) = 1 → p) ++ [byteAt b (i + 13) ≤ 16]

/-- The verse record that a place of a body spells (02, 2.1; the layout of 12, 12.6). -/
def spellsVerse (b : List Byte) (i : Nat) (v : VerseRecord) : Prop :=
  v.registration.val = byteAt b i ∧ (∀ x : Voice, v.mask.get x = (byteAt b (i + 1)).testBit x.code) ∧
  v.override.map (·.val) = (if byteAt b (i + 2) = 255 then none else some (byteAt b (i + 2))) ∧
  v.follow = (if byteAt b (i + 3) = 0 then .follow else .lead) ∧
  (byteAt b (i + 4) = 0 → v.ramp = none) ∧ (byteAt b (i + 4) = 1 → ∃ r, v.ramp = some r ∧ spellsRamp b (i + 5) r) ∧
  v.restAfter = byteAt b (i + 13)

/-- The ranges of a plan's own fields, in body order (R20). -/
def planRanges (b : List Byte) : List Prop :=
  [byteAt b 0 ≤ 15, byteAt b 1 ≤ 3, byteAt b 2 ≤ 7, byteAt b 3 ≤ 31,
   (2000 ≤ wordAt b 4 ∧ wordAt b 4 ≤ 20000) ∨ wordAt b 4 = 65535, byteAt b 6 ≤ 8, 1 ≤ byteAt b 7 ∧ byteAt b 7 ≤ 12,
   byteAt b 8 ≤ 1, byteAt b 9 ≤ 7, byteAt b 10 ≤ 4, 8 ≤ byteAt b 11 ∧ byteAt b 11 ≤ 32, byteAt b 12 ≤ 24]

/-- The plan of n verse records that a body spells (02, 2.1; the layout of 12, 12.6). -/
def spellsPlan (b : List Byte) (n : Nat) (p : Plan) : Prop :=
  p.slot.val = byteAt b 0 ∧
  p.introKind = (match byteAt b 1 with | 0 => .none | 1 => .lastLine | 2 => .firstLast | _ => .whole) ∧
  p.introRegistration.val = byteAt b 2 ∧ (∀ x : Voice, p.introMask.get x = (byteAt b 3).testBit x.code) ∧
  p.introPeriod = (if wordAt b 4 = 65535 then none else some (wordAt b 4)) ∧ p.givingOut = byteAt b 6 ∧
  p.verseCount = byteAt b 7 ∧ p.amen = (byteAt b 8 == 1) ∧ p.amenRegistration.val = byteAt b 9 ∧ p.amenRest = byteAt b 10 ∧
  p.factor = byteAt b 11 ∧ p.breath = byteAt b 12 ∧ p.verses.length = n ∧
  ∀ (j : Nat) (v : VerseRecord), p.verses[j]? = some v → spellsVerse b (13 + 14 * j) v

/-- The stops that a registration set draws on a division: those it names that exist there (R145). -/
def drawnBy (s : State) (g : Fin 8) (d : DivNo) : StopSet := s.drivers.registrations[g][d] &&& existing (div s d)

/-- What a hymn's start makes of a state v, for the plan p and the tune x (R25, R113, R123). -/
def HymnBegun (p : Plan) (x : Tune) (v u : State) : Prop :=
  u.plan = { v.plan with
    active := some p, queued := false, order := runningOrder p x, play := .starting, startTime := some (v.now + 10000)
    clockBase := 0, clockShown := 0, linesSent := [], stopped := false } ∧
  u.map = { v.map with
    period := clampNat (p.introPeriod.getD x.header.default) x.header.minimum x.header.maximum } ∧
  u.follower = { v.follower with mode := .lead, credit := v.follower.settings.allowance, rejoinRun := 0 } ∧
  u.expander = { v.expander with cursor := u.expander.cursor, carried := .all none, firstDone := false } ∧
  (∀ g, (runningOrder p x).head? = some g →
    (u.expander.cursor = match x.events.findIdx? (inSegment g) with | some e => .at_ 0 e | none => .after 0) ∧
    ∀ d, div u d = if (div v d).present = true ∧ (div v d).drawn ≠ drawnBy v g.registration d
      then { div v d with
        drawn := drawnBy v g.registration d, stopState := .changing (v.now + BitVec.ofNat 32 (div v d).stopAction) }
      else div v d) ∧
  { u with
    plan := v.plan, map := v.map, follower := v.follower, expander := v.expander
    drivers := { u.drivers with divisions := v.drivers.divisions } } = v

/-- What the end of a hymn makes of a state a before its notices: IDLE, nothing queued, no ramp running, the follower OFF, the
cursor NONE, the running order empty, the active copy discarded (R24, R33, R138, R174). -/
def HymnGone (a w : State) : Prop :=
  w.plan = { a.plan with
    active := none, order := [], play := .idle, startTime := none, clockBase := 0, clockShown := 0, linesSent := []
    stopped := false } ∧
  w.map = { a.map with current := none, anchor := none, pauses := [] } ∧
  w.follower = { a.follower with
    mode := .off, credit := a.follower.settings.allowance, rejoinRun := 0, cues := [], lastPosted := none } ∧
  w.queue = [] ∧ w.expander = { a.expander with cursor := .none, carried := .all none, firstDone := false } ∧
  (∀ d, shutter w d = ⟨(shutter (syncRamps a) d).position, .idle, none, 0⟩) ∧
  { w with
    plan := a.plan, map := a.map, follower := a.follower, queue := a.queue, expander := a.expander
    expression := { w.expression with shutters := a.expression.shutters } } = a

/-- The HYMN_END notice of the hymn that plays in a state (R37). -/
def hymnEndOf (reason : HymnEndReason) (a : State) : Notice :=
  .hymnEnd reason ((activeTune a).elim 0 (·.header.label)) a.map.current ((currentSegment a).elim 0 (·.verse))

/-- A part that is REJOINING, or that awaits a rejoin point, becomes PLAYING_FREE with its YIELD released notice when the play
state becomes IDLE, after the HYMN_END also where it awaits a rejoin point (R197, R200; log 56). -/
def idleReturns (a w : State) : State :=
  if a.yielding.state = .rejoining ∨ (a.yielding.state = .yielded ∧ a.yielding.pin = false ∧ a.yielding.link = false)
  then notice (.yieldReleased a.now) { w with yielding := { w.yielding with state := .playingFree, rejoin := none } }
  else w

/-- What a cut at position e of segment c leaves of an entry, given the pairs whose KEY_ON it removes; of a later segment nothing,
also no KEY_OFF of an issued KEY_ON (R40; log 57). -/
def cutKeeps (c e : Nat) (gone : BitVec 16 → Bool) (x : Entry) : Option Entry :=
  match x.action with
  | .keyOn _ _ _ n _ => if gone n then none else some x
  | .keyOff d k v n f =>
    if gone n ∨ c < x.segment then none
    else some { x with
      action := .keyOff d k v n (f.filter fun m => !gone m), pos := if x.segment = c then min x.pos e else x.pos }
  | .stopSet _ _ => if x.segment < c then some x else none

/-- What a cut of the running order at position e of segment c drops from the other blocks; a cursor AT an event of c that goes
AFTER c is cleared (R40, R113; log 38). -/
structure CutDone (c e : Nat) (v u : State) : Prop where
  cues : u.follower = { v.follower with
    cues := v.follower.cues.filter fun x => decide (x.segment < c) || (x.segment == c && decide (x.pos ≤ e))
    lastPosted := v.follower.lastPosted.map fun g => min g c }
  pauses : u.map = { v.map with
    pauses := v.map.pauses.filter fun p => decide (p.segment < c) || (p.segment == c && decide (p.pos ≤ e)) }
  /-- a KEY_ON beyond the cut leaves with its KEY_OFF; every other KEY_OFF of the segments kept stays, moved to the cut where it
  lies beyond it, and a follow-on that names a removed KEY_ON is dropped; a STOP_SET for a change into a removed segment leaves -/
  queue : ∀ gone : BitVec 16 → Bool,
    (∀ n, gone n = v.queue.any fun y => y.action.onPair == some n && (decide (c < y.segment) ||
      (y.segment == c && decide (e ≤ y.pos)))) → u.queue = v.queue.filterMap (cutKeeps c e gone)
  cursorPast : ((∃ g i x, v.expander.cursor = .at_ g i ∧ (activeEvents v)[i]? = some x ∧ g = c ∧ e ≤ x.pos) ∨
      (∃ g i, v.expander.cursor = .at_ g i ∧ c < g) ∨ ∃ g, v.expander.cursor = .after g ∧ c < g) →
    u.expander = { v.expander with cursor := .after c, carried := .all none, firstDone := false }
  cursorBefore : ¬((∃ g i x, v.expander.cursor = .at_ g i ∧ (activeEvents v)[i]? = some x ∧ g = c ∧ e ≤ x.pos) ∨
      (∃ g i, v.expander.cursor = .at_ g i ∧ c < g) ∨ ∃ g, v.expander.cursor = .after g ∧ c < g) →
    u.expander = v.expander
  frame : { u with queue := v.queue, follower := v.follower, map := v.map, expander := v.expander } = v

/-- A part that is REJOINING at a point that has been cut away becomes PLAYING_FREE with its YIELD released notice (R200). -/
def rejoinLost (lost : RejoinPoint → Prop) (v u : State) : Prop :=
  ((∃ p, v.yielding.state = .rejoining ∧ v.yielding.rejoin = some p ∧ lost p) →
    u = notice (.yieldReleased v.now) { v with yielding := { v.yielding with state := .playingFree, rejoin := none } }) ∧
  (¬(∃ p, v.yielding.state = .rejoining ∧ v.yielding.rejoin = some p ∧ lost p) → u = v)

/-- Some lead of some division differs between two states (R58). -/
def leadsMoved (a u : State) : Prop := ∃ d, leadOn a d ≠ leadOn u d ∨ leadOff a d ≠ leadOff u d

/-- What becomes of a change u of a state a that may move a lead: where one moved, a retime and what falls due (R58). -/
def afterMove (a u w : State) : Prop := (¬leadsMoved a u → w = u) ∧ (leadsMoved a u → w = settle a (retime u))

/-- T_use after a change of the readings or the fallback: it takes the average, held in -100..400, when that differs by 5 or
more (R55). -/
def inUseAfter (history : List Int) (fallback inUse : Int) : Int :=
  let avg := clampInt (if history = [] then fallback else roundDiv history.sum history.length) (-100) 400
  if 5 ≤ (avg - inUse).natAbs then avg else inUse

/-- A division after the yield: no key held, no stop drawn, SETTLED, a CLEARED_PENDING key NORMAL with counts 0 (R158). -/
def handedOver (x y : Division) : Prop :=
  y = { x with drawn := 0, stopState := .settled, keys := y.keys } ∧
  ∀ k : KeyNo, y.keys[k] = if x.keys[k].fault = .clearedPending then ⟨0, .normal, 0, 0⟩ else { x.keys[k] with holders := 0 }

/-- The yield to a source, from a state v in which the source is already present: what each block gives up, then the notices
(R194, R138, R158, R175, R103, R190). -/
def YieldTaken (src : YieldSource) (v u : State) : Prop :=
  ∃ w : State, w.queue = [] ∧ (∀ d, handedOver (div v d) (div w d)) ∧
    (∀ d, shutter w d = ⟨(shutter (syncRamps v) d).position, .idle, none, 0⟩) ∧
    w.follower = { v.follower with cues := [], owed := false, lastPosted := none } ∧
    w.yielding = { v.yielding with state := .yielded, rejoin := none } ∧ w.levelling.run = none ∧
    { w with
      queue := v.queue, follower := v.follower, yielding := v.yielding, levelling := v.levelling
      plan := { w.plan with clockShown := v.plan.clockShown }
      drivers := { w.drivers with divisions := v.drivers.divisions }
      expression := { w.expression with shutters := v.expression.shutters } } = v ∧
    ∀ granted, granted = Notice.yieldGranted src v.yielding.state v.plan.play v.map.current (positionNow v) v.now →
    (∀ r, v.levelling.run = some r → r.phase ≠ .done → ∀ f,
      f = LevelDone.mk r.division r.stop r.key r.mic r.trials (.aborted .yield r.phase r.measured) →
      w.levelling.last = some f ∧ u = notice granted (notice (.levelDone f) w)) ∧
    ((∀ r, v.levelling.run = some r → r.phase = .done) → w.levelling.last = v.levelling.last ∧ u = notice granted w)

/-- The rejoin point at an event of a segment, where the tune has the event. -/
def rejoinPointAt (v : State) (seg event : Nat) : Option RejoinPoint :=
  ((activeEvents v)[event]?).map fun e => ⟨seg, event, e.pos⟩

/-- The candidates of R197 in their order: the first events of the lines of the current segment after the current line, then
the first event of the next segment. -/
def rejoinPoints (v : State) : List RejoinPoint :=
  (match v.map.current, currentSegment v, currentLine v with
    | some c, some g, some l =>
      ((segmentLines v g).filter fun m => decide (l.number < m.number)).filterMap fun m => rejoinPointAt v c m.line.firstEvent
    | _, _, _ => []) ++
  match nextIndex v, nextSegment v with
  | some n, some g => (((activeEvents v).findIdx? (inSegment g)).bind (rejoinPointAt v n)).toList
  | _, _ => []

/-- A candidate's time lies at or after the present plus the margin, 6690 tu and the largest stop-action time of the present
divisions, 6690 alone with none present (R197; log 22). -/
def farEnough (v : State) (q : RejoinPoint) : Prop :=
  ∃ (time : Time) (most : Nat), positionTime v q.segment q.pos false = some time ∧
    (∀ d, (div v d).present = true → (div v d).stopAction ≤ most) ∧
    (most = 0 ∨ ∃ d, (div v d).present = true ∧ (div v d).stopAction = most) ∧
    atOrBefore (v.now + BitVec.ofNat 32 (6690 + most)) time = true

/-- The last source is gone, from a state v in which it is already absent and the part still YIELDED: in IDLE the part is
released and a queued plan starts; else the candidates are tested in order, and the part enters REJOINING at the first that
lies far enough ahead, or goes on waiting (R196 to R198; log 22). -/
def SourcesGone (v u : State) : Prop :=
  (v.plan.play = .idle → ∀ w, w = notice (.yieldReleased v.now)
      { v with yielding := { v.yielding with state := .playingFree, rejoin := none } } →
    (v.plan.queued = false → u = w) ∧
    (∀ p x, v.plan.queued = true → v.plan.staged = some p → slot v p.slot = .ready x → HymnBegun p x w u)) ∧
  (v.plan.play ≠ .idle → (∀ q ∈ rejoinPoints v, ¬farEnough v q) → u = v) ∧
  (∀ before p after, v.plan.play ≠ .idle → rejoinPoints v = before ++ p :: after → (∀ q ∈ before, ¬farEnough v q) →
    farEnough v p →
    (∀ g, (if v.plan.play = .starting then segmentAt v 0 else currentSegment v) = some g →
      ∀ d, div u d = if (div v d).present = true
        then { div v d with
          drawn := drawnBy v g.registration d, stopState := .changing (v.now + BitVec.ofNat 32 (div v d).stopAction) }
        else div v d) ∧
    u.yielding = { v.yielding with state := .rejoining, rejoin := some p } ∧
    u.expander = { v.expander with cursor := .at_ p.segment p.event, carried := .all none, firstDone := false } ∧
    (u.follower.owed = true ↔ v.follower.owed = true ∨ (v.map.current = some p.segment ∧
      (∃ g, currentSegment v = some g ∧ g.follow = .follow) ∧ ∃ e, (activeEvents v)[p.event]? = some e ∧ e.cue = false)) ∧
    { u with
      drivers := { u.drivers with divisions := v.drivers.divisions }, yielding := v.yielding, expander := v.expander
      follower := { u.follower with owed := v.follower.owed } } = v)

/-- The closing conditions tested after a change of the yield state (R33): the hymn closes where they hold. -/
def closingTested (w u : State) : Prop :=
  (closingHolds w = false → u = w) ∧ (closingHolds w = true → u = closeHymn w)

/-- The window of a cue of a kind for a period and a follow window (R83). -/
def windowFor (win period : Nat) : CueKind → Nat
  | .normal => roundNat (win * period) 48
  | .reEntry => period / 2

/-- The cues after an onset at `tOn` matches one: its record is MATCHED until `tOn` plus twice its window, and leaves at once
where that time is not after the present (R84, R44). -/
def matchedCues (c : Cue) (tOn now : Time) (win period : Nat) (cs : List Cue) : List Cue :=
  let until_ := addTu tOn (2 * windowFor win period c.kind : Nat)
  if atOrBefore until_ now then cs.filter fun z => decide (z ≠ c)
  else cs.map fun z => if z = c then { c with state := .matched tOn until_ } else z

/-- A PENDING cue of the current segment (R83). -/
def IsAwaited (v : State) (c : Cue) : Prop := c.state = .pending ∧ v.map.current = some c.segment

/-- What a missed cue costs, from a state v in which the cue has left the list and MISSED is not yet raised (R88, R89, R91):
in FOLLOW a NORMAL cue takes one of the credit, and the last of it turns the mode STEADY with a FOLLOW_STATE notice; in STEADY
the rejoin run becomes 0; nothing else changes. -/
def MissCounted (c : Cue) (v u : State) : Prop :=
  ∀ w, w = { v with counters := { v.counters with missed := bumpBy 1 v.counters.missed } } →
    (v.follower.mode = .follow → c.kind = .normal → 2 ≤ v.follower.credit →
      u = { w with follower := { v.follower with credit := v.follower.credit - 1 } }) ∧
    (v.follower.mode = .follow → c.kind = .normal → v.follower.credit ≤ 1 →
      u = notice (.followState .steady (v.map.current.getD 0) ((currentSegment v).elim 0 (·.verse)) c.pos v.now v.map.period 0)
        { w with follower := { v.follower with mode := .steady, credit := 0, rejoinRun := 0 } }) ∧
    (v.follower.mode = .steady → u = { w with follower := { v.follower with rejoinRun := 0 } }) ∧
    (v.follower.mode ≠ .steady → (v.follower.mode = .follow → c.kind = .reEntry) → u = w)

/-- A match of an onset at `tOn`, with error e, to the cue c is applied to the map of a state v (R93 to R95): the period P',
the new anchor, the PLANNED pauses before it gone, the last applied match, and the record MATCHED until `tOn` plus twice its
window at P', or gone at once. -/
def MatchApplied (c : Cue) (tOn : Time) (e : Int) (v u : State) : Prop :=
  ∃ (p : Nat) (step : Int),
    (c.kind = .reEntry → p = v.map.period ∧ step = clampAbs e (v.map.period / 2)) ∧
    (c.kind = .normal → step = clampAbs (roundDiv (e * v.follower.settings.phaseGain) 16) (v.map.period / 4) ∧
      ∀ change : Int,
        (∀ last, v.follower.lastMatch = some last → last < c.pos → c.pos ≤ last + 384 →
          change = clampAbs (roundDiv (e * 48 * v.follower.settings.periodGain) (256 * (c.pos - last))) (v.map.period / 16)) →
        ((∀ last, v.follower.lastMatch = some last → c.pos ≤ last ∨ last + 384 < c.pos) → change = 0) →
        ∀ x, activeTune v = some x → p = clampNat (v.map.period + change).toNat x.header.minimum x.header.maximum) ∧
    u = { v with
      map := { v.map with
        anchor := some ⟨addTu (addTu tOn (-e)) step, c.pos⟩
        period := p
        pauses := v.map.pauses.filter fun z => z.isRunning || !(some z.segment == v.map.current && decide (z.pos < c.pos)) }
      follower := { v.follower with
        lastMatch := some c.pos
        cues := matchedCues c tOn v.now v.follower.settings.win p v.follower.cues } }

/-- A match acts as the mode gives, from a state v in which the cues before it have been passed over (R91, R92): in FOLLOW it
is applied and raises the credit, not above A; in STEADY it counts toward the rejoin count and marks the cue, and the one that
reaches the count rejoins with a FOLLOW_STATE notice and is then applied. -/
def MatchTaken (c : Cue) (tOn : Time) (e : Int) (v u : State) : Prop :=
  (v.follower.mode = .follow → ∃ w, MatchApplied c tOn e v w ∧
    u = { w with follower := { w.follower with
      credit := min (v.follower.credit + 1) v.follower.settings.allowance } }) ∧
  (v.follower.mode = .steady → v.follower.rejoinRun + 1 < v.follower.settings.rejoinCount →
    u = { v with follower := { v.follower with
      rejoinRun := v.follower.rejoinRun + 1
      cues := matchedCues c tOn v.now v.follower.settings.win v.map.period v.follower.cues } }) ∧
  (v.follower.mode = .steady → v.follower.settings.rejoinCount ≤ v.follower.rejoinRun + 1 →
    MatchApplied c tOn e (notice (.followState .follow (v.map.current.getD 0) ((currentSegment v).elim 0 (·.verse)) c.pos v.now
      v.map.period v.follower.settings.allowance)
      { v with follower := { v.follower with
        mode := .follow, credit := v.follower.settings.allowance, rejoinRun := v.follower.settings.rejoinCount } }) u)

/-- The rejoin run after a rejoin is read by nothing before it is next set; the model leaves it at the count. A map change
takes effect at once where the map has changed (R52, R44). -/
def mapMoved (a u : State) : State := if u.map = a.map then u else settle a (mapChanged u)

/-- The cursor at the start of segment i, from a state v. A cursor AT a segment before i, or AFTER one before i - 1, goes to the
start of i (row 4 of R113); then a cursor AFTER a segment whose following one exists and is the current or the next goes to the
start of that one, the segment i or a later one (row 3); any other stays. The start of a segment is its first event, or AFTER
it where it has none; going there empties the carried voices and clears the first-expansion flag. -/
def CursorStarted (i : Nat) (v u : State) : Prop :=
  ∃ (start : Nat → Cursor) (fresh : Cursor → Expander) (m : Expander),
    (∀ k, (∀ g e, segmentAt v k = some g → firstEventOf v g = some e → start k = .at_ k e) ∧
      ((∀ g e, segmentAt v k = some g → firstEventOf v g ≠ some e) → start k = .after k)) ∧
    (∀ c, fresh c = { v.expander with cursor := c, carried := .all none, firstDone := false }) ∧
    (∀ behind : Prop,
      behind = ((∃ g e, v.expander.cursor = .at_ g e ∧ g < i) ∨ ∃ g, v.expander.cursor = .after g ∧ g + 1 < i) →
      (behind → m = fresh (start i)) ∧ (¬behind → m = v.expander)) ∧
    (∀ further : Nat → Prop, (∀ g, further g ↔ m.cursor = .after g ∧ segmentAt v (g + 1) ≠ none ∧
        (v.map.current = some (g + 1) ∨ nextIndex v = some (g + 1))) →
      (∀ g, further g → u.expander = fresh (start (g + 1))) ∧ ((∀ g, ¬further g) → u.expander = m)) ∧
    { u with expander := v.expander } = v

/-- A ramp in RUN at a step: it stands there with count 0, or has reached its to step and HOLDs, or, with a hold of 0, has
ended (R171). -/
def RunsAt (r : Ramp) (st uncounted : Nat) (before after : Shutter) (position : Nat) : Prop :=
  (st ≠ r.toStep → after = ⟨position, .active r (.run st) 0, before.queued, uncounted⟩) ∧
  (st = r.toStep → 0 < r.hold → after = ⟨position, .active r .hold 0, before.queued, uncounted⟩) ∧
  (st = r.toStep → r.hold = 0 → before.queued = none → after = ⟨position, .idle, none, 0⟩)

/-- A queued ramp moves up at a position, as the running one ends, and counts the su left of the same rise (R171): it stands in
DELAY, or, with a delay of 0, is at once in RUN at its start step, or past it. -/
def MovesUp (x : Expression) (q : Ramp) (position left : Nat) (after : Shutter) : Prop :=
  (0 < q.delay → after = ⟨position, .active q .delay 0, none, left⟩) ∧
  (q.delay = 0 → 0 < q.stepLength → ∀ st, st = q.fromStep.getD (nearestStep x q.curve position) →
    RunsAt q st left ⟨position, .idle, none, 0⟩ after (curveAt x q.curve st))

/-- A ramp comes to a step of its RUN: it stands there, or HOLDs, or, with a hold of 0, has ended and left the slot IDLE or to the
queued ramp (R171). -/
def ComesTo (x : Expression) (r : Ramp) (st left : Nat) (before after : Shutter) : Prop :=
  RunsAt r st left before after (curveAt x r.curve st) ∧
  (st = r.toStep → r.hold = 0 → ∀ q, before.queued = some q → MovesUp x q (curveAt x r.curve st) left after)

/-- The next transition of an active ramp, from a shutter whose su up to it are counted, `left` of them staying (R171): DELAY
passes to RUN at the start step, RUN moves one step toward the to step, HOLD ends, and a queued ramp moves up. -/
def RampMoves (x : Expression) (r : Ramp) (phase : RampPhase) (left : Nat) (before after : Shutter) : Prop :=
  match phase with
  | .delay => ∀ st, st = r.fromStep.getD (nearestStep x r.curve before.position) → ComesTo x r st left before after
  | .run step => ∀ st, st = (if step < r.toStep then step + 1 else step - 1) → ComesTo x r st left before after
  | .hold => (before.queued = none → after = ⟨before.position, .idle, none, 0⟩) ∧
      (∀ q, before.queued = some q → MovesUp x q before.position left after)

/-- The su that a ramp counts before it leaves its state or its step (R171). -/
def rampCount (r : Ramp) : RampPhase → Nat
  | .delay => r.delay
  | .run _ => r.stepLength
  | .hold => r.hold

/-- A levelling run r enters DONE with an outcome, from a state v: the LEVEL_DONE notice with its fields kept as the last
result, the measured values of a NOISY or NO_SOUND run then discarded, those of any other kept, and the stop change back to the
saved stops; DONE has no phase deadline, and the run's other fields stay as they stood (R185, R187 to R189; log 43, log 45,
log 49, log 54). -/
def RunDone (r : LevelRun) (o : LevelOutcome) (v u : State) : Prop :=
  ∃ f, f = LevelDone.mk r.division r.stop r.key r.mic r.trials o ∧
    u = notice (.levelDone f) { v with
      levelling := {
        run := some { r with
          phase := .done, listening := false, deadline := none
          measured := match o with
            | .noisy _ _ => []
            | .noSound _ _ => []
            | .measured _ _ _ _ _ _ => r.measured
            | .aborted _ _ _ => r.measured }
        last := some f }
      drivers := { v.drivers with divisions := v.drivers.divisions.set r.division { div v r.division with
        drawn := r.saved &&& existing (div v r.division)
        stopState := .changing (v.now + BitVec.ofNat 32 (div v r.division).stopAction) } } }

/-- A completed block of n samples is one that the microphone's sampler can give now: the first after the block before, or a
first block from the time at which it begins, the last sample one or two tu short of the block's end (R62; log 10). -/
def blockInTurn (x : Mic) (now first : Time) (n : Nat) : Prop :=
  (x.fresh = false → first = x.blockFrom) ∧
  (x.fresh = true → 0 ≤ diff first x.blockFrom ∧ diff first x.blockFrom ≤ 2) ∧
  (diff now first = (n * 5 / 4 : Nat) - 2 ∨ diff now first = (n * 5 / 4 : Nat) - 1)

/-- The detector of a microphone x makes an onset of a value env at the time `first`: it is ARMED, the excess over the settled
floor reaches the rise threshold, and the minimum gap since the last firing has passed, or that firing is stale (R64, R65). -/
def MakesOnset (x : Mic) (now first : Time) (env : Nat) : Prop :=
  ∃ f, x.floor = some f ∧ x.fired = false ∧ f + x.settings.rise ≤ env ∧
    ∀ last, x.lastFiring = some last → 2 ^ 30 ≤ diff now last ∨ x.settings.minimumGap ≤ diff first last

/-- The floor, the detector and the last firing of a microphone, from x to y, after a value env at the time `first` (R63 to
R65): an unsettled floor takes the value and nothing is examined; else a FIRED detector re-arms at the fall threshold, an ARMED
one fires at the rise threshold and records the time where it makes an onset, and the floor then takes the value in. -/
def Heard (x : Mic) (now first : Time) (env : Nat) (y : Mic) : Prop :=
  (x.floor = none → y.floor = some env ∧ y.fired = x.fired ∧ y.lastFiring = x.lastFiring) ∧
  ∀ f, x.floor = some f →
    y.floor = some (if env < f then env else f + (env - f) / 2 ^ x.settings.floorShift) ∧
    (x.fired = true → (y.fired = true ↔ f + x.settings.fall < env)) ∧
    (x.fired = false → (y.fired = true ↔ f + x.settings.rise ≤ env)) ∧
    (MakesOnset x now first env → y.lastFiring = some first) ∧
    (¬MakesOnset x now first env → y.lastFiring = x.lastFiring)

/-- The microphones after a valve of a division opens: each enabled GATE microphone has the window of its arrival entered into
its list (R68, R69). -/
def gatesOpened (d : DivNo) (v : State) (m : MicNo) : Mic :=
  let arrival := v.now + BitVec.ofNat 32 ((div v d).speech + travel v (div v d).micDistance[m])
  let w : Window := ⟨addTu arrival (-20), addTu arrival (mic v m).settings.gateLength⟩
  if (mic v m).settings.enable = true ∧ (mic v m).settings.policy = .gate then
    { mic v m with gates := enterWindow w (mic v m).gates }
  else mic v m

/-- The state with one key record replaced. -/
def withKey (d : DivNo) (k : KeyNo) (x : KeyRecord) (v : State) : State :=
  { v with drivers := { v.drivers with
    divisions := v.drivers.divisions.set d { div v d with keys := (div v d).keys.set k x } } }

/-! ### What TABLE_READ reads -/

/-- A TABLE_READ of a table, two indices and a first item answers OK with these fields and changes nothing else (R212). -/
def tableGives (t : Time) (tag : Byte) (s : State) (table i j first : Nat) (fields : List Byte) : Prop :=
  exec (.tableRead t tag (e8 table ++ e8 i ++ e16 j ++ e8 first)) s = .next (answer 0x1B tag .ok fields (arrive t s))

/-- So many bytes of an absent value: all-ones (R207). -/
def allOnes (n : Nat) : List Byte := List.replicate n 0xFF#8

/-- Entries of the tables, from the state a when the command comes, with any second index and first item where the entry does
not read them (R212; log 12, log 15, log 42, log 46, log 47, log 50). -/
structure TablesRead (t : Time) (tag : Byte) (s : State) : Prop where
  /-- an event of a slot, or its absence (R15; the flag bits are log 11) -/
  event : ∀ (i : Fin 16) (n f : Nat) (es : List Event), n ≤ 511 → f ≤ 255 →
    ((slot s i = .empty ∧ es = []) ∨ (∃ h, slot s i = .loading h es) ∨ ∃ x, slot s i = .ready x ∧ x.events = es) →
    (es[n]? = none → tableGives t tag s 0 i.val n f (e8 0 ++ allOnes 12)) ∧
    ∀ e, es[n]? = some e → tableGives t tag s 0 i.val n f (e8 1 ++ e16 e.pos ++ e16 e.len ++
      ([Voice.S, .A, .T, .B, .D].flatMap fun v => match e.pitch.get v with | some p => e8 p | none => allOnes 1) ++
      e8 e.voiceId.val ++ e8 ((if e.cue then 1 else 0) + (if e.fermata then 2 else 0) + (if e.breath then 4 else 0) +
        (if e.lineEnd then 8 else 0) + (if e.amen then 16 else 0)) ++
      e8 ((if e.tie.s then 1 else 0) + (if e.tie.a then 2 else 0) + (if e.tie.t then 4 else 0) + (if e.tie.b then 8 else 0) +
        (if e.tie.d then 16 else 0)))
  /-- a disabled microphone: its settings and the fallback temperature, the rest absent and the gate list empty (R75; log 36) -/
  microphone : ∀ (m : MicNo) (j f : Nat) x, j ≤ 65535 → f ≤ 255 → x = (mic s m).settings → x.enable = false →
    tableGives t tag s 2 m.val j f (e8 0 ++ e16 x.choirDistance ++ e8 x.averaging ++ e16 x.rise ++ e16 x.fall ++
      e16 x.minimumGap ++ e8 x.floorShift ++ e8 (match x.policy with | .open_ => 0 | .gate => 1) ++ e16 x.gateLength ++
      e16i s.front.fallback ++ allOnes 13 ++ e8 0)
  /-- the onset queue: its length and the onsets from the first item on, as many whole ones of 7 bytes as fit 238 (R75, R212) -/
  onsets : ∀ i j f : Nat, i ≤ 255 → j ≤ 65535 → f ≤ 255 → tableGives t tag s 3 i j f (e8 s.front.onsets.length ++
    ((s.front.onsets.drop f).take 34).flatMap fun o => e32 o.tObs ++ e8 o.mic.val ++ e16 o.strength)
  /-- the expansion cursor, the carried voices as the mask of their subset and then five pitches, and the first-expansion flag
  (R112, R207; log 46) -/
  cursor : ∀ i j f : Nat, i ≤ 255 → j ≤ 65535 → f ≤ 255 → ∀ c, c = s.expander.carried → tableGives t tag s 8 i j f
    ((match s.expander.cursor with
      | .none => e8 0 ++ allOnes 3
      | .at_ g e => e8 1 ++ e8 g ++ e16 e
      | .after g => e8 2 ++ e8 g ++ allOnes 2) ++
      e8 ((if c.s.isSome then 1 else 0) + (if c.a.isSome then 2 else 0) + (if c.t.isSome then 4 else 0) +
        (if c.b.isSome then 8 else 0) + (if c.d.isSome then 16 else 0)) ++
      ([Voice.S, .A, .T, .B, .D].flatMap fun v => match c.get v with | some p => e8 p | none => allOnes 1) ++
      e8 (if s.expander.firstDone then 1 else 0))
  /-- a place of the queue, or its absence (R140, R125) -/
  entry : ∀ i n f : Nat, i ≤ 255 → n ≤ 255 → f ≤ 255 →
    (s.queue[n]? = none → tableGives t tag s 9 i n f (e8 0 ++ allOnes 22)) ∧
    ∀ x, s.queue[n]? = some x →
      (∀ d k v m nb, x.action = .keyOn d k v m nb → tableGives t tag s 9 i n f (e8 1 ++ e8 0 ++ e8 d.val ++ e8 k.val ++
        e8 v.code ++ e16 m.toNat ++ e8 x.segment ++ e16 x.pos ++ e8 0 ++ allOnes 2 ++
        (match nb with | some u => e32 u | none => allOnes 4) ++ allOnes 2 ++ e32 x.issue)) ∧
      (∀ d k v m l, x.action = .keyOff d k v m l → tableGives t tag s 9 i n f (e8 1 ++ e8 1 ++ e8 d.val ++ e8 k.val ++
        e8 v.code ++ e16 m.toNat ++ e8 x.segment ++ e16 x.pos ++ e8 1 ++
        (match l with | some u => e16 u.toNat | none => allOnes 2) ++ allOnes 6 ++ e32 x.issue)) ∧
      (∀ d r, x.action = .stopSet d r → tableGives t tag s 9 i n f (e8 1 ++ e8 2 ++ e8 d.val ++ allOnes 4 ++
        e8 x.segment ++ e16 x.pos ++ e8 1 ++ allOnes 6 ++ e16 r.toNat ++ e32 x.issue))
  /-- a registration set, and the debounce with its two counters (R162) -/
  registration : ∀ (g : Fin 8) (j f : Nat), j ≤ 65535 → f ≤ 255 → tableGives t tag s 12 g.val j f
    ([(0 : DivNo), 1, 2, 3, 4, 5].flatMap fun d => e16 (s.drivers.registrations[g][d]).toNat)
  debounce : ∀ i j f : Nat, i ≤ 255 → j ≤ 65535 → f ≤ 255 → tableGives t tag s 13 i j f
    (e8 s.drivers.debounce ++ e16 s.counters.shed.toNat ++ e16 s.counters.forced.toNat)
  /-- a shutter whose slots are empty: the ramp fields, the step and the count absent, the state IDLE (R176; log 42) -/
  shutterAtRest : ∀ (d : DivNo) (j f : Nat), j ≤ 65535 → f ≤ 255 → (shutter s d).running = .idle → (shutter s d).queued = none →
    tableGives t tag s 14 d.val j f (e8 (shutter s d).position ++
      e8 (if (div s d).present = true ∧ (div s d).enclosed = true ∧ s.yielding.state ≠ .yielded then 1 else 0) ++
      allOnes 8 ++ e8 0 ++ allOnes 3 ++ e8 0 ++ allOnes 8)
  /-- the yield unit, the rejoin point as an optional record with its time on the map (R201) -/
  yielding : ∀ i j f : Nat, i ≤ 255 → j ≤ 65535 → f ≤ 255 → ∀ y, y = s.yielding → tableGives t tag s 17 i j f
    (e8 y.state.code ++ e8 (if y.pin then 1 else 0) ++ e8 (if y.link then 1 else 0) ++
      (match y.filter with
        | .quiet => e8 0 ++ allOnes 6
        | .touching u => e8 1 ++ e32 u ++ allOnes 2
        | .held => e8 2 ++ allOnes 6
        | .leaving u n => e8 3 ++ e32 u ++ e16 n) ++
      (match y.rejoin with
        | none => e8 0 ++ allOnes 5
        | some p => e8 1 ++ e8 p.segment ++ e16 p.event ++ e16 p.pos) ++
      (match y.state, y.rejoin with
        | .rejoining, some p => (match positionTime (arrive t s) p.segment p.pos false with
            | some u => e32 u
            | none => allOnes 4)
        | _, _ => allOnes 4) ++
      e8 (if y.state = .yielded ∧ y.pin = false ∧ y.link = false then 1 else 0))

/-! ### What an expansion writes -/

/-- The key that a raw key folds to in a compass (R110). -/
def foldsTo (compass : Nat) (raw : Int) (k : Nat) : Prop :=
  ∃ m : Nat, ((0 ≤ raw ∧ raw = m) ∨ (raw < 0 ∧ m < 12 ∧ ∃ j : Nat, raw + 12 * j = m)) ∧
    (m < compass → k = m) ∧
    (compass ≤ m → 12 ≤ compass → k < compass ∧ compass ≤ k + 12 ∧ ∃ j : Nat, m = k + 12 * j) ∧
    (compass ≤ m → compass < 12 → k = compass - 1)

/-- A voice is tied forward from an event of a segment into the one after it (R118). -/
def tiedForward (g : Segment) (v : Voice) (e f : Event) : Prop :=
  g.mask.get v = true ∧ (e.pitch.get v).isSome = true ∧ e.tie.get v = true ∧ g.sFrom ≤ f.pos ∧ f.pos < g.sTo ∧
  f.pitch.get v = e.pitch.get v

/-- The last event of a voice's chain of ties from the first of some events (R118). -/
def chainEnds (g : Segment) (v : Voice) (es : List Event) (l : Event) : Prop :=
  ∃ n : Nat, es[n]? = some l ∧
    (∀ (i : Nat) (x y : Event), i < n → es[i]? = some x → es[i + 1]? = some y → tiedForward g v x y) ∧
    ∀ y, es[n + 1]? = some y → ¬tiedForward g v l y

/-- The position of the KEY_OFF of a note whose chain ends at an event, for a fermata factor and a breath length (R119). -/
def releasePosition (factor breath : Nat) (l : Event) : Nat :=
  if l.breath = true ∧ 0 < breath ∧ ¬(l.fermata = true ∧ 8 < factor) then max (l.pos + l.len - breath) (l.pos + 1)
  else l.pos + l.len

/-- Pair numbers are taken in order from a counter, skipping those in use, and leave the counter (R117). -/
def pairsTaken (used : BitVec 16 → Prop) : BitVec 16 → List (BitVec 16) → BitVec 16 → Prop
  | c, [], c' => c' = c
  | c, n :: ns, c' => ¬used n ∧ (∀ j : Nat, j < (n - c).toNat → used (c + BitVec.ofNat 16 j)) ∧ pairsTaken used (n + 1) ns c'

/-- The stops requested of a division: those of its queued STOP_SET of the greatest segment, the last in the queue of several,
else the drawn ones (R122; log 31). -/
def requestedOf (v : State) (d : DivNo) (r : StopSet) : Prop :=
  ((∀ y ∈ v.queue, ∀ x, y.action ≠ .stopSet d x) → r = (div v d).drawn) ∧
  ∀ before y after x, v.queue = before ++ y :: after → y.action = .stopSet d x →
    (∀ z ∈ before, (∃ x', z.action = .stopSet d x') → z.segment ≤ y.segment) →
    (∀ z ∈ after, (∃ x', z.action = .stopSet d x') → z.segment < y.segment) → r = x

/-- An entry lies before another in running-order order (R120). -/
def liesBefore (x y : Entry) : Prop := x.segment < y.segment ∨ (x.segment = y.segment ∧ x.pos < y.pos)

/-- A new KEY_ON becomes the follow-on of the latest KEY_OFF of its key at or before it, the first in the queue of several at one
place (R120; log 30). -/
def linksOn (new : Entry) (q q' : List Entry) : Prop :=
  ∀ d k o n, new.action = .keyOn d k o n none → ∀ able : Entry → Prop,
    (∀ y, able y = ((∃ o' m, y.action = .keyOff d k o' m none) ∧ ¬liesBefore new y)) →
    ((∀ y ∈ q, ¬able y) → q' = q) ∧
    ∀ before y after, q = before ++ y :: after → able y → (∀ z ∈ before, able z → liesBefore z y) →
      (∀ z ∈ after, able z → ¬liesBefore y z) → ∀ o' m, y.action = .keyOff d k o' m none →
      q' = before ++ { y with action := .keyOff d k o' m (some n) } :: after

/-- The targets that an event's sounded, uncarried voices ask for, in the order of R109, each with its voice and pitch. -/
def askedTargets (v : State) (g : Segment) (e : Event) : List (Voice × Nat × Target) :=
  [Voice.S, .A, .T, .B, .D].flatMap fun o =>
    match e.pitch.get o with
    | some p =>
      if g.mask.get o && v.expander.carried.get o != some p then
        (((v.expander.voicing[g.override.getD e.voiceId]).get o).first.toList ++
          ((v.expander.voicing[g.override.getD e.voiceId]).get o).second.toList).map fun x => (o, p, x)
      else []
    | none => []

/-! ### Deliveries -/

/-- A key's fault state lets its valve be driven: NORMAL or OPEN_COIL (R147). -/
def isSound (x : KeyRecord) : Prop := x.fault = .normal ∨ x.fault = .openCoil

/-- The not-before that a deferral may give a KEY_ON of division d and of a segment, with the rest of the queue (R133). -/
def DeferBound (a : State) (rest : List Entry) (d : DivNo) (seg : Nat) (x : Time) : Prop :=
  ((div a d).stopState = .changing x ∧ isBefore a.now x = true) ∨
  ∃ y ∈ rest, (∃ r, y.action = .stopSet d r) ∧ y.segment < seg ∧ x = y.issue + BitVec.ofNat 32 (div a d).stopAction

/-! ### Bounds -/

/-- Every FIFO, queue and list is within the length that the manual gives it, at most one reply waits, and no holder count
exceeds 10 (R203, R208, R209, R71, R69, R82, R47, R126, R55, R146). -/
structure Bounded (s : State) : Prop where
  rx : s.link.rx.length ≤ Config.fifoBytes
  tx : s.link.tx.length ≤ Config.fifoBytes
  notices : noticeCount s.link ≤ Config.maxNotices
  replies : s.link.outgoing.length ≤ noticeCount s.link + 1
  onsets : s.front.onsets.length ≤ Config.maxOnsets
  gates : ∀ m, (mic s m).gates.length ≤ Config.maxGates
  cues : s.follower.cues.length ≤ Config.maxCues
  pauses : s.map.pauses.length ≤ Config.maxPauses
  entries : s.queue.length ≤ Config.maxEntries
  history : s.acoustic.history.length ≤ Config.maxHistory
  holders : ∀ d k, (key s d k).holders ≤ 10

/-! ### The Score Store -/

/-- The free count is 4096 less the records that the slots reserve, and every slot holds no more events than it reserves: a
READY slot exactly so many (R3, R8, R10). -/
structure StoreSound (s : State) : Prop where
  accounted : s.store.free + (s.store.slots.toList.map Slot.reserved).sum = Config.poolRecords
  loading : ∀ i h es, slot s i = .loading h es → es.length ≤ h.declared
  ready : ∀ i t, slot s i = .ready t → t.events.length = t.header.declared

/-! ### The Plan Unit -/

/-- A plan's tune slot is READY (R16). -/
def tuneReady (s : State) (p : Plan) : Prop := (tuneOf s p.slot).isSome = true

/-- The active copy exists exactly outside IDLE, its tune slot is READY, and so is a queued plan's (R21, R16). -/
structure PlanSound (s : State) : Prop where
  active : s.plan.active.isSome = true ↔ s.plan.play ≠ .idle
  activeReady : ∀ p, s.plan.active = some p → tuneReady s p
  queuedReady : s.plan.queued = true → ∃ p, s.plan.staged = some p ∧ tuneReady s p

/-! ### The Tempo Follower -/

/-- The coast credit lies within 0..A and is 0 exactly in STEADY, and the mode is OFF exactly in IDLE (R91, R79). -/
structure FollowSound (s : State) : Prop where
  allowance : 1 ≤ s.follower.settings.allowance
  credit : s.follower.credit ≤ s.follower.settings.allowance
  steady : s.follower.credit = 0 ↔ s.follower.mode = .steady
  off : s.follower.mode = .off ↔ s.plan.play = .idle

/-! ### The organ -/

/-- What the console owns while the part is yielded: nothing is queued, no cue waits, no key is held, no stop is drawn and no
ramp runs (R194, R138, R103, R158, R175). -/
structure HandedOver (s : State) : Prop where
  queue : s.queue = []
  cues : s.follower.cues = []
  keys : allReleased s = true
  stops : ∀ d, (div s d).drawn = 0 ∧ (div s d).stopState = .settled
  ramps : ∀ d, (shutter s d).running = .idle ∧ (shutter s d).queued = none

/-- No division's wind demand exceeds its capacity; in IDLE nothing is queued, no key is held and the map is empty; a
levelling run is active only in IDLE and not while yielded; and a yielded part has handed the organ over (R148, R33, R179,
R194). -/
structure OrganSound (s : State) : Prop where
  wind : ∀ d, windDemand s d ≤ (div s d).capacity
  idle : s.plan.play = .idle → s.queue = [] ∧ allReleased s = true ∧ s.map.current = none
  run : s.levelling.run.isSome = true → s.plan.play = .idle ∧ yielded s = false
  given : yielded s = true → HandedOver s

end Sys2Proof.Machine
end

