-- ==== Sys2Proof/Certificates/Slice0/Obligations.lean ====
section
/-! DEFINITION. The statements for the provers. In each, `a` is the state when the command comes, `arrive t s`: the counter
has moved to the command's time (log 1) and nothing else has changed. A request's body is read as spec/12, 12.6, lays it
out; `answer k tag st fields x` is x with that reply added at the end of the outgoing list (R206, R208). What a notice does
is NoticesAndWaits; `settle a x`, in the statements about map changes, is what the command brings due at once (R44), stated there too. -/

section

open Sys2Proof Sys2Proof.Machine

/-! ### The step -/

/-- A command at the front of the queue runs on the state with the queue's rest. -/
def Obligations.StepRunsFront : Prop :=
  ∀ (c : Instr) (rest : List Instr) (s : State), step { s with pending := c :: rest } = exec c { s with pending := rest }

/-- The model's choice (log 2, log 3): on an empty queue a part in reset stays; a running part with nothing due lets the
counter advance by one; with one event due it runs that event. -/
def Obligations.StepOnEmptyQueue : Prop :=
  ∀ s : State, s.pending = [] →
    (s.rstHeld = true → step s = .next s) ∧
    (s.rstHeld = false → dueEvents s = [] → step s = .next { s with now := s.now + 1, marks := .fresh }) ∧
    (∀ c, s.rstHeld = false → dueEvents s = [c] → step s = exec c s)

/-! ### Operations that many commands share -/

/-- A notice joins the outgoing list, or, when 16 notices wait there, is lost and sets the notices-lost flag (R209). What a
command that found the part in a state b has set or moved to or before the present is acted on at once, one wait after another,
until nothing of it is left (R44): the states passed through make a chain from the one at hand, in which each follows from the
one before by one of its waits. A wait of the command has come, is not one that had come in b for the same time, which is an
event of its own before or after the command (R206), and is the first of its kind so; entries are taken also where they stood,
as a retime takes them (R135). Which of several waits comes first is the model's free value, and the chain makes at most 2000
steps (log 8). -/
def Obligations.NoticesAndWaits : Prop :=
  (∀ (n : Notice) (s : State),
    (noticeCount s.link < 16 →
      notice n s = { s with link := { s.link with outgoing := s.link.outgoing ++ [.notice n] } }) ∧
    (16 ≤ noticeCount s.link → notice n s = { s with link := { s.link with lost := true } })) ∧
  (∀ (b x : State) (w : Wait), w ∈ dueWaits b x ↔ ∃ before after, (before ++ w :: after) ∈ comeWaits x ∧
    (w ≠ .entry → ∀ vs ∈ comeWaits b, w ∉ vs) ∧ ∀ v ∈ before, v ≠ .entry ∧ ∃ vs ∈ comeWaits b, v ∈ vs) ∧
  ∀ b s : State, ∃ chain : List State,
    chain.head? = some s ∧ chain.getLast? = some (settle b s) ∧ chain.length ≤ 2001 ∧
    (chain.length < 2001 → dueWaits b (settle b s) = []) ∧
    ∀ (i : Nat) (x y : State), chain[i]? = some x → chain[i + 1]? = some y →
      ∃ w ∈ dueWaits b x, y = actOn w (if (dueWaits b x).length = 1 then x else { x with choices := x.choices + 1 })

/-- A retime gives every entry its issue time: for a KEY_ON the time of its position less lead_on, no earlier than its
not-before; for a KEY_OFF or STOP_SET the release-side time less lead_off, a KEY_OFF with a queued follow-on no later than the
follow-on's new issue time less the repeat gap; an entry of a segment that is neither current nor next keeps its time. No
entry is lost or added; while its times lie within 2^30 tu of the present the queue ends sorted, equal times in the order they
stood in; and nothing changes but the queue and LATE, which counts the entries moved to or before the present. -/
def Obligations.RetimeRecomputes : Prop :=
  ∀ s : State, ∃ new : List Entry,
    (retime s).queue.Perm new ∧ new.length = s.queue.length ∧
    (∀ (i : Nat) (e e' : Entry), s.queue[i]? = some e → new[i]? = some e' →
      e'.action = e.action ∧ e'.segment = e.segment ∧ e'.pos = e.pos ∧
      (positionTime s e.segment e.pos e.action.releaseSide = none →
        (∀ d k v n nb, e.action ≠ .keyOn d k v n (some nb)) → e'.issue = e.issue) ∧
      (∀ u, positionTime s e.segment e.pos e.action.releaseSide = some u →
        (∀ d k v n, e.action = .keyOn d k v n none → e'.issue = addTu u (-(leadOn s d : Int))) ∧
        (∀ d k v n nb, e.action = .keyOn d k v n (some nb) →
          e'.issue = if isBefore (addTu u (-(leadOn s d : Int))) nb then nb else addTu u (-(leadOn s d : Int))) ∧
        (∀ d r, e.action = .stopSet d r → e'.issue = addTu u (-(leadOff s d : Int))) ∧
        (∀ d k v n, e.action = .keyOff d k v n none → e'.issue = addTu u (-(leadOff s d : Int))) ∧
        (∀ d k v n f, e.action = .keyOff d k v n (some f) → (∀ x ∈ new, x.action.onPair ≠ some f) →
          e'.issue = addTu u (-(leadOff s d : Int))) ∧
        (∀ d k v n f g, e.action = .keyOff d k v n (some f) → new.find? (fun x => x.action.onPair == some f) = some g →
          ∀ bound, bound = addTu g.issue (-(s.follower.settings.repeatGap : Int)) →
          e'.issue = if isBefore bound (addTu u (-(leadOff s d : Int))) then bound else addTu u (-(leadOff s d : Int))))) ∧
    ((∀ e ∈ new, (diff e.issue s.now).natAbs < 2 ^ 30) →
      ((retime s).queue.Pairwise fun x y => atOrBefore x.issue y.issue = true) ∧
      ∀ u, (retime s).queue.filter (fun x => x.issue == u) = new.filter fun x => x.issue == u) ∧
    ∀ late, late = ((s.queue.zip new).filter fun p => p.1.issue != p.2.issue && atOrBefore p.2.issue s.now).length →
    retime s = { s with
      queue := (retime s).queue
      counters := { s.counters with late := bumpBy late s.counters.late } }

/-! ### The link -/

/-- The bytes of any frame, taken from HUNT in order, leave that frame as the checked request and the receiver in HUNT; with
a damaged check they leave no request and count CHECK. -/
def Obligations.FrameRoundTrip : Prop :=
  ∀ (f : Frame) (t : Time) (s : State), f.body.length ≤ 240 → s.link.receiver = .hunt →
    f.bytes.foldl (fun s b => receiverStep b t s) s = { s with link := { s.link with waiting := some f } } ∧
    ∀ hi lo : Byte, hi.toNat * 256 + lo.toNat ≠ f.check.toNat →
      (f.bytes.take (4 + f.body.length) ++ [hi, lo]).foldl (fun s b => receiverStep b t s) s = countCheck s

/-- RESET_ASSERT puts every block at its power-on values; the CT line, the waiting commands and the model's count of choices
stay. -/
def Obligations.ResetAssertPowersOn : Prop :=
  ∀ s : State, ∃ t, exec .resetAssert s = .next t ∧ t.rstHeld = true ∧ t.now = 0 ∧ t.ct = s.ct ∧ t.pending = s.pending ∧
    t.choices = s.choices ∧
    (∀ i, slot t i = .empty) ∧ t.store.free = 4096 ∧
    t.plan.staged = none ∧ t.plan.active = none ∧ t.plan.queued = false ∧ t.plan.order = [] ∧ t.plan.play = .idle ∧
    t.plan.stopped = false ∧
    t.map.current = none ∧ t.map.anchor = none ∧ t.map.period = 10000 ∧ t.map.pauses = [] ∧
    t.follower.mode = .off ∧ t.follower.credit = 4 ∧ t.follower.rejoinRun = 0 ∧ t.follower.lastMatch = none ∧
    t.follower.owed = false ∧ t.follower.lastPosted = none ∧ t.follower.cues = [] ∧
    t.follower.settings = ⟨12, 8, 64, 4, 2, 20000, 300, 2, 20000⟩ ∧
    t.acoustic = ⟨[], 200, false⟩ ∧ t.front.fallback = 200 ∧ t.front.onsets = [] ∧
    (∀ m, (mic t m).settings = ⟨false, 0, 8, 256, 64, 1500, 6, .gate, 400⟩ ∧ (mic t m).envelope = none ∧
      (mic t m).floor = none ∧ (mic t m).fired = false ∧ (mic t m).lastFiring = none ∧ (mic t m).gates = []) ∧
    (∀ m : Fin 16, ∀ v, t.expander.voicing[m].get v = ⟨if v = .D then none else some ⟨0, 0⟩, none⟩) ∧
    t.expander.cursor = .none ∧ (∀ v, t.expander.carried.get v = none) ∧ t.expander.firstDone = false ∧
    t.expander.pairCounter = 0 ∧ t.queue = [] ∧
    (∀ d, (div t d).present = false ∧ (div t d).kind = .manual ∧ (div t d).compass = 61 ∧ (div t d).base = 36 ∧
      (div t d).enclosed = false ∧ (div t d).choirDistance = 0 ∧ (∀ m : Fin 4, (div t d).micDistance[m] = 0) ∧
      (div t d).speech = 0 ∧ (div t d).release = 0 ∧ (div t d).stopAction = 1000 ∧ (div t d).capacity = 4095 ∧
      (div t d).reserve = 0 ∧ (div t d).weights = [] ∧ (div t d).drawn = 0 ∧ (div t d).stopState = .settled ∧
      ∀ k, key t d k = ⟨0, .normal, 0, 0⟩) ∧
    (∀ g : Fin 8, ∀ d : DivNo, t.drivers.registrations[g][d] = 0) ∧ t.drivers.debounce = 3 ∧
    (∀ d, shutter t d = ⟨127, .idle, none, 0⟩) ∧
    (∀ c : Fin 5, ∀ i : Fin 9, t.expression.curves[c][i] = min (16 * i.val) 127) ∧
    t.levelling = ⟨none, none⟩ ∧ t.yielding = ⟨.playingFree, false, false, .quiet, none⟩ ∧
    t.link.rx = [] ∧ t.link.tx = [] ∧ t.link.outgoing = [] ∧ t.link.receiver = .hunt ∧ t.link.waiting = none ∧
    t.link.lost = false ∧ t.counters = ⟨0, 0, 0, 0, 0, 0, 0, 0, 0, 0, 0, 0, 0, 0, 0, 0⟩

/-- RESET_RELEASE on a part in reset latches the rate pins, starts the link in its reset state with the READY notice, starts
the counter at 0 and lets the CT filter watch the line; every other block stays. -/
def Obligations.ResetReleaseStarts : Prop :=
  ∀ (r1 r0 : Bool) (s : State), s.rstHeld = true → ∃ t, exec (.resetRelease r1 r0) s = .next t ∧ t.rstHeld = false ∧ t.now = 0 ∧
    t.link.rate.toNat = (if r1 then 2 else 0) + (if r0 then 1 else 0) ∧
    t.link = { rate := t.link.rate, rx := [], receiver := .hunt, waiting := none,
               outgoing := [.notice (.ready t.link.rate)], tx := [], lost := false } ∧
    t.yielding = { s.yielding with filter := if s.ct then .touching 0 else .quiet } ∧
    { t with rstHeld := true, now := s.now, marks := s.marks, link := s.link, yielding := s.yielding } = s

/-- RECEIVER_BYTE: while no checked request waits, the receiver takes the oldest byte. A byte more than 200 tu after the
frame's last one discards the frame, counts TIMEOUT and is examined in HUNT; any other byte moves the receiver as its state
gives, an over-long LEN counting LENGTH. The second check byte completes the frame: a checked request, or CHECK counted.
FRAME_GAP: a frame whose next byte has not come within 200 tu is discarded and TIMEOUT counted. -/
def Obligations.ReceiverTakesBytes : Prop :=
  ∀ (t : Time) (s : State), Runs s → ∀ a, a = arrive t s →
    (∀ b u rest, s.link.rx = (b, u) :: rest → s.link.waiting = none →
      (gapAt a u = true → exec (.receiverByte t) s = .next { a with
        link := { a.link with rx := rest, receiver := if b = 0xA5 then .awaitLen u else .hunt }
        counters := { a.counters with timeout := bump a.counters.timeout } }) ∧
      (gapAt a u = false → ∀ r' long, receiverMoves a.link.receiver b u r' long →
        exec (.receiverByte t) s = .next { a with
          link := { a.link with rx := rest, receiver := r' }
          counters := { a.counters with length := if long then bump a.counters.length else a.counters.length } }) ∧
      (gapAt a u = false → ∀ v k g got high, a.link.receiver = .checkLow v k g got high →
        exec (.receiverByte t) s = .next (if high.toNat * 256 + b.toNat = (Frame.check ⟨k, g, got⟩).toNat
          then { a with link := { a.link with rx := rest, receiver := .hunt, waiting := some ⟨k, g, got⟩ } }
          else { a with link := { a.link with rx := rest, receiver := .hunt }
                        counters := { a.counters with check := bump a.counters.check } }))) ∧
    (∀ u, s.link.rx = [] → s.link.receiver.last = some u → 200 < diff a.now u →
      exec (.frameGap t) s = .next { a with
        link := { a.link with receiver := .hunt }
        counters := { a.counters with timeout := bump a.counters.timeout } })

/-- RXD_BYTE: a byte joins the receive FIFO with its arrival time; one that finds 1024 bytes is dropped and counts
OVERRUN. TRANSMIT_MESSAGE moves the oldest message, whole, into a transmit FIFO that has room for its frame, and leaves a FIFO
without room as it is; TRANSMIT_BYTE_END takes the oldest byte out. Nothing else changes. -/
def Obligations.LinkFifosMove : Prop :=
  ∀ (t : Time) (b : Byte) (s : State), Runs s → ∀ a, a = arrive t s →
    (a.link.rx.length < 1024 →
      exec (.rxdByte t b) s = .next { a with link := { a.link with rx := a.link.rx ++ [(b, a.now)] } }) ∧
    (1024 ≤ a.link.rx.length →
      exec (.rxdByte t b) s = .next { a with counters := { a.counters with overrun := bump a.counters.overrun } }) ∧
    (∀ m rest, s.link.outgoing = m :: rest → s.link.tx.length + m.frame.bytes.length ≤ 1024 →
      exec (.transmitMessage t) s =
        .next { a with link := { a.link with outgoing := rest, tx := a.link.tx ++ m.frame.bytes } }) ∧
    (∀ m rest, s.link.outgoing = m :: rest → 1024 < s.link.tx.length + m.frame.bytes.length →
      exec (.transmitMessage t) s = .next a) ∧
    (∀ b rest, s.link.tx = b :: rest →
      exec (.transmitByteEnd t) s = .next { a with link := { a.link with tx := rest } })

/-- The handler's first two cases: a checked frame whose KIND is no request kind is answered BAD_KIND, and one whose body
length its kind does not allow BAD_LENGTH, each with the status alone and with nothing else changed. A frame that finds a
reply waiting in the outgoing list waits itself as the checked request, and nothing else changes until the reply has left; a
checked frame that waits when the handler is free is then dealt with as one that comes at that moment, so the statements about
requests hold for it too, whether it came whole or the receiver completed it from bytes (log 6). -/
def Obligations.HandlerRefusesAndHolds : Prop :=
  ∀ (t : Time) (kind tag : Byte) (body : List Byte) (s : State), body.length ≤ 240 → ∀ a, a = arrive t s →
    (Listens s → isRequestKind kind = false → exec (.badKind t kind tag body) s = .next (answer kind tag .badKind [] a)) ∧
    (Listens s → isRequestKind kind = true → lengthAllowed kind body = false →
      exec (rowOf t kind tag body) s = .next (answer kind tag .badLength [] a)) ∧
    (Runs s → handlerFree s.link = false → s.link.waiting = none →
      exec (rowOf t kind tag body) s = .next { a with link := { a.link with waiting := some ⟨kind, tag, body⟩ } }) ∧
    (Runs s → handlerFree s.link = false → s.link.waiting = some ⟨kind, tag, body⟩ →
      exec (rowOf t kind tag body) s = .next a) ∧
    (Runs s → handlerFree s.link = true → s.link.waiting = some ⟨kind, tag, body⟩ →
      exec (rowOf t kind tag body) s = exec (rowOf t kind tag body) { s with link := { s.link with waiting := none } })

/-- QUIET_RESET puts the play blocks into their reset condition in one step and replies OK last; the counter, the loaded
tunes, the settings and the tables, the link and its counters stay, and no notice is made. -/
def Obligations.QuietResetKeeps : Prop :=
  ∀ (t : Time) (tag : Byte) (s : State), Listens s → ∀ a, a = arrive t s → ∃ u, exec (.quietReset t tag []) s = .next u ∧
    u.now = a.now ∧ u.rstHeld = false ∧ u.ct = a.ct ∧ u.link = (answer 0x03 tag .ok [] a).link ∧
    (∀ i, slot u i = match slot a i with
      | .empty => .empty
      | .loading _ _ => .empty
      | .ready x => .ready x) ∧
    u.plan.staged = none ∧ u.plan.active = none ∧ u.plan.queued = false ∧ u.plan.order = [] ∧ u.plan.play = .idle ∧
    u.plan.stopped = false ∧
    u.map = { a.map with current := none, anchor := none, pauses := [] } ∧
    u.follower = { mode := .off, credit := a.follower.settings.allowance, rejoinRun := 0, lastMatch := none, owed := false,
                   lastPosted := none, cues := [], settings := a.follower.settings } ∧
    u.acoustic = a.acoustic ∧ u.front.fallback = a.front.fallback ∧ u.front.onsets = [] ∧
    (∀ m, (mic u m).settings = (mic a m).settings ∧ (mic u m).envelope = none ∧ (mic u m).floor = none ∧ (mic u m).fired = false ∧
      (mic u m).lastFiring = none ∧ (mic u m).gates = []) ∧
    u.expander = { voicing := a.expander.voicing, cursor := .none, carried := ⟨none, none, none, none, none⟩,
                   firstDone := false, pairCounter := 0 } ∧
    u.queue = [] ∧ u.drivers.registrations = a.drivers.registrations ∧ u.drivers.debounce = a.drivers.debounce ∧
    (∀ d, div u d = { div a d with drawn := 0, stopState := .settled, keys := (div u d).keys }) ∧
    (∀ d k, key u d k = ⟨0, if (key a d k).fault = .clearedPending then .normal else (key a d k).fault, 0, 0⟩) ∧
    u.expression.curves = a.expression.curves ∧
    (∀ d, (shutter u d).running = .idle ∧ (shutter u d).queued = none ∧
      (shutter u d).position = (shutter (syncRamps a) d).position) ∧
    u.levelling = { run := none, last := a.levelling.last } ∧
    u.yielding = ⟨.playingFree, false, false, if a.ct then .touching a.now else .quiet, none⟩ ∧
    u.counters = { Counters.zero with length := a.counters.length, timeout := a.counters.timeout,
                                      check := a.counters.check, overrun := a.counters.overrun } ∧
    u.marks = a.marks ∧ u.choices = a.choices ∧ u.pending = a.pending

/-- STATUS replies OK with the fields of the layout, as they stand, and clears the notices-lost flag. COUNTERS reports the
sixteen counters, the link counters first, and clears every one. Neither changes anything else. TABLE_READ answers OK for a
table and indices in range and BAD_FIELD otherwise, and changes nothing but the outgoing list. Its entries for an event, a
disabled microphone, the onset queue from its first item, the cursor, a queue entry, a registration set, the debounce, a
shutter at rest and the yield unit are given whole (layouts: log 11, log 12, log 15, log 36, log 42, log 46, log 47, log 50).
STATUS reports position 0 in a CLOSING without a segment, the model's choice (log 23). -/
def Obligations.ReadRequestsReply : Prop :=
  ∀ (t : Time) (tag : Byte) (s : State), Listens s → ∀ a, a = arrive t s →
    (∀ table i j1 j0 first : Byte,
      (tableInRange table.toNat i.toNat (j1.toNat * 256 + j0.toNat) = true →
        ∃ fields, exec (.tableRead t tag [table, i, j1, j0, first]) s = .next (answer 0x1B tag .ok fields a)) ∧
      (tableInRange table.toNat i.toNat (j1.toNat * 256 + j0.toNat) = false →
        exec (.tableRead t tag [table, i, j1, j0, first]) s = .next (answer 0x1B tag .badField [] a))) ∧
    TablesRead t tag s ∧
    exec (.status t tag []) s = .next (answer 0x01 tag .ok
      (e8 a.plan.play.code ++
       (match currentSegment a with
        | some g => eOpt8 a.map.current ++ e8 g.kind.code ++ e8 g.verse
        | none => [0xFF#8, 0xFF#8, 0#8]) ++
       e8 ((currentLine a).elim 0 (·.number)) ++ e16 (reportedPosition a) ++ e16 a.map.period ++
       e16 (roundNat 6000000 a.map.period) ++ e8 a.follower.mode.code ++ e8 a.follower.credit ++
       e8 a.yielding.state.code ++ e8 (a.levelling.run.elim 0 (·.phase.code)) ++ e16 a.queue.length ++
       e16i a.acoustic.inUse ++ e8 (if a.link.lost then 1 else 0) ++ e16 a.store.free ++
       e8 ((if a.plan.staged.isSome then 1 else 0) + (if a.plan.queued then 2 else 0)) ++ e32 a.now)
      { a with link := { a.link with lost := false } }) ∧
    ∀ c, c = a.counters →
    exec (.counters t tag []) s = .next (answer 0x02 tag .ok
      (([c.length, c.timeout, c.check, c.overrun, c.late, c.deferred, c.clipped, c.shed, c.forced, c.noDivision, c.masked,
         c.ignored, c.unmatched, c.duplicate, c.missed, c.onsetsDropped].map fun x => e16 x.toNat).flatten)
      { a with counters := ⟨0, 0, 0, 0, 0, 0, 0, 0, 0, 0, 0, 0, 0, 0, 0, 0⟩ })

/-! ### The Score Store -/

/-- TUNE_BEGIN: the checks of R4 in their order, the first that fails deciding the reply with nothing changed; an accepted one
puts the slot into LOADING with its header and no event, and moves the free count. -/
def Obligations.TuneBeginReserves : Prop :=
  ∀ (t : Time) (tag : Byte) (b : List Byte) (s : State), Listens s → b.length = 11 → ∀ a, a = arrive t s →
    (15 < byteAt b 0 → exec (.tuneBegin t tag b) s = .next (answer 0x04 tag .badField [] a)) ∧
    ∀ (i : Fin 16) (h : TuneHeader) (own : Nat), byteAt b 0 = i.val →
      h = ⟨wordAt b 1, wordAt b 3, wordAt b 5, wordAt b 7, wordAt b 9⟩ → Reserves (slot a i) own →
      ∀ ranges : Prop, ranges = (2000 ≤ h.default ∧ h.default ≤ 20000 ∧ 2000 ≤ h.minimum ∧ h.minimum ≤ 20000 ∧
        2000 ≤ h.maximum ∧ h.maximum ≤ 20000 ∧ h.minimum ≤ h.default ∧ h.default ≤ h.maximum ∧ 1 ≤ h.declared ∧
        h.declared ≤ 512) →
      (¬ranges → exec (.tuneBegin t tag b) s = .next (answer 0x04 tag .badField [] a)) ∧
      (ranges → InUse a i → exec (.tuneBegin t tag b) s = .next (answer 0x04 tag .inUse [] a)) ∧
      (ranges → ¬InUse a i → a.store.free + own < h.declared →
        exec (.tuneBegin t tag b) s = .next (answer 0x04 tag .noRoom (e16 (a.store.free + own)) a)) ∧
      (ranges → ¬InUse a i → h.declared ≤ a.store.free + own →
        exec (.tuneBegin t tag b) s = .next (answer 0x04 tag .ok (e16 (a.store.free + own - h.declared))
          { a with store := { slots := a.store.slots.set i (.loading h []), free := a.store.free + own - h.declared } }))

/-- TUNE_DATA: the checks of R6 in their order; an accepted one appends its events to the slot's and replies with the new
expected index, which is the number of events held; a refused one changes nothing. -/
def Obligations.TuneDataStores : Prop :=
  ∀ (t : Time) (tag : Byte) (b : List Byte) (n : Nat) (s : State), Listens s → 1 ≤ n → n ≤ 19 → b.length = 3 + 12 * n →
    ∀ a, a = arrive t s →
    (15 < byteAt b 0 → exec (.tuneData t tag b) s = .next (answer 0x05 tag .badField [] a)) ∧
    ∀ i : Fin 16, byteAt b 0 = i.val →
      ((∀ h es, slot a i ≠ .loading h es) → exec (.tuneData t tag b) s = .next (answer 0x05 tag .notLoading [] a)) ∧
      ∀ h es, slot a i = .loading h es →
        (wordAt b 1 ≠ es.length →
          exec (.tuneData t tag b) s = .next (answer 0x05 tag .sequence (e16 es.length) a)) ∧
        (∀ j, wordAt b 1 = es.length → j < n → eventFails b (3 + 12 * j) → (∀ k, k < j → ¬eventFails b (3 + 12 * k)) →
          exec (.tuneData t tag b) s = .next (answer 0x05 tag .badField (e16 (wordAt b 1 + j)) a)) ∧
        (wordAt b 1 = es.length → (∀ j, j < n → ¬eventFails b (3 + 12 * j)) → h.declared < es.length + n →
          exec (.tuneData t tag b) s = .next (answer 0x05 tag .noRoom (e16 es.length) a)) ∧
        (wordAt b 1 = es.length → (∀ j, j < n → ¬eventFails b (3 + 12 * j)) → es.length + n ≤ h.declared →
          ∃ new : List Event, new.length = n ∧ (∀ j e, new[j]? = some e → spellsEvent b (3 + 12 * j) e) ∧
            exec (.tuneData t tag b) s = .next (answer 0x05 tag .ok (e16 (es.length + n))
              { a with store := { a.store with slots := a.store.slots.set i (.loading h (es ++ new)) } }))

/-- TUNE_END: a slot that is not LOADING is refused with nothing changed. A load that passes the seven checks becomes READY
with its header, its events, the line table of the verse part, the verse end and the Amen tail with its ranges of positions and
events, and the reply carries the number of lines, the verse end and whether there is a tail; one that fails a check empties the
slot, returns its records and is answered BAD_TUNE with the first failing check's code and the event index it reports. -/
def Obligations.TuneEndValidates : Prop :=
  ∀ (t : Time) (tag sl : Byte) (s : State), Listens s → ∀ a, a = arrive t s →
    (15 < sl.toNat → exec (.tuneEnd t tag [sl]) s = .next (answer 0x06 tag .badField [] a)) ∧
    ∀ i : Fin 16, sl.toNat = i.val →
      ((∀ h es, slot a i ≠ .loading h es) → exec (.tuneEnd t tag [sl]) s = .next (answer 0x06 tag .notLoading [] a)) ∧
      ∀ h es, slot a i = .loading h es →
        ((∀ code, code < 7 → tunePasses h es code) → ∃ x : Tune, x.header = h ∧ x.events = es ∧
          LinesOf (es.filter fun e => !e.amen) 0 0 x.lines ∧
          (∀ e, (es.filter fun x => !x.amen).getLast? = some e → x.verseEnd = e.pos + e.len) ∧
          ((∀ e ∈ es, e.amen = false) → x.amen = none) ∧
          (∀ (i : Nat) (e l : Event), es[i]? = some e → e.amen = true → (∀ f ∈ es.take i, f.amen = false) →
            es.getLast? = some l → x.amen = some ⟨e.pos, l.pos + l.len, i, es.length - 1⟩) ∧
          exec (.tuneEnd t tag [sl]) s = .next (answer 0x06 tag .ok
            (e8 x.lines.length ++ e16 x.verseEnd ++ e8 (if x.amen.isSome then 1 else 0))
            { a with store := { a.store with slots := a.store.slots.set i (.ready x) } })) ∧
        (¬(∀ code, code < 7 → tunePasses h es code) → ∃ code index : Nat, code < 7 ∧
          (∀ k, k < code → tunePasses h es k) ∧ ¬tunePasses h es code ∧ tuneReports es code index ∧
          exec (.tuneEnd t tag [sl]) s = .next (answer 0x06 tag .badTune (e8 code ++ e16 index)
            { a with store := { slots := a.store.slots.set i .empty, free := a.store.free + h.declared } }))

/-- TUNE_ERASE: a slot number outside 0..15 is refused BAD_FIELD and a slot in use IN_USE, with nothing changed; otherwise the
slot is EMPTY afterwards, its records return, and the reply carries the free count after the erase. -/
def Obligations.TuneEraseFrees : Prop :=
  ∀ (t : Time) (tag sl : Byte) (s : State), Listens s → ∀ a, a = arrive t s →
    (15 < sl.toNat → exec (.tuneErase t tag [sl]) s = .next (answer 0x07 tag .badField [] a)) ∧
    ∀ (i : Fin 16) (own : Nat), sl.toNat = i.val → Reserves (slot a i) own →
      (InUse a i → exec (.tuneErase t tag [sl]) s = .next (answer 0x07 tag .inUse [] a)) ∧
      (¬InUse a i → exec (.tuneErase t tag [sl]) s = .next (answer 0x07 tag .ok (e16 (a.store.free + own))
        { a with store := { slots := a.store.slots.set i .empty, free := a.store.free + own } }))

/-- TUNE_READ is accepted in every state, changes nothing but the outgoing list, and reports the slot's state, whether it is
in use, the free count and the fields its state gives; without an Amen tail its range is all-ones (log 34). -/
def Obligations.TuneReadReports : Prop :=
  ∀ (t : Time) (tag sl : Byte) (s : State), Listens s → ∀ a, a = arrive t s →
    (15 < sl.toNat → exec (.tuneRead t tag [sl]) s = .next (answer 0x08 tag .badField [] a)) ∧
    ∀ (i : Fin 16) (used : Nat), sl.toNat = i.val → (InUse a i → used = 1) → (¬InUse a i → used = 0) →
      (slot a i = .empty → exec (.tuneRead t tag [sl]) s =
        .next (answer 0x08 tag .ok (e8 0 ++ e8 used ++ e16 a.store.free) a)) ∧
      (∀ h es, slot a i = .loading h es → exec (.tuneRead t tag [sl]) s =
        .next (answer 0x08 tag .ok (e8 1 ++ e8 used ++ e16 a.store.free ++ e16 h.label ++ e16 h.default ++ e16 h.minimum ++
          e16 h.maximum ++ e16 h.declared ++ e16 es.length) a)) ∧
      (∀ x, slot a i = .ready x → exec (.tuneRead t tag [sl]) s =
        .next (answer 0x08 tag .ok (e8 2 ++ e8 used ++ e16 a.store.free ++ e16 x.header.label ++ e16 x.header.default ++
          e16 x.header.minimum ++ e16 x.header.maximum ++ e16 x.header.declared ++ e8 x.lines.length ++
          (x.lines.map fun l => e16 l.start ++ e16 l.stop).flatten ++ e16 x.verseEnd ++
          (match x.amen with
            | none => e8 0 ++ allOnes 4
            | some m => e8 1 ++ e16 m.start ++ e16 m.stop)) a))

/-! ### The Plan Unit -/

/-- PLAN_SET: refused BUSY while a plan is queued; a field out of range refuses it BAD_FIELD with the place of the first one,
counted within the plan's own fields, with the verse number 0, or within the first verse record that has one, with that record's
number (log 14); otherwise the plan it spells becomes the staged copy, and nothing else changes. -/
def Obligations.PlanSetStages : Prop :=
  ∀ (t : Time) (tag : Byte) (b : List Byte) (n : Nat) (s : State), Listens s → 1 ≤ n → n ≤ 12 → b.length = 13 + 14 * n →
    ∀ a, a = arrive t s →
    (a.plan.queued = true → exec (.planSet t tag b) s = .next (answer 0x09 tag .busy [] a)) ∧
    (∀ place, a.plan.queued = false → FirstFails (planRanges b) place →
      exec (.planSet t tag b) s = .next (answer 0x09 tag .badField (e8 place ++ e8 0) a)) ∧
    (∀ j place, a.plan.queued = false → AllHold (planRanges b) → j < n → (∀ i, i < j → AllHold (verseRanges b (13 + 14 * i))) →
      FirstFails (verseRanges b (13 + 14 * j)) place →
      exec (.planSet t tag b) s = .next (answer 0x09 tag .badField (e8 place ++ e8 (j + 1)) a)) ∧
    (a.plan.queued = false → AllHold (planRanges b) → (∀ j, j < n → AllHold (verseRanges b (13 + 14 * j))) → ∃ p, spellsPlan b n p ∧
      exec (.planSet t tag b) s = .next (answer 0x09 tag .ok [] { a with plan := { a.plan with staged := some p } }))

/-- PLAN_CANCEL: with the queued flag set it clears the flag and keeps the staged plan; with it clear it discards a staged
plan; it never touches the active plan. The results UNQUEUED, DISCARDED and NONE are sent as 0, 1 and 2, which R22 does not
number: R207 read as log 12 reads it. -/
def Obligations.PlanCancelUndoes : Prop :=
  ∀ (t : Time) (tag : Byte) (s : State), Listens s → ∀ a, a = arrive t s →
    (a.plan.queued = true → exec (.planCancel t tag []) s =
      .next (answer 0x0A tag .ok (e8 0) { a with plan := { a.plan with queued := false } })) ∧
    (a.plan.queued = false → a.plan.staged.isSome = true → exec (.planCancel t tag []) s =
      .next (answer 0x0A tag .ok (e8 1) { a with plan := { a.plan with staged := none } })) ∧
    (a.plan.queued = false → a.plan.staged = none → exec (.planCancel t tag []) s =
      .next (answer 0x0A tag .ok (e8 2) a))

/-- The running order of a plan and its tune: the introduction its kind asks for, verses 1 to the verse count in order, then
the Amen when the plan asks for it and the tune has a tail; each segment with the range, rest, follow flag, registration,
mask, override and ramp the rules give it; at most 15 segments. -/
def Obligations.RunningOrderFollowsPlan : Prop :=
  ∀ (p : Plan) (x : Tune) (m : Nat), 1 ≤ p.verses.length → p.verseCount ≤ 12 → 1 ≤ p.verseCount →
    (m = match p.introKind with | .none => 0 | .lastLine => 1 | .firstLast => if x.lines.length ≤ 1 then 1 else 2 | .whole => 1) →
    (runningOrder p x).length ≤ 15 ∧
    (runningOrder p x).length = m + p.verseCount + (if p.amen = true ∧ x.amen.isSome = true then 1 else 0) ∧
    (∀ (i : Nat) (g : Segment), i < m → (runningOrder p x)[i]? = some g →
      g.kind = .intro ∧ g.verse = 0 ∧ g.follow = .lead ∧ g.registration = p.introRegistration ∧ g.mask = p.introMask ∧
      g.override = none ∧ g.ramp = none ∧ g.restBefore = 0 ∧
      (∀ l, x.lines.getLast? = some l → g.sFrom = if m = 2 ∧ i = 1 ∨ p.introKind = .lastLine then l.start else 0) ∧
      (∀ l, x.lines.head? = some l → g.sTo = if m = 2 ∧ i = 0 then l.stop else x.verseEnd)) ∧
    (∀ k, 1 ≤ k → k ≤ p.verseCount → ∃ (g : Segment) (v : VerseRecord), (runningOrder p x)[m + k - 1]? = some g ∧
      p.verses[min (k - 1) (p.verses.length - 1)]? = some v ∧
      g = ⟨.verse, k, 0, x.verseEnd, g.restBefore, v.follow, v.registration, v.mask, v.override, v.ramp⟩ ∧
      (k = 1 → g.restBefore = if m = 0 then 0 else p.givingOut) ∧
      (2 ≤ k → ∃ w : VerseRecord, p.verses[min (k - 2) (p.verses.length - 1)]? = some w ∧ g.restBefore = w.restAfter)) ∧
    (∀ tail, p.amen = true → x.amen = some tail → ∃ v : VerseRecord,
      p.verses[min (p.verseCount - 1) (p.verses.length - 1)]? = some v ∧
      (runningOrder p x)[m + p.verseCount]? =
        some ⟨.amen, 0, tail.start, tail.stop, p.amenRest, v.follow, p.amenRegistration, v.mask, v.override, none⟩)

/-- PLAN_START of either form starts the staged plan in IDLE, and NOW replaces a hymn that plays: every key is released, the
hymn ends with all that goes with it, HYMN_END carries REPLACED, and a part on its way back to the organ is released, before
the new one starts (the last match and the owed flag at a hymn's end: log 25; HYMN_END's verse: log 35). The reply STARTED, 0
by log 12, carries the first segment's start time, 10000 tu ahead, and the number of segments. -/
def Obligations.PlanStartBegins : Prop :=
  ∀ (t : Time) (tag : Byte) (p : Plan) (x : Tune) (s : State), Listens s → ∀ a, a = arrive t s →
    runActive a = false → yielded a = false → a.plan.staged = some p → slot a p.slot = .ready x →
    (a.plan.play = .idle → ∃ u, HymnBegun p x a u ∧ ∀ r,
      r = answer 0x0B tag .ok (e8 0 ++ e32 (a.now + 10000) ++ e8 (runningOrder p x).length) u →
      exec (.planStartNow t tag [0]) s = .next r ∧ exec (.planStartNext t tag [1]) s = .next r) ∧
    (a.plan.play ≠ .idle → ∀ v, v = { a with drivers := { a.drivers with divisions := Vector.ofFn fun d =>
        { div a d with keys := Vector.ofFn fun k => { key a d k with
          holders := 0, fault := if (key a d k).fault = .clearedPending then .normal else (key a d k).fault } } } } →
      ∃ w u, HymnGone v w ∧ HymnBegun p x (idleReturns a (notice (hymnEndOf .replaced a) w)) u ∧
      exec (.planStartNow t tag [0]) s =
        .next (answer 0x0B tag .ok (e8 0 ++ e32 (a.now + 10000) ++ e8 (runningOrder p x).length) u))

/-- PLAN_START: a form outside NOW and NEXT is refused BAD_FIELD; a levelling run or a yield BUSY; a missing plan or a tune
that is not READY NOT_READY; nothing changes. NEXT while a hymn plays sets the queued flag, keeps the staged copy and the
hymn, and replies QUEUED, 1 by log 12. -/
def Obligations.PlanStartRefusesOrQueues : Prop :=
  ∀ (t : Time) (tag : Byte) (s : State), Listens s → ∀ a, a = arrive t s →
    (∀ form : Byte, 2 ≤ form.toNat → exec (.planStartNow t tag [form]) s = .next (answer 0x0B tag .badField [] a)) ∧
    (∀ st, (runActive a = true ∨ yielded a = true → st = Status.busy) →
      (runActive a = false ∧ yielded a = false → st = Status.notReady) →
      (runActive a = false → yielded a = false → ∀ p x, a.plan.staged = some p → slot a p.slot ≠ .ready x) →
      exec (.planStartNow t tag [0]) s = .next (answer 0x0B tag st [] a) ∧
      exec (.planStartNext t tag [1]) s = .next (answer 0x0B tag st [] a)) ∧
    (∀ p x, runActive a = false → yielded a = false → a.plan.staged = some p → slot a p.slot = .ready x →
      a.plan.play ≠ .idle → exec (.planStartNext t tag [1]) s =
        .next (answer 0x0B tag .ok (e8 1) { a with plan := { a.plan with queued := true } }))

/-- STOP NOW. In IDLE without a run it is refused NOT_PLAYING; with a run in DONE it replies OK and sets the ramps IDLE; with
any other run it also aborts the run: LEVEL_DONE with the cause STOP, DONE, and the stop change back to the saved stops. While
a hymn plays it clears the queued flag, releases every key, tears the hymn down and makes HYMN_END with the reason STOPPED. A
form outside NOW, LINE and VERSE is refused BAD_FIELD, also in IDLE (log 53). That the last match and the owed flag stand at a
hymn's end is the model's choice (log 25), as is HYMN_END's verse 0 when no segment started (log 35). That OK in DONE follows
R187, where R38 has any other STOP in IDLE refused, is log 51. An aborted run keeps its measured values and its other fields
(log 43, log 45, log 49) but has no phase deadline in DONE (log 54). Of a part that awaits
a rejoin point, YIELD released follows HYMN_END (log 56). -/
def Obligations.StopNowEnds : Prop :=
  ∀ (t : Time) (tag : Byte) (s : State), Listens s → ∀ a, a = arrive t s →
    (∀ form : Byte, 3 ≤ form.toNat → exec (.stopNow t tag [form]) s = .next (answer 0x0C tag .badField [] a)) ∧
    (a.plan.play = .idle → a.levelling.run = none → exec (.stopNow t tag [0]) s = .next (answer 0x0C tag .notPlaying [] a)) ∧
    (∀ r, a.plan.play = .idle → a.levelling.run = some r → ∀ v, v = { a with expression := { a.expression with
        shutters := Vector.ofFn fun d => { shutter a d with running := .idle, queued := none, uncounted := 0 } } } →
      (r.phase = .done → exec (.stopNow t tag [0]) s = .next (answer 0x0C tag .ok [] v)) ∧
      (r.phase ≠ .done → ∃ u, RunDone r (.aborted .stop r.phase r.measured) v u ∧
        exec (.stopNow t tag [0]) s = .next (answer 0x0C tag .ok [] u))) ∧
    (a.plan.play ≠ .idle → ∀ v, v = { a with
        plan := { a.plan with queued := false }
        drivers := { a.drivers with divisions := Vector.ofFn fun d => { div a d with keys := Vector.ofFn fun k =>
          { key a d k with
            holders := 0, fault := if (key a d k).fault = .clearedPending then .normal else (key a d k).fault } } } } →
      ∃ w, HymnGone v w ∧ exec (.stopNow t tag [0]) s =
        .next (answer 0x0C tag .ok [] (idleReturns a (notice (hymnEndOf .stopped a) w))))

/-- STOP LINE and STOP VERSE. In IDLE they are refused NOT_PLAYING. In SEGMENT the running order ends at the current line's end
or at the segment's own end; in REST at the end of the segment that has ended, and the play state becomes CLOSING; in STARTING
every segment goes and the play state becomes CLOSING; the hymn is marked stopped, and what was prepared beyond the cut is
dropped (a cursor taken from an event to after the segment: log 38; a KEY_OFF of a later segment whose KEY_ON has been issued
leaves too: log 57). In CLOSING nothing changes. -/
def Obligations.StopPartCuts : Prop :=
  ∀ (t : Time) (tag : Byte) (s : State), Listens s → ∀ a, a = arrive t s → ∀ v, v = syncRamps a →
    (a.plan.play = .idle → exec (.stopLine t tag [1]) s = .next (answer 0x0C tag .notPlaying [] a) ∧
      exec (.stopVerse t tag [2]) s = .next (answer 0x0C tag .notPlaying [] a)) ∧
    (∀ c g, a.plan.play = .segment → a.map.current = some c → currentSegment a = some g →
      ∀ line e, (e = if line = true then (match currentLine v with | some l => l.line.stop | none => g.sTo) else g.sTo) →
      ∃ w u, CutDone c e { v with plan := { v.plan with
          order := a.plan.order.take c ++ [{ g with sTo := min g.sTo e }], stopped := true } } w ∧
        rejoinLost (fun p => c < p.segment ∨ (p.segment = c ∧ e ≤ p.pos)) w u ∧
        (line = true → exec (.stopLine t tag [1]) s = .next (answer 0x0C tag .ok [] (settle a (mapChanged u)))) ∧
        (line = false → exec (.stopVerse t tag [2]) s = .next (answer 0x0C tag .ok [] (settle a (mapChanged u))))) ∧
    (∀ c g, a.plan.play = .rest → a.map.current = some c → currentSegment a = some g →
      ∃ w u, CutDone c g.sTo { v with plan := { v.plan with
          order := a.plan.order.take c ++ [g], stopped := true } } w ∧
        rejoinLost (fun p => c < p.segment ∨ (p.segment = c ∧ g.sTo ≤ p.pos)) w u ∧
        ∀ r, r = answer 0x0C tag .ok [] (settle a (mapChanged { u with plan := { u.plan with play := .closing } })) →
        exec (.stopLine t tag [1]) s = .next r ∧ exec (.stopVerse t tag [2]) s = .next r) ∧
    (a.plan.play = .starting →
      ∃ w u, w = { v with
          plan := { v.plan with order := [], play := .closing, startTime := none, stopped := true }
          queue := w.queue, map := { v.map with pauses := [] }
          follower := { v.follower with cues := [], lastPosted := none }
          expander := { v.expander with cursor := .none, carried := .all none, firstDone := false } } ∧
        w.queue = (a.queue.filterMap fun y => match y.action with
          | .keyOff d k o n _ => if a.queue.any fun z => z.action.onPair == some n then none
            else some { y with action := .keyOff d k o n none, issue := a.now }
          | .keyOn _ _ _ _ _ => none
          | .stopSet _ _ => none) ∧
        rejoinLost (fun _ => True) w u ∧
        ∀ r, r = answer 0x0C tag .ok [] (settle a (mapChanged u)) →
        exec (.stopLine t tag [1]) s = .next r ∧ exec (.stopVerse t tag [2]) s = .next r) ∧
    (a.plan.play = .closing → ∀ r, r = answer 0x0C tag .ok [] a →
      exec (.stopLine t tag [1]) s = .next r ∧ exec (.stopVerse t tag [2]) s = .next r)

/-- VERSES. Refused NOT_PLAYING in IDLE; BUSY in CLOSING, after a STOP, and in the AMEN segment; RANGE for a count below 1,
below the current verse or above 12; of several refusals the first of these answers, which is the model's choice (log 52).
Otherwise the active plan has the new verse count; the started segments and the introductions stay, verses after the current
one and the Amen are rebuilt; where the next segment differs, what was prepared beyond the current one is dropped, a rejoin
point there with it, and a rejoin point whose segment the rebuild removes is lost too (log 26), and so is a KEY_OFF there of
an issued KEY_ON (log 57); a REST with no next segment becomes CLOSING. The reply carries the number of segments. -/
def Obligations.VersesRebuilds : Prop :=
  ∀ (t : Time) (tag n : Byte) (s : State), Listens s → ∀ a, a = arrive t s → ∀ v, v = syncRamps a →
    (a.plan.play = .idle → exec (.verses t tag [n]) s = .next (answer 0x0D tag .notPlaying [] a)) ∧
    ∀ closed : Prop, (closed = (a.plan.play = .closing ∨ a.plan.stopped = true ∨
      ∃ g, currentSegment a = some g ∧ g.kind = .amen)) →
    ∀ verse k : Nat, (verse = if a.plan.play = .segment ∨ a.plan.play = .rest
      then (match currentSegment a with | some g => g.verse | none => 0) else 0) →
      (k = match a.map.current with | some c => c + 1 | none => 0) →
    (a.plan.play ≠ .idle → closed → exec (.verses t tag [n]) s = .next (answer 0x0D tag .busy [] a)) ∧
    (a.plan.play ≠ .idle → ¬closed → (n.toNat < 1 ∨ n.toNat < verse ∨ 12 < n.toNat) →
      exec (.verses t tag [n]) s = .next (answer 0x0D tag .range [] a)) ∧
    (∀ p x, a.plan.play ≠ .idle → ¬closed → 1 ≤ n.toNat → verse ≤ n.toNat → n.toNat ≤ 12 → a.plan.active = some p →
      slot a p.slot = .ready x →
      ∃ (order : List Segment) (w w' u : State),
        order = a.plan.order.take k ++ ((a.plan.order.drop k).filter fun g => g.kind == .intro) ++
          (List.range (n.toNat - verse)).map (fun j => verseSegment { p with verseCount := n.toNat } x
            ((a.plan.order.take k ++ (a.plan.order.drop k).filter fun g => g.kind == .intro).any fun g => g.kind == .intro)
            (verse + 1 + j)) ++ amenSegments { p with verseCount := n.toNat } x n.toNat ∧
        (∀ v', v' = { v with plan := { v.plan with active := some { p with verseCount := n.toNat }, order := order } } →
          (a.plan.order[k]? = order[k]? ∨ a.map.current = none → w = v') ∧
          (∀ c g, a.plan.order[k]? ≠ order[k]? → a.map.current = some c → order[c]? = some g → CutDone c g.sTo v' w)) ∧
        rejoinLost (fun q => order.length ≤ q.segment ∨ ∃ c g, a.plan.order[k]? ≠ order[k]? ∧ a.map.current = some c ∧
          order[c]? = some g ∧ (c < q.segment ∨ (q.segment = c ∧ g.sTo ≤ q.pos))) w w' ∧
        (u = if w'.plan.play = .rest ∧ nextSegment w' = none then { w' with plan := { w'.plan with play := .closing } } else w') ∧
        exec (.verses t tag [n]) s =
          .next (answer 0x0D tag .ok (e8 order.length) (settle a (mapChanged (advanceCursor u)))))

/-- TEMPO. A period outside 2000..20000 is refused BAD_FIELD, also in IDLE, which is the model's choice (log 53), and IDLE
NOT_PLAYING. Otherwise P becomes the period within the tune's limits and the last applied match is cleared; in SEGMENT with no
pause RUNNING the map is re-anchored at the present and the PLANNED pauses before it go; elsewhere the anchor stays; the map
change takes effect at once, a wait that had come and keeps its time staying an event of its own (log 8), and the reply
carries P and the tempo report. -/
def Obligations.TempoMovesPeriod : Prop :=
  ∀ (t : Time) (tag p1 p0 : Byte) (s : State), Listens s → ∀ a, a = arrive t s → ∀ p, p = p1.toNat * 256 + p0.toNat →
    (p < 2000 ∨ 20000 < p → exec (.tempo t tag [p1, p0]) s = .next (answer 0x0E tag .badField [] a)) ∧
    (2000 ≤ p → p ≤ 20000 → a.plan.play = .idle →
      exec (.tempo t tag [p1, p0]) s = .next (answer 0x0E tag .notPlaying [] a)) ∧
    (∀ x, 2000 ≤ p → p ≤ 20000 → a.plan.play ≠ .idle → activeTune a = some x →
      ∀ q, (q = if p < x.header.minimum then x.header.minimum else if x.header.maximum < p then x.header.maximum else p) →
      ∃ (anchor : Option Anchor) (pauses : List Pause),
        (∀ y, a.plan.play = .segment → runningPause a = none → positionNow a = some y →
          anchor = some ⟨a.now, y⟩ ∧ pauses = a.map.pauses.filter fun z =>
            z.isRunning || !(some z.segment == a.map.current && decide (z.pos < y))) ∧
        (a.plan.play ≠ .segment ∨ (runningPause a).isSome = true ∨ positionNow a = none →
          anchor = a.map.anchor ∧ pauses = a.map.pauses) ∧
        exec (.tempo t tag [p1, p0]) s = .next (answer 0x0E tag .ok (e16 q ++ e16 (roundNat 6000000 q))
          (settle a (mapChanged { syncRamps a with
            map := { a.map with anchor := anchor, pauses := pauses, period := q }
            follower := { a.follower with lastMatch := none } }))))

/-! ### Settings -/

/-- FOLLOW_SET and MIC_SET: the first field out of range refuses the request BAD_FIELD with its place (log 14), then a play
state other than IDLE or a levelling run refuses it BUSY, with nothing changed. An accepted FOLLOW_SET writes every setting
and the coast credit. An accepted MIC_SET writes the microphone's settings and the fallback temperature: a changed enable
starts the microphone afresh, a changed averaging starts a block with the next sample (log 10), a policy changed from GATE to
OPEN empties the gate list; T_use follows the fallback where it must. The byte 1 is on for enable (log 47). -/
def Obligations.FollowAndMicSet : Prop :=
  ∀ (t : Time) (tag : Byte) (b : List Byte) (s : State), Listens s → ∀ a, a = arrive t s →
    (b.length = 12 → ∀ ranges : List Prop, ranges = [3 ≤ byteAt b 0 ∧ byteAt b 0 ≤ 24, byteAt b 1 ≤ 16, byteAt b 2 ≤ 128,
        1 ≤ byteAt b 3 ∧ byteAt b 3 ≤ 8, 1 ≤ byteAt b 4 ∧ byteAt b 4 ≤ 4, 8000 ≤ wordAt b 5 ∧ wordAt b 5 ≤ 40000,
        100 ≤ wordAt b 7 ∧ wordAt b 7 ≤ 1000, 1 ≤ byteAt b 9 ∧ byteAt b 9 ≤ 8, 5000 ≤ wordAt b 10 ∧
        wordAt b 10 ≤ 50000] →
      (∀ place, FirstFails ranges place →
        exec (.followSet t tag b) s = .next (answer 0x0F tag .badField (e8 place) a)) ∧
      (AllHold ranges → (a.plan.play ≠ .idle ∨ runActive a = true) →
        exec (.followSet t tag b) s = .next (answer 0x0F tag .busy [] a)) ∧
      (AllHold ranges → a.plan.play = .idle → runActive a = false →
        exec (.followSet t tag b) s = .next (answer 0x0F tag .ok [] { a with follower := { a.follower with
          credit := byteAt b 3
          settings := ⟨byteAt b 0, byteAt b 1, byteAt b 2, byteAt b 3, byteAt b 4, wordAt b 5, wordAt b 7, byteAt b 9,
            wordAt b 10⟩ } }))) ∧
    (b.length = 17 → ∀ (fall : Int), fall = (if wordAt b 15 < 32768 then (wordAt b 15 : Int) else (wordAt b 15 : Int) - 65536) →
      ∀ ranges : List Prop, ranges = [byteAt b 0 ≤ 3, byteAt b 1 ≤ 1, wordAt b 2 ≤ 3000,
        byteAt b 4 = 4 ∨ byteAt b 4 = 8 ∨ byteAt b 4 = 16 ∨ byteAt b 4 = 32, 16 ≤ wordAt b 5 ∧ wordAt b 5 ≤ 2048,
        wordAt b 7 < wordAt b 5, 500 ≤ wordAt b 9 ∧ wordAt b 9 ≤ 5000, 2 ≤ byteAt b 11 ∧ byteAt b 11 ≤ 10,
        byteAt b 12 ≤ 1, 50 ≤ wordAt b 13 ∧ wordAt b 13 ≤ 2000, -100 ≤ fall ∧ fall ≤ 400] →
      (∀ place, FirstFails ranges place →
        exec (.micSet t tag b) s = .next (answer 0x10 tag .badField (e8 place) a)) ∧
      (AllHold ranges → (a.plan.play ≠ .idle ∨ runActive a = true) →
        exec (.micSet t tag b) s = .next (answer 0x10 tag .busy [] a)) ∧
      (AllHold ranges → a.plan.play = .idle → runActive a = false → ∀ m : MicNo, m.val = byteAt b 0 →
        ∃ (x : Mic) (u w : State),
          x.settings = ⟨byteAt b 1 == 1, wordAt b 2, byteAt b 4, wordAt b 5, wordAt b 7, wordAt b 9, byteAt b 11,
            if byteAt b 12 = 0 then .open_ else .gate, wordAt b 13⟩ ∧
          (x.settings.enable ≠ (mic a m).settings.enable →
            x = ⟨x.settings, a.now, true, none, none, false, none, []⟩) ∧
          (x.settings.enable = (mic a m).settings.enable → x = { mic a m with
            settings := x.settings
            blockFrom := if x.settings.averaging = (mic a m).settings.averaging then (mic a m).blockFrom else a.now
            fresh := if x.settings.averaging = (mic a m).settings.averaging then (mic a m).fresh else true
            gates := if (mic a m).settings.policy = .gate ∧ x.settings.policy = .open_ then [] else (mic a m).gates }) ∧
          u = { a with
            front := { a.front with mics := a.front.mics.set m x, fallback := fall }
            acoustic := { a.acoustic with inUse := inUseAfter a.acoustic.history fall a.acoustic.inUse } } ∧
          afterMove a u w ∧ exec (.micSet t tag b) s = .next (answer 0x10 tag .ok [] w)))

/-- DIVISION_SET: the first field out of range refuses it BAD_FIELD with its place, each microphone distance counted as a
field (log 14, log 40), then a play state other than IDLE or a levelling run BUSY. An accepted one writes every field of the
record; a division set absent has its stops retired and its change ended; its keys, and keys at or above the old or the new
compass, are NORMAL with counts 0; the ramps of a division that is not present and enclosed become IDLE; leads that move
retime the queue. The byte 1 is present (log 47). -/
def Obligations.DivisionSetWrites : Prop :=
  ∀ (t : Time) (tag : Byte) (b : List Byte) (s : State), Listens s → b.length = 26 → ∀ a, a = arrive t s →
    ∀ ranges : List Prop, ranges = [byteAt b 0 ≤ 5, byteAt b 1 ≤ 1, byteAt b 2 ≤ 1, 1 ≤ byteAt b 3 ∧
      byteAt b 3 ≤ (if byteAt b 2 = 1 then 32 else 61), byteAt b 4 ≤ 127, byteAt b 5 ≤ 1, wordAt b 6 ≤ 12000,
      wordAt b 8 ≤ 12000, wordAt b 10 ≤ 12000, wordAt b 12 ≤ 12000, wordAt b 14 ≤ 12000, wordAt b 16 ≤ 3000,
      wordAt b 18 ≤ 1000, 200 ≤ wordAt b 20 ∧ wordAt b 20 ≤ 4000, 1 ≤ wordAt b 22 ∧ wordAt b 22 ≤ 4095,
      wordAt b 24 ≤ wordAt b 22] →
    (∀ place, FirstFails ranges place → exec (.divisionSet t tag b) s = .next (answer 0x11 tag .badField (e8 place) a)) ∧
    (AllHold ranges → (a.plan.play ≠ .idle ∨ runActive a = true) →
      exec (.divisionSet t tag b) s = .next (answer 0x11 tag .busy [] a)) ∧
    (AllHold ranges → a.plan.play = .idle → runActive a = false → ∀ d : DivNo, d.val = byteAt b 0 →
      ∃ (x : Division) (sh : Shutter) (u w : State),
        x = ⟨byteAt b 1 == 1, if byteAt b 2 = 1 then .pedal else .manual, byteAt b 3, byteAt b 4, byteAt b 5 == 1, wordAt b 6,
          #v[wordAt b 8, wordAt b 10, wordAt b 12, wordAt b 14], wordAt b 16, wordAt b 18, wordAt b 20, wordAt b 22, wordAt b 24,
          (div a d).weights, if byteAt b 1 = 1 then (div a d).drawn else 0,
          if byteAt b 1 = 1 then (div a d).stopState else .settled, x.keys⟩ ∧
        (∀ k : KeyNo, x.keys[k] = if ((div a d).present = true ∧ byteAt b 1 = 0) ∨ byteAt b 3 ≤ k.val ∨
            (div a d).compass ≤ k.val
          then ⟨(key a d k).holders, .normal, 0, 0⟩ else key a d k) ∧
        (sh = if byteAt b 1 = 1 ∧ byteAt b 5 = 1 then shutter a d
          else { shutter a d with running := .idle, queued := none, uncounted := 0 }) ∧
        u = { a with
          drivers := { a.drivers with divisions := a.drivers.divisions.set d x }
          expression := { a.expression with shutters := a.expression.shutters.set d sh } } ∧
        afterMove a u w ∧ exec (.divisionSet t tag b) s = .next (answer 0x11 tag .ok [] w))

/-- STOPS_SET replaces a division's stop list, keeps the marks below the new count and retires the others; it is refused
BAD_FIELD with the place of the first field out of range, each weight counted as a field (log 14, log 40), then BUSY. A count
above 16 is a field out of range in a body of any length from 2 to 18, which is the model's choice (log 13). REGISTRATION_SET
replaces a set whole in every play state and changes no division; a set number above 7 refuses it. That a STOPS_SET is refused
BAD_FIELD before BUSY is the model's choice (log 48). -/
def Obligations.StopsAndRegistrationSet : Prop :=
  ∀ (t : Time) (tag : Byte) (b : List Byte) (s : State), Listens s → ∀ a, a = arrive t s →
    (∀ n : Nat, b.length = 2 + n → byteAt b 1 = n → n ≤ 16 → ∀ ranges : List Prop,
      (ranges = [byteAt b 0 ≤ 5, byteAt b 1 ≤ 16] ++
        (List.range n).map fun i => 1 ≤ byteAt b (2 + i) ∧ byteAt b (2 + i) ≤ 64) →
      (∀ place, FirstFails ranges place → exec (.stopsSet t tag b) s = .next (answer 0x12 tag .badField (e8 place) a)) ∧
      (AllHold ranges → (a.plan.play ≠ .idle ∨ runActive a = true) →
        exec (.stopsSet t tag b) s = .next (answer 0x12 tag .busy [] a)) ∧
      (AllHold ranges → a.plan.play = .idle → runActive a = false → ∀ d : DivNo, d.val = byteAt b 0 → ∃ x : Division,
        x = { div a d with weights := x.weights, drawn := x.drawn } ∧ x.weights.length = n ∧
        (∀ i : Nat, i < n → x.weights[i]? = some (byteAt b (2 + i))) ∧
        (∀ i : Nat, x.drawn.getLsbD i = (decide (i < n) && (div a d).drawn.getLsbD i)) ∧
        exec (.stopsSet t tag b) s = .next (answer 0x12 tag .ok []
          { a with drivers := { a.drivers with divisions := a.drivers.divisions.set d x } }))) ∧
    (∀ n : Nat, b.length = n → 16 < byteAt b 1 → 2 ≤ n → n ≤ 18 →
      exec (.stopsSet t tag b) s = .next (answer 0x12 tag .badField (e8 (if byteAt b 0 ≤ 5 then 1 else 0)) a)) ∧
    (b.length = 13 →
      (7 < byteAt b 0 → exec (.registrationSet t tag b) s = .next (answer 0x13 tag .badField [] a)) ∧
      ∀ g : Fin 8, byteAt b 0 = g.val → ∃ x : Vector StopSet 6,
        (∀ d : DivNo, (x[d]).toNat = wordAt b (1 + 2 * d.val)) ∧
        exec (.registrationSet t tag b) s = .next (answer 0x13 tag .ok []
          { a with drivers := { a.drivers with registrations := a.drivers.registrations.set g x } }))

/-- VOICING_SET replaces a voicing mode whole: for each voice two targets, each absent or a division and a shift of -2..2; and
CURVE_SET replaces the nine points of a loadable curve, after the steps of the su risen by then have been made with the points
as they stood (log 9). Both are accepted in every play state and while yielded; the first field out of range refuses them
BAD_FIELD with its place and nothing changed, each point of a curve counted as a field (log 14, log 40). -/
def Obligations.VoicingAndCurveSet : Prop :=
  ∀ (t : Time) (tag : Byte) (b : List Byte) (s : State), Listens s → ∀ a, a = arrive t s →
    (b.length = 31 → ∀ shiftAt : Nat → Int,
      (∀ i, shiftAt i = if byteAt b i < 128 then (byteAt b i : Int) else (byteAt b i : Int) - 256) →
      ∀ ranges : List Prop, (ranges = (byteAt b 0 ≤ 15) :: (List.range 10).flatMap fun j =>
        [byteAt b (1 + 3 * j) ≤ 1, byteAt b (1 + 3 * j) = 1 → byteAt b (2 + 3 * j) ≤ 5,
         byteAt b (1 + 3 * j) = 1 → -2 ≤ shiftAt (3 + 3 * j) ∧ shiftAt (3 + 3 * j) ≤ 2]) →
      (∀ place, FirstFails ranges place →
        exec (.voicingSet t tag b) s = .next (answer 0x14 tag .badField (e8 place) a)) ∧
      (AllHold ranges → ∀ m : Fin 16, m.val = byteAt b 0 → ∃ x : PerVoice Targets,
        (∀ v : Voice, ∀ j, j < 2 → ∀ i, i = 1 + 3 * (2 * v.code + j) → ∀ y,
          y = (if j = 0 then (x.get v).first else (x.get v).second) →
          (byteAt b i = 0 → y = none) ∧
          (byteAt b i = 1 → ∃ g : Target, y = some g ∧ g.division.val = byteAt b (i + 1) ∧ g.shift = shiftAt (i + 2))) ∧
        exec (.voicingSet t tag b) s = .next (answer 0x14 tag .ok []
          { a with expander := { a.expander with voicing := a.expander.voicing.set m x } }))) ∧
    (b.length = 10 → ∀ ranges : List Prop,
      (ranges = (3 ≤ byteAt b 0 ∧ byteAt b 0 ≤ 7) :: (List.range 9).map fun i => byteAt b (1 + i) ≤ 127) →
      (∀ place, FirstFails ranges place → exec (.curveSet t tag b) s = .next (answer 0x15 tag .badField (e8 place) a)) ∧
      (AllHold ranges → ∀ c : Fin 5, c.val + 3 = byteAt b 0 → ∃ x : Vector Nat 9, (∀ i : Fin 9, x[i] = byteAt b (1 + i.val)) ∧
        ∀ v, v = syncRamps a → exec (.curveSet t tag b) s = .next (answer 0x15 tag .ok []
          { v with expression := { v.expression with curves := a.expression.curves.set c x } })))

/-- EXPRESS: BAD_FIELD for a division, a form or a ramp field out of range, NOT_ENCLOSED for a division that is not present
and enclosed, BUSY while yielded. NOW places the ramp in the running slot, in DELAY with count 0, passing at once the states
whose count is 0, and empties the queued slot; NEXT places it in the queued slot, or in an IDLE running slot at once. The
reply carries the running state and whether a ramp is queued. -/
def Obligations.ExpressPlaces : Prop :=
  ∀ (t : Time) (tag : Byte) (b : List Byte) (s : State), Listens s → b.length = 10 → ∀ a, a = arrive t s →
    ∀ ranges : Prop, ranges = (byteAt b 0 ≤ 5 ∧ byteAt b 1 ≤ 1 ∧ AllHold (rampRanges b 2)) →
    (¬ranges → ∀ c, c = (if byteAt b 1 = 1 then Instr.expressNext t tag b else .expressNow t tag b) →
      exec c s = .next (answer 0x16 tag .badField [] a)) ∧
    (ranges → ∀ d : DivNo, d.val = byteAt b 0 →
      ∀ c, c = (if byteAt b 1 = 1 then Instr.expressNext t tag b else .expressNow t tag b) →
      ((div a d).present = false ∨ (div a d).enclosed = false →
        exec c s = .next (answer 0x16 tag .notEnclosed [] a)) ∧
      ((div a d).present = true → (div a d).enclosed = true → yielded a = true →
        exec c s = .next (answer 0x16 tag .busy [] a)) ∧
      ((div a d).present = true → (div a d).enclosed = true → yielded a = false →
        ∃ (r : Ramp) (sh : Shutter), spellsRamp b 2 r ∧
          (byteAt b 1 = 0 ∨ (shutter (syncRamps a) d).running = .idle →
            (0 < r.delay → sh = ⟨(shutter (syncRamps a) d).position, .active r .delay 0, none, 0⟩) ∧
            (r.delay = 0 → ∀ y, y = { shutter (syncRamps a) d with queued := none } →
              ∀ st, st = r.fromStep.getD (nearestStep a.expression r.curve y.position) →
              RunsAt r st 0 y sh (curveAt a.expression r.curve st))) ∧
          (byteAt b 1 = 1 → (shutter (syncRamps a) d).running ≠ .idle →
            sh = { shutter (syncRamps a) d with queued := some r }) ∧
          ∀ v, v = syncRamps a →
          exec c s = .next (answer 0x16 tag .ok (e8 sh.running.code ++ e8 (if sh.queued.isSome then 1 else 0))
            { v with expression := { v.expression with shutters := v.expression.shutters.set d sh } })))

/-! ### Levelling, yield, faults -/

/-- LEVEL: the first field out of range refuses it BAD_FIELD with its place; then a hymn, a yield or a run BUSY; then the
first of division, stop, key and microphone that is not there BAD_FIELD with its place (log 14). An accepted one creates the
run in SETUP with trial 1, no retry and no value, saves the drawn stops and begins the stop change to the test stop alone. That
SETUP has no phase deadline is the model's choice (log 54). -/
def Obligations.LevelBegins : Prop :=
  ∀ (t : Time) (tag : Byte) (b : List Byte) (s : State), Listens s → b.length = 7 → ∀ a, a = arrive t s →
    ∀ ranges : List Prop, ranges = [byteAt b 0 ≤ 5, byteAt b 1 ≤ 15, byteAt b 2 ≤ 60, byteAt b 3 ≤ 3,
      byteAt b 4 = 4 ∨ byteAt b 4 = 8 ∨ byteAt b 4 = 16, 3000 ≤ wordAt b 5 ∧ wordAt b 5 ≤ 20000] →
    (∀ place, FirstFails ranges place → exec (.level t tag b) s = .next (answer 0x17 tag .badField (e8 place) a)) ∧
    (AllHold ranges → (a.plan.play ≠ .idle ∨ yielded a = true ∨ runActive a = true) →
      exec (.level t tag b) s = .next (answer 0x17 tag .busy [] a)) ∧
    (AllHold ranges → a.plan.play = .idle → yielded a = false → runActive a = false →
      ∀ (d : DivNo) (k : KeyNo) (m : MicNo), d.val = byteAt b 0 → k.val = byteAt b 2 → m.val = byteAt b 3 →
      ∀ offers : List Prop, offers = [(div a d).present = true, byteAt b 1 < (div a d).weights.length,
        k.val < (div a d).compass, (mic a m).settings.enable = true] →
      (∀ place, FirstFails offers place → exec (.level t tag b) s = .next (answer 0x17 tag .badField (e8 place) a)) ∧
      (AllHold offers → ∃ x : Division, x = { div a d with
          drawn := x.drawn, stopState := .changing (a.now + BitVec.ofNat 32 (div a d).stopAction) } ∧
        (∀ i : Nat, x.drawn.getLsbD i = decide (i = byteAt b 1)) ∧
        exec (.level t tag b) s = .next (answer 0x17 tag .ok [] { a with
          drivers := { a.drivers with divisions := a.drivers.divisions.set d x }
          levelling := { a.levelling with run := some {
            division := d, stop := byteAt b 1, key := k, mic := m, trials := byteAt b 4, spacing := wordAt b 5
            saved := (div a d).drawn, phase := .setup, listening := false, good := false, trial := 1, retry := 0
            measured := [], quietStart := none, opening := none, deadline := none } } })))

/-- YIELD makes the LINK source present, and CT_TOUCH_HELD, when TOUCHING has lasted 50 tu with CT active, the PIN source and
the filter HELD. A part not YIELDED gives up the organ in that step; a YIELDED one changes nothing more. The closing
conditions are tested, and the YIELD reply carries the yield state after the request. With no current segment the granted
notice's segment and position are absent, which is the model's choice (log 24). HELD has no start time (log 50). -/
def Obligations.SourceTakesOrgan : Prop :=
  ∀ (t : Time) (s : State), ∀ a, a = arrive t s →
    (∀ tag, Listens s → ∀ v, v = { a with yielding := { a.yielding with link := true } } →
      ∃ w u, (yielded a = true → w = v) ∧ (yielded a = false → YieldTaken .link v w) ∧ closingTested w u ∧
        exec (.yield t tag []) s = .next (answer 0x18 tag .ok (e8 u.yielding.state.code) u)) ∧
    (∀ t0, Runs s → s.yielding.filter = .touching t0 → s.ct = true → atOrBefore (t0 + 50) a.now = true →
      ∀ v, v = { a with yielding := { a.yielding with filter := .held, pin := true } } →
      ∃ w u, (yielded a = true → w = v) ∧ (yielded a = false → YieldTaken .pin v w) ∧ closingTested w u ∧
        exec (.ctTouchHeld t) s = .next u)

/-- RESUME makes the LINK source absent, and CT_RELEASE_DELAY_END, when LEAVING has lasted the kept delay with CT inactive,
the PIN source absent and the filter QUIET. When that leaves a YIELDED part with no source, the part is released in IDLE, and
else becomes REJOINING at the first candidate that lies the margin ahead, or waits; otherwise nothing more changes. That the
margin is 6690 tu with no present division is the model's choice (log 22). The RESUME reply carries the yield state after the
request. QUIET has no start time (log 50). -/
def Obligations.SourceGivesBack : Prop :=
  ∀ (t : Time) (s : State), ∀ a, a = arrive t s →
    (∀ tag, Listens s → ∀ v, v = { a with yielding := { a.yielding with link := false } } →
      ∃ u, (yielded a = true ∧ a.yielding.link = true ∧ a.yielding.pin = false → SourcesGone v u) ∧
        (¬(yielded a = true ∧ a.yielding.link = true ∧ a.yielding.pin = false) → u = v) ∧
        exec (.resume t tag []) s = .next (answer 0x19 tag .ok (e8 u.yielding.state.code) u)) ∧
    (∀ t0 n, Runs s → s.yielding.filter = .leaving t0 n → s.ct = false →
      atOrBefore (t0 + BitVec.ofNat 32 n) a.now = true →
      ∀ v, v = { a with yielding := { a.yielding with filter := .quiet, pin := false } } →
      ∃ u, (yielded a = true ∧ a.yielding.pin = true ∧ a.yielding.link = false → SourcesGone v u) ∧
        (¬(yielded a = true ∧ a.yielding.pin = true ∧ a.yielding.link = false) → u = v) ∧
        exec (.ctReleaseDelayEnd t) s = .next u)

/-- CT_CHANGE to a level other than the present one: the CT filter moves as its state gives, LEAVING keeping the release delay
it reads; nothing else changes. REJOIN_TIME: at the rejoin event's time, or once the map has passed on to a later segment (log
44), the part becomes PLAYING_FREE with its YIELD rejoined notice. QUIET and HELD have no start time (log 50). -/
def Obligations.FilterAndRejoin : Prop :=
  ∀ (t : Time) (s : State), Runs s → ∀ a, a = arrive t s →
    (∀ level f, s.ct = !level →
      (level = true → f = match s.yielding.filter with
        | .quiet => CtFilter.touching a.now
        | .touching u => .touching u
        | .held => .held
        | .leaving _ _ => .held) →
      (level = false → f = match s.yielding.filter with
        | .quiet => CtFilter.quiet
        | .touching _ => .quiet
        | .held => .leaving a.now s.follower.settings.releaseDelay
        | .leaving u n => .leaving u n) →
      exec (.ctChange t level) s = .next { a with ct := level, yielding := { a.yielding with filter := f } }) ∧
    (∀ p, s.yielding.state = .rejoining → s.yielding.rejoin = some p →
      ((∃ time, positionTime a p.segment p.pos false = some time ∧ atOrBefore time a.now = true) ∨
        ∃ c, a.map.current = some c ∧ p.segment < c) →
      ∀ verse, (verse = match segmentAt a p.segment with | some g => g.verse | none => 0) →
      exec (.rejoinTime t) s = .next (notice (.yieldRejoined p.segment verse p.event p.pos a.now)
        { a with yielding := { a.yielding with state := .playingFree, rejoin := none } }))

/-- FAULT_CLEAR: a division above 5, a key at or above the compass other than ALL, or a debounce outside 1..8 refuses it
BAD_FIELD with nothing changed. Otherwise the debounce takes its new value; on a present division the counts of the named keys
become 0, OPEN_COIL becomes NORMAL, and SHORTED NORMAL, or CLEARED_PENDING while held; on an absent one nothing else changes.
The reply carries the number of keys whose fault state changed. -/
def Obligations.FaultClearResets : Prop :=
  ∀ (t : Time) (tag dv ky db : Byte) (s : State), Listens s → ∀ a, a = arrive t s →
    (5 < dv.toNat → exec (.faultClear t tag [dv, ky, db]) s = .next (answer 0x1A tag .badField [] a)) ∧
    ∀ d : DivNo, d.val = dv.toNat → ∀ ranges : Prop,
      (ranges = ((ky.toNat = 255 ∨ ky.toNat < (div a d).compass) ∧ 1 ≤ db.toNat ∧ db.toNat ≤ 8)) →
      (¬ranges → exec (.faultClear t tag [dv, ky, db]) s = .next (answer 0x1A tag .badField [] a)) ∧
      (ranges → ∃ x : Division, x = { div a d with keys := x.keys } ∧
        (∀ k : KeyNo, x.keys[k] =
          if (div a d).present = true ∧ (if ky.toNat = 255 then k.val < (div a d).compass else k.val = ky.toNat) then
            ⟨(key a d k).holders,
              match (key a d k).fault with
              | .openCoil => .normal
              | .shorted => if (key a d k).holders = 0 then .normal else .clearedPending
              | f => f, 0, 0⟩
          else key a d k) ∧
        exec (.faultClear t tag [dv, ky, db]) s = .next (answer 0x1A tag .ok
          (e8 ((allFin 61).filter fun k => decide (x.keys[k].fault ≠ (key a d k).fault)).length)
          { a with drivers := { a.drivers with divisions := a.drivers.divisions.set d x, debounce := db.toNat } }))

/-! ### The temperature and the microphones -/

/-- TEMP_READING, at a multiple of 10000 tu whose reading has not been taken: a valid reading clears the sensor-fault flag and
joins the history, pushing the oldest of eight out, and T_use follows the average where it differs by 5 or more, with the
retime that moved leads call for; a faulty one sets the flag and makes one FAULT notice, or, with the flag set, does nothing. -/
def Obligations.TempReadingTaken : Prop :=
  ∀ (t : Time) (r : BitVec 12) (s : State), Runs s → ∀ a, a = arrive t s → a.now.toNat % 10000 = 0 → a.marks.temp = false →
    ∀ b, b = { a with marks := { a.marks with temp := true } } →
    (16 ≤ r.toNat → r.toNat ≤ 4079 → ∃ (h : List Int) (w : State),
      (h = (if a.acoustic.history.length < 8 then a.acoustic.history else a.acoustic.history.drop 1) ++
        [((r.toNat * 5 / 16 : Nat) : Int) - 400]) ∧
      afterMove b { b with acoustic := ⟨h, inUseAfter h a.front.fallback a.acoustic.inUse, false⟩ } w ∧
      exec (.tempReading t r) s = .next w) ∧
    ((r.toNat ≤ 15 ∨ 4080 ≤ r.toNat) →
      (a.acoustic.sensorFault = false → exec (.tempReading t r) s =
        .next (notice (.tempFault r) { b with acoustic := { a.acoustic with sensorFault := true } })) ∧
      (a.acoustic.sensorFault = true → exec (.tempReading t r) s = .next b))

/-- ENVELOPE_BLOCK of an enabled microphone that is not a levelling run's, with the block whose turn it is (log 10): windows
that the block's time has passed leave; an unsettled floor takes the value and nothing is examined; else an ARMED detector
fires at the rise threshold, with an onset when the minimum gap has passed, and a FIRED one re-arms at the fall threshold, and
the floor then takes the value in. An onset held by a gate window is counted MASKED; any other joins the onset queue, or is
dropped and counted when it holds 16. TIME_STALE: a last firing 2^30 tu old becomes stale. -/
def Obligations.EnvelopeBlockHeard : Prop :=
  ∀ (t : Time) (m : MicNo) (first : Time) (xs : List (BitVec 12)) (s : State), Runs s → ∀ a, a = arrive t s →
    ∀ x env, x = mic a m →
    env = min 4095 (2 * (xs.map fun v => (v.toNat - 2048) + (2048 - v.toNat)).sum / xs.length) →
    (x.settings.enable = true → xs.length = x.settings.averaging → blockOk a.now first xs = true →
      blockInTurn x a.now first xs.length → (∀ r, a.levelling.run = some r → r.mic ≠ m) →
      ∃ (y : Mic) (u : State),
        y = { x with
          blockFrom := first + BitVec.ofNat 32 (xs.length * 5 / 4), fresh := false, envelope := some (env, first)
          floor := y.floor
          fired := y.fired, lastFiring := y.lastFiring, gates := x.gates.filter fun w => !isBefore w.closes first } ∧
        u = { a with front := { a.front with mics := a.front.mics.set m y } } ∧
        (x.floor = none → y.floor = some env ∧ y.fired = x.fired ∧ y.lastFiring = x.lastFiring ∧
          exec (.envelopeBlock t m first xs) s = .next u) ∧
        (∀ f, x.floor = some f →
          y.floor = some (if env < f then env else f + (env - f) / 2 ^ x.settings.floorShift) ∧
          (x.fired = true → (y.fired = true ↔ f + x.settings.fall < env) ∧ y.lastFiring = x.lastFiring ∧
            exec (.envelopeBlock t m first xs) s = .next u) ∧
          (x.fired = false → env < f + x.settings.rise → y.fired = false ∧ y.lastFiring = x.lastFiring ∧
            exec (.envelopeBlock t m first xs) s = .next u) ∧
          (∀ last, x.fired = false → f + x.settings.rise ≤ env → x.lastFiring = some last →
            diff a.now last < 2 ^ 30 → diff first last < x.settings.minimumGap →
            y.fired = true ∧ y.lastFiring = some last ∧ exec (.envelopeBlock t m first xs) s = .next u) ∧
          (x.fired = false → f + x.settings.rise ≤ env → (∀ last, x.lastFiring = some last →
              2 ^ 30 ≤ diff a.now last ∨ x.settings.minimumGap ≤ diff first last) →
            y.fired = true ∧ y.lastFiring = some first ∧
            ∀ held : Prop, (held = (x.settings.policy = .gate ∧
              ∃ w ∈ y.gates, atOrBefore w.opens first = true ∧ atOrBefore first w.closes = true)) →
            (held → exec (.envelopeBlock t m first xs) s =
              .next { u with counters := { u.counters with masked := bump u.counters.masked } }) ∧
            (¬held → a.front.onsets.length < 16 → exec (.envelopeBlock t m first xs) s =
              .next { u with front := { u.front with onsets := a.front.onsets ++ [⟨first, m, env - f⟩] } }) ∧
            (¬held → 16 ≤ a.front.onsets.length → exec (.envelopeBlock t m first xs) s =
              .next { u with counters := { u.counters with onsetsDropped := bump u.counters.onsetsDropped } })))) ∧
    (∀ last, x.lastFiring = some last → 2 ^ 30 ≤ diff a.now last → exec (.timeStale t m) s =
      .next { a with front := { a.front with mics := a.front.mics.set m { x with lastFiring := none } } })

/-! ### The Tempo Follower -/

/-- ONSET_TAKEN takes the oldest onset and corrects it by its microphone's travel to the choir. In OFF, LEAD and FERMATA, while
a pause runs, and while yielded it counts IGNORED; near a MATCHED record of the current segment DUPLICATE; with no PENDING cue
of the current segment containing it UNMATCHED; none of these changes more. Otherwise the containing cue of the smallest
error, the earlier in the list, wins: the PENDING cues of the segment before it are passed over one at a time, and the match
acts as the mode then gives. -/
def Obligations.OnsetTaken : Prop :=
  ∀ (t : Time) (s : State) (o : Onset) (rest : List Onset), Runs s → s.front.onsets = o :: rest → ∀ a, a = arrive t s →
    ∀ v tOn, v = { syncRamps a with front := { a.front with onsets := rest } } →
    tOn = addTu o.tObs (-(travel a (mic a o.mic).settings.choirDistance : Int)) →
    ∀ ignored : Prop, (ignored = (a.follower.mode = .off ∨ a.follower.mode = .lead ∨ a.follower.mode = .fermata ∨
      (runningPause a).isSome = true ∨ yielded a = true)) →
    (ignored → exec (.onsetTaken t) s =
      .next { v with counters := { v.counters with ignored := bump v.counters.ignored } }) ∧
    (¬ignored → ∀ duplicate : Prop, (duplicate = (∃ c ∈ a.follower.cues, c.state ≠ .pending ∧ a.map.current = some c.segment ∧
        ∃ u, currentTime a c.pos true = some u ∧
          (diff tOn u).natAbs ≤ windowFor a.follower.settings.win a.map.period c.kind)) →
      (duplicate → exec (.onsetTaken t) s =
        .next { v with counters := { v.counters with duplicate := bump v.counters.duplicate } }) ∧
      (¬duplicate → ∀ holds : Cue → Prop, (∀ c, holds c = (IsAwaited a c ∧
          (∀ z ∈ a.map.pauses, ¬(z.segment = c.segment ∧ z.pos = c.pos)) ∧ ∃ u, currentTime a c.pos true = some u ∧
          (diff tOn u).natAbs ≤ windowFor a.follower.settings.win a.map.period c.kind)) →
        ((∀ c ∈ a.follower.cues, ¬holds c) → exec (.onsetTaken t) s =
          .next { v with counters := { v.counters with unmatched := bump v.counters.unmatched } }) ∧
        (∀ before c after time, a.follower.cues = before ++ c :: after → holds c → currentTime a c.pos true = some time →
          (∀ z ∈ before, holds z → ∃ u, currentTime a z.pos true = some u ∧ (diff tOn time).natAbs < (diff tOn u).natAbs) →
          (∀ z ∈ after, holds z → ∃ u, currentTime a z.pos true = some u ∧ (diff tOn time).natAbs ≤ (diff tOn u).natAbs) →
          ∃ (passed : List Cue) (chain : List State) (w u : State),
            passed = before.filter (fun z => decide (z.state = .pending ∧ a.map.current = some z.segment)) ∧
            chain.length = passed.length + 1 ∧
            chain.head? = some { v with follower := { v.follower with
              cues := before.filter (fun z => !decide (z.state = .pending ∧ a.map.current = some z.segment)) ++ c :: after } } ∧
            (∀ (i : Nat) (z : Cue) (x y : State), passed[i]? = some z → chain[i]? = some x → chain[i + 1]? = some y →
              MissCounted z x y) ∧
            chain.getLast? = some w ∧ MatchTaken c tOn (diff tOn time) w u ∧
            exec (.onsetTaken t) s = .next (mapMoved a u))))

/-- CUE_EXPIRY: the first PENDING cue of the current segment whose time plus window is not after the present leaves the list,
is counted MISSED and costs what its kind and the mode give; a RE_ENTRY kind passes to the next PENDING cue of the segment in
the list, or is owed, in every mode (log 37). MATCHED_RECORD_REMOVAL: the first MATCHED record whose removal time has come
leaves, and nothing else changes. -/
def Obligations.CuesLeave : Prop :=
  ∀ (t : Time) (s : State), Runs s → ∀ a, a = arrive t s → ∀ before c after, a.follower.cues = before ++ c :: after →
    (∀ expired : Cue → Prop, (∀ z, expired z = (IsAwaited a z ∧ ∃ u, currentTime a z.pos true = some u ∧
        atOrBefore (u + BitVec.ofNat 32 (windowFor a.follower.settings.win a.map.period z.kind)) a.now = true)) →
      (∀ z ∈ before, ¬expired z) → expired c →
      ∃ u, MissCounted c { a with follower := { a.follower with cues := before ++ after } } u ∧
        (c.kind = .normal → exec (.cueExpiry t) s = .next u) ∧
        (c.kind = .reEntry →
          (∀ x z y, after = x ++ z :: y → IsAwaited a z → (∀ n ∈ x, ¬IsAwaited a n) → exec (.cueExpiry t) s =
            .next { u with follower := { u.follower with cues := before ++ x ++ { z with kind := .reEntry } :: y } }) ∧
          ((∀ z ∈ after, ¬IsAwaited a z) → exec (.cueExpiry t) s =
            .next { u with follower := { u.follower with owed := true } }))) ∧
    (∀ due : Cue → Prop, (∀ z, due z = ∃ x y, z.state = .matched x y ∧ atOrBefore y a.now = true) →
      (∀ z ∈ before, ¬due z) → due c → exec (.matchedRecordRemoval t) s =
        .next { a with follower := { a.follower with cues := before ++ after } })

/-- PAUSE_START: a PLANNED pause of the current segment whose time has come, while none runs, becomes RUNNING with its
extension frozen at P; the map is anchored there, the MATCHED records of the segment leave, and FOLLOW becomes FERMATA.
PAUSE_END: the RUNNING pause leaves, the map is anchored at its end, PLANNED pauses before it leave, in a FOLLOW segment the
first PENDING cue at or after it becomes RE_ENTRY or the re-entry is owed, and FERMATA returns to FOLLOW with its credit. Each
is a map change, which takes effect at once. -/
def Obligations.PausesHold : Prop :=
  ∀ (t : Time) (s : State), Runs s → ∀ a, a = arrive t s → ∀ v, v = syncRamps a →
    (∀ before p after u, a.map.pauses = before ++ p :: after → runningPause a = none → p.state = .planned →
      a.map.current = some p.segment → currentTime a p.pos false = some u → atOrBefore u a.now = true →
      (∀ q ∈ before, q.state = .planned → a.map.current = some q.segment → ∀ y, currentTime a q.pos false = some y →
        atOrBefore y a.now = false) → p ∉ before → p ∉ after →
      ∀ ext, ext = roundNat (p.len * ((match a.plan.active with | some x => x.factor | none => 8) - 8) * a.map.period) 384 →
      exec (.pauseStart t) s = .next (settle a (mapChanged { v with
        map := { a.map with
          anchor := some ⟨u, p.pos⟩
          pauses := before ++ [{ p with state := .running ext }] ++ after }
        follower := { a.follower with
          mode := if a.follower.mode = .follow then .fermata else a.follower.mode
          cues := a.follower.cues.filter fun c => decide (c.state = .pending ∨ a.map.current ≠ some c.segment) } }))) ∧
    (∀ before p after ext u, a.map.pauses = before ++ p :: after → p.state = .running ext → a.map.current = some p.segment →
      (∀ q ∈ before, q.isRunning = true → a.map.current ≠ some q.segment) → p ∉ before → p ∉ after →
      currentTime a p.pos true = some u → atOrBefore u a.now = true →
      ∃ (cues : List Cue) (owed : Bool),
        (¬(∃ g, currentSegment a = some g ∧ g.follow = .follow) → cues = a.follower.cues ∧ owed = a.follower.owed) ∧
        ((∃ g, currentSegment a = some g ∧ g.follow = .follow) →
          (∀ x c y, a.follower.cues = x ++ c :: y → IsAwaited a c → p.pos ≤ c.pos →
            (∀ z ∈ x, IsAwaited a z → z.pos < p.pos) →
            cues = x ++ { c with kind := .reEntry } :: y ∧ owed = a.follower.owed) ∧
          ((∀ z ∈ a.follower.cues, IsAwaited a z → z.pos < p.pos) → cues = a.follower.cues ∧ owed = true)) ∧
        exec (.pauseEnd t) s = .next (settle a (mapChanged { v with
          map := { a.map with
            anchor := some ⟨u, p.pos⟩
            pauses := (before ++ after).filter fun z =>
              z.isRunning || !(some z.segment == a.map.current && decide (z.pos < p.pos)) }
          follower := { a.follower with
            mode := if a.follower.mode = .fermata then .follow else a.follower.mode
            cues := cues
            owed := owed } })))

/-! ### Segments, lines and the end of a hymn -/

/-- SEGMENT_START at the next segment's start time in STARTING or REST: the ramps count up to the clock at the start, the
follower drops what belongs to earlier segments, anchors the map at the start, takes the mode of the follow flag and clears
its last match and owed re-entry; the play state becomes SEGMENT; the segment's ramp starts on each present and enclosed
division unless the part is yielded, with a delay of 0 in RUN at once, where a part that finds its rejoin point at this start
still counts as yielded (log 58); the SEGMENT notice is made and then the LINE_AHEAD notices already due; the cursor moves on,
which a yielded part's does too by the model's choice (log 32); the map change takes effect at once. -/
def Obligations.SegmentStarts : Prop :=
  ∀ (t : Time) (s : State) (i : Nat) (g : Segment) (start : Time), Runs s → ∀ a, a = arrive t s →
    (a.plan.play = .starting ∨ a.plan.play = .rest) → nextIndex a = some i → nextSegment a = some g →
    nextStart a = some start → atOrBefore start a.now = true →
    ∀ clock : Nat, (a.plan.play = .starting → clock = 0) →
    (∀ h, a.plan.play = .rest → currentSegment a = some h → clock = a.plan.clockBase + (h.sTo - h.sFrom) + 48 * g.restBefore) →
    (a.plan.play = .rest → currentSegment a ≠ none) →
    ∃ w n u z : State,
      w.plan = { a.plan with
        play := .segment, startTime := none, clockBase := clock, clockShown := max a.plan.clockShown clock, linesSent := [] } ∧
      w.map = { a.map with
        current := some i, anchor := some ⟨start, g.sFrom⟩, pauses := a.map.pauses.filter fun p => decide (i ≤ p.segment) } ∧
      w.follower = { a.follower with
        mode := if g.follow = .follow then .follow else .lead, credit := a.follower.settings.allowance, rejoinRun := 0
        lastMatch := none, owed := false, cues := a.follower.cues.filter fun c => decide (i ≤ c.segment) } ∧
      w.counters = { a.counters with missed := w.counters.missed } ∧ w.counters.missed = bumpBy
        (a.follower.cues.filter fun c => decide (c.segment < i ∧ c.state = .pending)).length a.counters.missed ∧
      (∀ d, (g.ramp = none ∨ yielded a = true ∨ enclosed a d = false →
          shutter w d = shutter (countAll (raiseClock clock a)) d) ∧
        (∀ r, g.ramp = some r → yielded a = false → enclosed a d = true → 0 < r.delay →
          shutter w d = ⟨(shutter (countAll (raiseClock clock a)) d).position, .active r .delay 0, none, 0⟩) ∧
        (∀ r, g.ramp = some r → yielded a = false → enclosed a d = true → r.delay = 0 → 0 < r.stepLength →
          ∀ y, y = { shutter (countAll (raiseClock clock a)) d with queued := none } →
          ∀ st, st = r.fromStep.getD (nearestStep a.expression r.curve y.position) →
          RunsAt r st 0 y (shutter w d) (curveAt a.expression r.curve st))) ∧
      { w with
        plan := a.plan, map := a.map, follower := a.follower, counters := a.counters
        expression := { w.expression with shutters := a.expression.shutters } } = a ∧
      n = notice (.segment i g.kind g.verse g.sFrom g.sTo a.plan.order.length start a.map.period g.follow) w ∧
      u = (dueLines n).foldl sendLine n ∧ CursorStarted i u z ∧
      exec (.segmentStart t) s = .next (settle a (mapChanged z))

/-- SEGMENT_END at the current segment's end, once no pause of it is PLANNED (log 18): the ramps count up to the clock at the
end, a RUNNING pause ends as PAUSE_END has it, the map is anchored at the end, the segment's cues leave and its PENDING ones
are counted MISSED, and the mode becomes LEAD. The play state becomes CLOSING with no next segment, REST before one with a
rest, and one without a rest starts at the same moment (a waiting part's ramp there: log 58). -/
def Obligations.SegmentEnds : Prop :=
  ∀ (t : Time) (s : State) (g : Segment) (stop : Time), Runs s → ∀ a, a = arrive t s → a.plan.play = .segment →
    (∀ p ∈ a.map.pauses, p.state = .planned → a.map.current ≠ some p.segment) → currentSegment a = some g →
    currentTime a g.sTo true = some stop → atOrBefore stop a.now = true →
    ∃ (w : State) (time : Time) (owed : Bool),
      (runningPause a = none → time = stop ∧ owed = a.follower.owed) ∧
      (∀ p u, runningPause a = some p → (∀ q ∈ a.map.pauses, a.map.current = some q.segment → q = p) →
        currentTime a p.pos true = some u →
        time = addTu u (roundDiv (((g.sTo : Int) - p.pos) * a.map.period) 48) ∧
        (owed = true ↔ a.follower.owed = true ∨
          (g.follow = .follow ∧ ∀ c ∈ a.follower.cues, IsAwaited a c → c.pos < p.pos))) ∧
      w.map = { a.map with
        anchor := some ⟨time, g.sTo⟩, pauses := a.map.pauses.filter fun p => decide (a.map.current ≠ some p.segment) } ∧
      w.follower = { a.follower with
        mode := .lead, credit := a.follower.settings.allowance, rejoinRun := 0, owed := owed
        cues := a.follower.cues.filter fun c => decide (a.map.current ≠ some c.segment) } ∧
      w.counters = { a.counters with missed := w.counters.missed } ∧ w.counters.missed = bumpBy
        (a.follower.cues.filter fun c => decide (a.map.current = some c.segment ∧ c.state = .pending)).length
        a.counters.missed ∧
      w.plan = { a.plan with clockShown := max a.plan.clockShown (a.plan.clockBase + (g.sTo - g.sFrom)) } ∧
      w.expression = (countAll (raiseClock (a.plan.clockBase + (g.sTo - g.sFrom)) a)).expression ∧
      { w with map := a.map, follower := a.follower, counters := a.counters, plan := a.plan, expression := a.expression } = a ∧
      (nextSegment a = none → exec (.segmentEnd t) s =
        .next (settle a (mapChanged { w with plan := { w.plan with play := .closing } }))) ∧
      (∀ h, nextSegment a = some h → 0 < h.restBefore → exec (.segmentEnd t) s =
        .next (settle a (mapChanged { w with plan := { w.plan with play := .rest } }))) ∧
      (∀ h, nextSegment a = some h → h.restBefore = 0 → exec (.segmentEnd t) s = .next (settle a (startSegment (retime w))))

/-- The lines of a segment: of the tune's line table those whose ranges lie within it, with their numbers; of an Amen those
formed from the Amen events, numbered from 1. The current line in SEGMENT is the first of the current segment whose end is at
or after s(now); elsewhere there is none. LINE_AHEAD: the first line of the current segment whose due time, its release-side
end less the line-ahead lead in beats, has come and whose notice has not been sent for this segment has its notice made, with
the beats left in the segment, and is recorded as sent; nothing else changes. -/
def Obligations.LineAheadNotifies : Prop :=
  ∀ (t : Time) (s : State), ∀ a, a = arrive t s →
    (∀ (g : Segment) (x : Tune), activeTune a = some x →
      (segmentLines a g).Pairwise (fun l m => l.number < m.number) ∧
      ∀ table : List Line, (g.kind ≠ .amen → table = x.lines) →
        (g.kind = .amen → x.amen = none → table = []) →
        (∀ m, g.kind = .amen → x.amen = some m → LinesOf (x.events.drop m.firstEvent) m.firstEvent m.start table) →
        ∀ (n : Nat) (l : Line), (⟨n, l⟩ ∈ segmentLines a g ↔
          1 ≤ n ∧ table[n - 1]? = some l ∧ g.sFrom ≤ l.start ∧ l.stop ≤ g.sTo)) ∧
    (a.plan.play ≠ .segment → currentLine a = none) ∧
    (∀ g y, a.plan.play = .segment → currentSegment a = some g → positionNow a = some y →
      (∀ before l after, segmentLines a g = before ++ l :: after → (∀ z ∈ before, z.line.stop < y) → y ≤ l.line.stop →
        currentLine a = some l) ∧
      ((∀ z ∈ segmentLines a g, z.line.stop < y) → currentLine a = none)) ∧
    ∀ (c : Nat) (g : Segment) before l after, Runs s → a.plan.play = .segment → a.map.current = some c →
      currentSegment a = some g → segmentLines a g = before ++ l :: after →
      ∀ due : NumberedLine → Prop, (∀ z, due z = (z.number ∉ a.plan.linesSent ∧ ∃ u, currentTime a z.line.stop true = some u ∧
        atOrBefore (addTu u (-(a.follower.settings.lineLead * a.map.period : Nat))) a.now = true)) →
      (∀ z ∈ before, ¬due z) → due l →
      exec (.lineAhead t) s = .next (notice (.lineAhead c g.verse l.number ((g.sTo - l.line.stop) / 48))
        { a with plan := { a.plan with linesSent := a.plan.linesSent ++ [l.number] } })

/-- HYMN_CLOSE, in CLOSING with no key entry queued, no key held, and nothing left to expand or the part yielded: the play state
becomes IDLE with all that goes with it, HYMN_END carries STOPPED for a stopped hymn and COMPLETED otherwise, a part on its way
back to the organ is released, and then a queued plan starts unless the part is yielded. That the last match and the owed flag
stand at a hymn's end is the model's choice (log 25), as is HYMN_END's verse 0 when no segment started (log 35), and
HYMN_END before YIELD released of a part that awaits a rejoin point (log 56). -/
def Obligations.HymnCloses : Prop :=
  ∀ (t : Time) (s : State), Runs s → ∀ a, a = arrive t s → a.plan.play = .closing →
    (∀ e ∈ a.queue, ∃ d r, e.action = .stopSet d r) → (∀ d k, (key a d k).holders = 0) →
    ((∃ c, a.expander.cursor = .after c ∧ a.plan.order.length ≤ c + 1) ∨
      (a.expander.cursor = .none ∧ a.plan.order = []) ∨ yielded a = true) →
    ∃ w u : State, HymnGone a w ∧
      u = idleReturns a (notice (hymnEndOf (if a.plan.stopped then .stopped else .completed) a) w) ∧
      (a.plan.queued = false ∨ yielded u = true → exec (.hymnClose t) s = .next u) ∧
      (∀ p x, a.plan.queued = true → yielded u = false → a.plan.staged = some p → slot a p.slot = .ready x →
        ∃ z, HymnBegun p x u z ∧ exec (.hymnClose t) s = .next z)

/-! ### Ramps -/

/-- IDLE_CLOCK_TICK, at a multiple of 200 tu in IDLE whose tick has not been taken: each active ramp counts one su, and the su
that completes a count brings the transition; an IDLE slot stays. RAMP_DELAY_END, RAMP_STEP and RAMP_HOLD_END, on a division
whose ramp stands in that state with its count complete on the play clock: that ramp makes its transition, with the su beyond
the count left to be counted; the other divisions stay, and no position moves but as the transition gives. -/
def Obligations.RampsCount : Prop :=
  ∀ (t : Time) (s : State), Runs s → ∀ a, a = arrive t s →
    (a.plan.play = .idle → a.now.toNat % 200 = 0 → a.marks.idle = false → ∃ y : Vector Shutter 6,
      (∀ d, (shutter a d).running = .idle → (shutter a d).uncounted = 0 → y[d] = shutter a d) ∧
      (∀ (d : DivNo) r phase c, (shutter a d).running = .active r phase c → (shutter a d).uncounted = 0 →
        (∀ step, phase = .run step → step ≠ r.toStep) →
        (c + 1 < rampCount r phase → y[d] = { shutter a d with running := .active r phase (c + 1) }) ∧
        (c + 1 = rampCount r phase → 0 < r.stepLength → RampMoves a.expression r phase 0 (shutter a d) y[d])) ∧
      exec (.idleClockTick t) s = .next { a with
        marks := { a.marks with idle := true }, expression := { a.expression with shutters := y } }) ∧
    (∀ (d : DivNo) r phase c, (shutter (readClock a) d).running = .active r phase c →
      (∀ step, phase = .run step → step ≠ r.toStep) → rampCount r phase - c ≤ (shutter (readClock a) d).uncounted →
      0 < r.stepLength → ∃ sh : Shutter,
        RampMoves a.expression r phase ((shutter (readClock a) d).uncounted - (rampCount r phase - c))
          (shutter (readClock a) d) sh ∧
        ∀ v, v = { readClock a with
          expression := { a.expression with shutters := (readClock a).expression.shutters.set d sh } } →
        (phase = .delay → exec (.rampDelayEnd t d) s = .next v) ∧
        (∀ step, phase = .run step → exec (.rampStep t d) s = .next v) ∧
        (phase = .hold → exec (.rampHoldEnd t d) s = .next v))

/-! ### Expansion and the Dispatch Queue -/

/-- EXPANSION of the event under the cursor, within the horizon, with room for it, in a part that is not yielded: a FERMATA
event of a plan with a factor above 8 plans its pause once (log 17); a CUE event of a FOLLOW segment posts a PENDING cue; each
sounded target of a present division that no tie carries, in order, gives a pair with the next free number on its folded key,
from the event's position to the end of its chain of ties less the breath, and each of an absent division counts NO_DIVISION;
each new KEY_ON becomes the follow-on of the latest KEY_OFF it may follow (log 30); the first expansion of a later segment
writes a STOP_SET at the end of the segment before for each present division, and no other, whose requested stops (log 31)
differ from its registration's; the queue is retimed with exactly these entries added, and LATE counts each new entry placed at
or before the present and each old one that the retime moves there; the ramps count up to the clock; the cursor moves on with
the voices tied into the next event; what falls due at once is acted on. -/
def Obligations.ExpansionWrites : Prop :=
  ∀ (t : Time) (s : State) (g i : Nat) (seg : Segment) (e : Event) (later : List Event) (u : Time), Runs s →
    ∀ a, a = arrive t s → a.expander.cursor = .at_ g i → segmentAt a g = some seg → (activeEvents a).drop i = e :: later →
    yielded a = false → positionTime a g e.pos false = some u →
    atOrBefore u (a.now + BitVec.ofNat 32 a.follower.settings.horizon) = true → a.queue.length + 26 ≤ 256 →
    (e.cue = true → seg.follow = .follow → a.follower.cues.length < 32) →
    (e.fermata = true → 8 < activeFactor a → a.map.pauses.length < 4) →
    ∃ (w : State) (nums : List (BitVec 16)) (linked stops pairs old new : List Entry) (queues : List (List Entry))
      (fold : Target → Nat → Nat) (last : Voice → Event) (wanted : DivNo → StopSet),
      (∀ p, p = Pause.mk g (e.pos + e.len) e.len .planned → e.fermata = true → 8 < activeFactor a →
        ((∀ q ∈ a.map.pauses, ¬(q.segment = p.segment ∧ q.pos = p.pos)) → w.map.pauses.Perm (p :: a.map.pauses)) ∧
        ((∃ q ∈ a.map.pauses, q.segment = p.segment ∧ q.pos = p.pos) → w.map = a.map)) ∧
      (¬(e.fermata = true ∧ 8 < activeFactor a) → w.map = a.map) ∧ w.map = { a.map with pauses := w.map.pauses } ∧
      (¬(e.cue = true ∧ seg.follow = .follow) → w.follower = a.follower) ∧
      (e.cue = true → seg.follow = .follow → ∃ kind,
        (kind = .reEntry ↔ a.follower.lastPosted ≠ some g ∨ (a.map.current = some g ∧ a.follower.owed = true) ∨
          (a.yielding.state = .rejoining ∧ ∃ p, a.yielding.rejoin = some p ∧ p.segment = g ∧ p.event = i)) ∧
        w.follower = { a.follower with
          cues := a.follower.cues ++ [⟨g, i, e.pos, kind, .pending⟩], lastPosted := some g
          owed := a.follower.owed && !(kind == .reEntry && a.map.current == some g) }) ∧
      (∀ kept, kept = (askedTargets a seg e).filter (fun x => (div a x.2.2.division).present) →
        nums.length = kept.length ∧
        pairsTaken (fun n => ∃ x ∈ a.queue, x.action.onPair = some n ∨ x.action.offPair = some n) a.expander.pairCounter nums
          w.expander.pairCounter ∧
        (∀ x : Target, ∀ p : Nat, foldsTo (div a x.division).compass ((p : Int) + 12 * x.shift - (div a x.division).base)
          (fold x p)) ∧
        (∀ v : Voice, chainEnds seg v (e :: later) (last v)) ∧
        pairs = (kept.zip nums).flatMap fun x =>
          [⟨.keyOn x.1.2.2.division (toFin 61 (fold x.1.2.2 x.1.2.1)) x.1.1 x.2 none, g, e.pos, a.now⟩,
           ⟨.keyOff x.1.2.2.division (toFin 61 (fold x.1.2.2 x.1.2.1)) x.1.1 x.2 none, g,
             releasePosition (activeFactor a) (activeBreath a) (last x.1.1), a.now⟩]) ∧
      (∀ d, requestedOf a d (wanted d)) ∧
      (g = 0 ∨ a.expander.firstDone = true → stops = []) ∧
      (∀ (g' : Nat) (prev : Segment), g = g' + 1 → segmentAt a g' = some prev → a.expander.firstDone = false →
        stops = ([(0 : DivNo), 1, 2, 3, 4, 5].filter fun d =>
            (div a d).present && decide (drawnBy a seg.registration d ≠ wanted d)).map fun d =>
          ⟨.stopSet d (drawnBy a seg.registration d), g', prev.sTo, a.now⟩) ∧
      (∀ ons, ons = pairs.filter (fun x => x.action.onPair.isSome) →
        queues.length = ons.length + 1 ∧ queues.head? = some a.queue ∧ queues.getLast? = some linked ∧
        ∀ (n : Nat) (x : Entry) (q q' : List Entry), ons[n]? = some x → queues[n]? = some q → queues[n + 1]? = some q' →
          linksOn x q q') ∧
      w.queue = (retime { w with queue := linked ++ stops ++ pairs }).queue ∧
      retimeList w (linked ++ stops ++ pairs) = old ++ new ∧ old.length = linked.length ∧
      w.counters.late = bumpBy (((linked.zip old).filter fun x => x.1.issue != x.2.issue && atOrBefore x.2.issue a.now).length +
        (new.filter fun x => atOrBefore x.issue a.now).length) a.counters.late ∧
      w.plan.clockShown = (syncRamps a).plan.clockShown ∧ w.expression.shutters = (syncRamps a).expression.shutters ∧
      w.counters.noDivision = bumpBy ((askedTargets a seg e).filter fun x => !(div a x.2.2.division).present).length
        a.counters.noDivision ∧
      w.expander.cursor = (match later with
        | f :: _ => if seg.sFrom ≤ f.pos ∧ f.pos < seg.sTo then .at_ g (i + 1) else .after g
        | [] => .after g) ∧
      w.expander.firstDone = true ∧ w.expander.voicing = a.expander.voicing ∧
      (∀ v : Voice, w.expander.carried.get v = match later.head? with
        | some f => if seg.mask.get v = true ∧ (e.pitch.get v).isSome = true ∧ e.tie.get v = true ∧ seg.sFrom ≤ f.pos ∧
            f.pos < seg.sTo ∧ f.pitch.get v = e.pitch.get v then e.pitch.get v else none
        | none => none) ∧
      { w with
        queue := a.queue, map := a.map, follower := a.follower, expander := a.expander
        counters := { w.counters with late := a.counters.late, noDivision := a.counters.noDivision }
        plan := { w.plan with clockShown := a.plan.clockShown }
        expression := { w.expression with shutters := a.expression.shutters } } = a ∧
      exec (.expansion t) s = .next (settle a (advanceCursor w))

/-- ENTRY_FALLS_DUE with a KEY_ON first that is neither clipped nor deferred: at 10 holders, or when the wind check of an
opening fails, it is shed with its KEY_OFF and counted; on a SHORTED or CLEARED_PENDING key, or a held one, the holder count
rises; else the count becomes 1, the valve is driven and the opening reported. The check is (n + 1) × w against the capacity,
for a voice other than S less the reserve. -/
def Obligations.KeyOnDelivered : Prop :=
  ∀ (t : Time) (s : State) (e : Entry) (rest : List Entry) d k v n nb, Runs s → s.queue = e :: rest →
    e.action = .keyOn d k v n nb → ∀ a, a = arrive t s → atOrBefore e.issue a.now = true →
    (∀ y ∈ rest, y.action.offPair = some n → atOrBefore y.issue e.issue = false) → (∀ x, ¬DeferBound a rest d e.segment x) →
    ∀ limit, limit = (if v = .S then (div a d).capacity else (div a d).capacity - (div a d).reserve) →
    ∀ passes : Prop, passes = ((drivenCount a d + 1) * drawnWeight (div a d) ≤ limit) →
    ∃ w u : State, closingTested w u ∧ exec (.entryFallsDue t) s = .next u ∧
      ∀ b, b = { a with queue := rest } →
      ((10 ≤ (key a d k).holders ∨ ((key a d k).holders = 0 ∧ isSound (key a d k) ∧ ¬passes)) → w = { b with
        queue := rest.filter fun y => y.action.offPair != some n
        counters := { a.counters with shed := bump a.counters.shed } }) ∧
      ((key a d k).holders < 10 → (¬isSound (key a d k) ∨ 1 ≤ (key a d k).holders) →
        w = withKey d k { key a d k with holders := (key a d k).holders + 1 } b) ∧
      ((key a d k).holders = 0 → isSound (key a d k) → passes →
        w = { withKey d k { key a d k with holders := 1 } b with
          front := { a.front with mics := Vector.ofFn (gatesOpened d a) } } ∧
        (yielded a = false → driven w d k = true))

/-- ENTRY_FALLS_DUE with a KEY_OFF first that is not of a clipped pair: the holder count falls by 1; at 0 the valve is released
and a CLEARED_PENDING key becomes NORMAL; a count already 0 changes nothing. -/
def Obligations.KeyOffDelivered : Prop :=
  ∀ (t : Time) (s : State) (e : Entry) (rest : List Entry) d k v n f, Runs s → s.queue = e :: rest →
    e.action = .keyOff d k v n f → ∀ a, a = arrive t s → atOrBefore e.issue a.now = true →
    (∀ y ∈ rest, y.action.onPair = some n → atOrBefore e.issue y.issue = false) →
    ∃ w u : State, closingTested w u ∧ exec (.entryFallsDue t) s = .next u ∧ ∀ b, b = { a with queue := rest } →
      ((key a d k).holders = 0 → w = b) ∧
      ((key a d k).holders = 1 → w = withKey d k { key a d k with
          holders := 0, fault := if (key a d k).fault = .clearedPending then .normal else (key a d k).fault } b ∧
        (testDriven a d k = false → driven w d k = false)) ∧
      (2 ≤ (key a d k).holders → w = withKey d k { key a d k with holders := (key a d k).holders - 1 } b)

/-- ENTRY_FALLS_DUE with a STOP_SET first: with the stops drawn and settled it changes nothing; else held keys are released, the
division's KEY_OFFs whose KEY_ON is not queued leave and are counted FORCED, and the stop change begins. STOP_CHANGE_END: at the
change end the division is SETTLED; a levelling run of it in SETUP enters QUIET_CHECK, and one in DONE ceases to exist. -/
def Obligations.StopSetDelivered : Prop :=
  ∀ (t : Time) (s : State), Runs s → ∀ a, a = arrive t s →
    (∀ (e : Entry) (rest : List Entry) d r, s.queue = e :: rest → e.action = .stopSet d r → atOrBefore e.issue a.now = true →
      ∃ w u : State, closingTested w u ∧ exec (.entryFallsDue t) s = .next u ∧
        ∀ changed : Division → Division, (∀ x, changed x = { x with
          drawn := r &&& existing x, stopState := .changing (a.now + BitVec.ofNat 32 x.stopAction) }) →
        ((div a d).drawn = r → (div a d).stopState = .settled → w = { a with queue := rest }) ∧
        (¬((div a d).drawn = r ∧ (div a d).stopState = .settled) → (∀ k, (key a d k).holders = 0) → w = { a with
          queue := rest, drivers := { a.drivers with divisions := a.drivers.divisions.set d (changed (div a d)) } }) ∧
        (∀ k, ¬((div a d).drawn = r ∧ (div a d).stopState = .settled) → 1 ≤ (key a d k).holders →
          ∃ (x : Division) (forced : Entry → Bool), x = { div a d with keys := x.keys } ∧
            (∀ k : KeyNo, x.keys[k] = { key a d k with
              holders := 0, fault := if (key a d k).fault = .clearedPending then .normal else (key a d k).fault }) ∧
            (∀ y ∈ rest, forced y = true ↔ ∃ k' v n f, y.action = .keyOff d k' v n f ∧
              ∀ z ∈ rest, z.action.onPair ≠ some n) ∧
            w = { a with
              queue := rest.filter fun y => !forced y
              drivers := { a.drivers with divisions := a.drivers.divisions.set d (changed x) }
              counters := { a.counters with forced := bumpBy (rest.filter forced).length a.counters.forced } })) ∧
    (∀ (d : DivNo) (u : Time), (div a d).stopState = .changing u → atOrBefore u a.now = true →
      ∀ b, b = { a with drivers := { a.drivers with
        divisions := a.drivers.divisions.set d { div a d with stopState := .settled } } } →
      ((∀ r, a.levelling.run = some r → r.division = d → r.phase ≠ .setup ∧ r.phase ≠ .done) →
        exec (.stopChangeEnd t d) s = .next b) ∧
      (∀ r, a.levelling.run = some r → r.division = d → r.phase = .setup → exec (.stopChangeEnd t d) s =
        .next { b with levelling := { a.levelling with run := some { r with
          phase := .quietCheck, listening := false, quietStart := none, opening := none
          deadline := some (a.now + 20000) } } }) ∧
      (∀ r, a.levelling.run = some r → r.division = d → r.phase = .done → exec (.stopChangeEnd t d) s =
        .next { b with levelling := { a.levelling with run := none } }))

/-- ENTRY_FALLS_DUE with an entry of a clipped pair first: the pair leaves undelivered, CLIPPED counts it, follow-ons naming
it are cleared, and a cleared one retimes the queue. With a KEY_ON first whose division is changing stops past the present, or
has a STOP_SET of an earlier segment queued: it takes the latest bound as its not-before, and as its issue time its position's
time less the lead, raised to that bound; where the map gives no time, its issue time so far raised to that bound, which is
the model's choice (log 21); it is put back after the entries that stand at or before that time, DEFERRED counts it, and the
queue retimes; being put back is not counted LATE, which is the model's choice (log 39). -/
def Obligations.PairsClippedAndDeferred : Prop :=
  ∀ (t : Time) (s : State) (e : Entry) (rest : List Entry) (n : BitVec 16), Runs s → s.queue = e :: rest →
    ∀ a, a = arrive t s → atOrBefore e.issue a.now = true →
    (∀ x y, (x = e ∧ y ∈ rest ∨ y = e ∧ x ∈ rest) → x.action.onPair = some n → y.action.offPair = some n →
      (∀ z ∈ rest, z.action.onPair = some n → z = x) → (∀ z ∈ rest, z.action.offPair = some n → z = y) →
      atOrBefore y.issue x.issue = true →
      ∃ q : List Entry, q.length = (rest.filter fun z => z.action.onPair != some n && z.action.offPair != some n).length ∧
        (∀ (i : Nat) (z z' : Entry), (rest.filter fun z => z.action.onPair != some n && z.action.offPair != some n)[i]? = some z →
          q[i]? = some z' → z'.segment = z.segment ∧ z'.pos = z.pos ∧ z'.issue = z.issue ∧
          ((∀ d k v p, z.action ≠ .keyOff d k v p (some n)) → z'.action = z.action) ∧
          (∀ d k v p, z.action = .keyOff d k v p (some n) → z'.action = .keyOff d k v p none)) ∧
        ∀ b, b = { a with queue := q, counters := { a.counters with clipped := bump a.counters.clipped } } →
        ((∀ z ∈ rest, ∀ d k v p, z.action ≠ .keyOff d k v p (some n)) → exec (.entryFallsDue t) s = .next (settle a b)) ∧
        (∀ z ∈ rest, (∃ d k v p, z.action = .keyOff d k v p (some n) ∧ p ≠ n) →
          exec (.entryFallsDue t) s = .next (settle a (retime b)))) ∧
    (∀ d k v nb x, e.action = .keyOn d k v n nb → DeferBound a rest d e.segment x →
      (∀ y ∈ rest, y.action.offPair = some n → atOrBefore y.issue e.issue = false) →
      ∃ (bound issue : Time) (x' : Entry) (q : List Entry), DeferBound a rest d e.segment bound ∧
        ((∀ y, DeferBound a rest d e.segment y → (diff y a.now).natAbs < 2 ^ 30) →
          ∀ y, DeferBound a rest d e.segment y → atOrBefore y bound = true) ∧
        issue = onIssue a { e with action := .keyOn d k v n (some bound) } ∧
        (∀ u, (∀ y, positionTime a e.segment e.pos false = some y → u = y - BitVec.ofNat 32 (leadOn a d)) →
          (positionTime a e.segment e.pos false = none → u = e.issue) → issue = if isBefore u bound then bound else u) ∧
        x' = { e with action := .keyOn d k v n (some bound), issue := issue } ∧ q = placeEntry x' rest ∧
        (∀ before after, rest = before ++ after → (∀ y ∈ before, isBefore issue y.issue = false) →
          (∀ y, after.head? = some y → isBefore issue y.issue = true) → q = before ++ x' :: after) ∧
        exec (.entryFallsDue t) s = .next (settle a (retime { a with
          queue := q, counters := { a.counters with deferred := bump a.counters.deferred } })))

/-! ### The coil monitor and the levelling run -/

/-- COIL_SCAN, at a multiple of 10 tu whose scan has not been made: each key of a present division has its counts moved by
what its coil draws while driven, and set to 0 while not; an open count that reaches the debounce value makes a NORMAL key
OPEN_COIL, and a short count a NORMAL or OPEN_COIL key SHORTED, each with one FAULT notice; every other key stays; and a run
SOUNDING on a key so shorted is aborted after the notices. The aborted run keeps its measured values and its other fields but
its deadline (log 43, log 45, log 49, log 54). A count held at 8 reaches a value of 8 at each further scan (log 55). -/
def Obligations.CoilScanFinds : Prop :=
  ∀ (t : Time) (r : CoilReadings) (s : State), Runs s → ∀ a, a = arrive t s → a.now.toNat % 10 = 0 → a.marks.scan = false →
    ∃ (w u : State) (ns : List Notice),
      w = { a with
        marks := { a.marks with scan := true }, drivers := { a.drivers with divisions := w.drivers.divisions } } ∧
      (∀ d, div w d = { div a d with keys := (div w d).keys }) ∧
      (∀ d k, ((div a d).present = false ∨ (div a d).compass ≤ k.val) → key w d k = key a d k) ∧
      (∀ d k, (div a d).present = true → k.val < (div a d).compass →
        (driven a d k = false → key w d k = { key a d k with openCount := 0, shortCount := 0 }) ∧
        (driven a d k = true → r[d][k] = .normal → key w d k = { key a d k with openCount := 0, shortCount := 0 }) ∧
        (∀ c, driven a d k = true → r[d][k] = .none → c = min ((key a d k).openCount + 1) 8 →
          key w d k = ⟨(key a d k).holders, if c = a.drivers.debounce ∧ (key a d k).fault = .normal then .openCoil
            else (key a d k).fault, c, 0⟩) ∧
        (∀ c, driven a d k = true → r[d][k] = .excess → c = min ((key a d k).shortCount + 1) 8 → isSound (key a d k) →
          key w d k = ⟨(key a d k).holders, if c = a.drivers.debounce then .shorted else (key a d k).fault, 0, c⟩)) ∧
      (∀ d k, Notice.openCoil d k.val (key a d k).holders a.now ∈ ns ↔
        ((key a d k).fault = .normal ∧ (key w d k).fault = .openCoil)) ∧
      (∀ d k, Notice.shorted d k.val (key a d k).holders a.now ∈ ns ↔
        ((key a d k).fault ≠ .shorted ∧ (key w d k).fault = .shorted)) ∧
      ns.Nodup ∧ (∀ n ∈ ns, ∃ d k,
        n = .openCoil d k.val (key a d k).holders a.now ∨ n = .shorted d k.val (key a d k).holders a.now) ∧
      u = ns.foldl (fun x n => notice n x) w ∧
      ((∀ x, a.levelling.run = some x → x.phase = .sounding → (key w x.division x.key).fault ≠ .shorted) →
        exec (.coilScan t r) s = .next u) ∧
      (∀ x, a.levelling.run = some x → x.phase = .sounding → (key w x.division x.key).fault = .shorted →
        ∃ z, RunDone x (.aborted .shorted .sounding x.measured) u z ∧ exec (.coilScan t r) s = .next z)

/-- A levelling run at its deadline. A quiet check that ends is tried again three times in a trial, and then the run ends
NOISY; a pipe that has been held is released; a listening that ends is tried again three times, and then the run ends
NO_SOUND; the release ends in the spacing, for the next trial after a good one; and the spacing in a new quiet check, where
the opening time returns to none (log 43). A NOISY or NO_SOUND run's measured values go with its notice (log 45); its quiet
start and opening time stay until the next quiet check (log 43, log 49). DONE has no deadline (log 54). -/
def Obligations.LevelDeadlinesPass : Prop :=
  ∀ (t : Time) (s : State) (r : LevelRun) (due : Time), Runs s → s.levelling.run = some r → r.deadline = some due →
    ∀ a, a = arrive t s → atOrBefore due a.now = true →
    ∀ next : LevelRun → State, (∀ x, next x = { a with levelling := { a.levelling with run := some x } }) →
    (r.phase = .quietCheck →
      (r.retry < 3 → exec (.quietCheckDeadline t) s = .next (next { r with
        phase := .quietCheck, listening := false, quietStart := none, opening := none, retry := r.retry + 1
        deadline := some (a.now + 20000) })) ∧
      (3 ≤ r.retry → ∃ u, RunDone r (.noisy r.trial r.measured) a u ∧ exec (.quietCheckDeadline t) s = .next u)) ∧
    (r.phase = .sounding → r.listening = false → exec (.pipeHoldEnd t) s = .next (next { r with
      phase := .release, listening := false, good := true
      deadline := some (a.now + BitVec.ofNat 32 (div a r.division).release) })) ∧
    (r.phase = .sounding → r.listening = true →
      (r.retry < 3 → exec (.listenDeadline t) s = .next (next { r with
        phase := .release, listening := false, good := false, retry := r.retry + 1
        deadline := some (a.now + BitVec.ofNat 32 (div a r.division).release) })) ∧
      (3 ≤ r.retry → ∃ u, RunDone r (.noSound r.trial r.measured) a u ∧ exec (.listenDeadline t) s = .next u)) ∧
    (r.phase = .release →
      (r.good = false → exec (.releaseEnd t) s = .next (next { r with
        phase := .spacing, deadline := some (a.now + BitVec.ofNat 32 r.spacing) })) ∧
      (r.good = true → r.measured.length < r.trials → exec (.releaseEnd t) s = .next (next { r with
        phase := .spacing, trial := r.trial + 1, retry := 0, deadline := some (a.now + BitVec.ofNat 32 r.spacing) }))) ∧
    (r.phase = .spacing → exec (.spacingEnd t) s = .next (next { r with
      phase := .quietCheck, listening := false, quietStart := none, opening := none
      deadline := some (a.now + 20000) }))

/-- What a levelling run hears and finds. RELEASE_END after the last good trial: the average, the spread and the speech time
less the travel as it stands, clamped to 0..3000; a spread above 200 is UNSTEADY and stores nothing; else the speech time is
stored, with the retime, as SUSPECT when the clamp moved it and OK otherwise. ENVELOPE_BLOCK of the run's microphone, with the
block whose turn it is (log 10): in QUIET_CHECK an excess above the fall threshold, or none, empties the quiet start, a quiet
value starts it, and one 1000 tu later opens the test key and records the opening time, or ends the run with no opening where
the drive is refused, with SHORTED before WIND and the state SOUNDING in the notice (log 33); an onset in SOUNDING while
listening, not before the opening, is the pipe, and any other is discarded. The floor, the detector and the last firing of the
microphone go on as outside a run. A run with a result, or one aborted, keeps its measured values in DONE (log
45); its quiet start stays as the check left it (log 49); DONE has no deadline (log 54). -/
def Obligations.LevellingMeasures : Prop :=
  ∀ (t : Time) (s : State) (r : LevelRun), Runs s → s.levelling.run = some r → ∀ a, a = arrive t s →
    (∀ due lo hi avg tr : Nat, ∀ time, r.phase = .release → r.good = true → r.trials ≤ r.measured.length →
      r.deadline = some time → atOrBefore time a.now = true → due = r.measured.length → due ≠ 0 →
      lo ∈ r.measured → (∀ x ∈ r.measured, lo ≤ x) → hi ∈ r.measured → (∀ x ∈ r.measured, x ≤ hi) →
      avg = roundNat r.measured.sum due → tr = travel a (div a r.division).micDistance[r.mic] →
      ∀ speech, speech = min (avg - tr) 3000 →
      ∀ stored, stored = retime { a with drivers := { a.drivers with
        divisions := a.drivers.divisions.set r.division { div a r.division with speech := speech } } } →
      (200 < hi - lo → ∃ u, RunDone r (.measured .unsteady r.measured avg (hi - lo) tr speech) a u ∧
        exec (.releaseEnd t) s = .next u) ∧
      (hi - lo ≤ 200 → (avg < tr ∨ tr + 3000 < avg) → ∃ u,
        RunDone r (.measured .suspect r.measured avg (hi - lo) tr speech) stored u ∧ exec (.releaseEnd t) s = .next u) ∧
      (hi - lo ≤ 200 → tr ≤ avg → avg ≤ tr + 3000 → ∃ u,
        RunDone r (.measured .ok r.measured avg (hi - lo) tr speech) stored u ∧ exec (.releaseEnd t) s = .next u)) ∧
    (∀ first xs env x, x = mic a r.mic → x.settings.enable = true → xs.length = x.settings.averaging →
      blockOk a.now first xs = true → blockInTurn x a.now first xs.length → x.settings.fall < x.settings.rise →
      env = min 4095 (2 * (xs.map fun v => (v.toNat - 2048) + (2048 - v.toNat)).sum / xs.length) →
      ∃ (y : Mic) (b : State), Heard x a.now first env y ∧ y = { x with
          blockFrom := first + BitVec.ofNat 32 (xs.length * 5 / 4), fresh := false, envelope := some (env, first)
          floor := y.floor, fired := y.fired, lastFiring := y.lastFiring, gates := x.gates.filter fun w => !isBefore w.closes first } ∧
        b = { a with front := { a.front with mics := a.front.mics.set r.mic y } } ∧
        ∀ next : LevelRun → State, (∀ z, next z = { b with levelling := { b.levelling with run := some z } }) →
        (∀ due, r.phase = .quietCheck → r.deadline = some due → isBefore first (addTu due (-20000)) = true →
          exec (.envelopeBlock t r.mic first xs) s = .next b) ∧
        (r.phase ≠ .quietCheck → ¬(MakesOnset x a.now first env ∧ r.phase = .sounding ∧ r.listening = true ∧
          ∃ opening, r.opening = some opening ∧ atOrBefore opening first = true) →
          exec (.envelopeBlock t r.mic first xs) s = .next b) ∧
        (∀ due, r.phase = .quietCheck → r.deadline = some due → isBefore first (addTu due (-20000)) = false →
          ((x.floor = none ∨ ∃ f, x.floor = some f ∧ f + x.settings.fall < env) →
            exec (.envelopeBlock t r.mic first xs) s = .next (next { r with quietStart := none })) ∧
          (∀ f, x.floor = some f → env ≤ f + x.settings.fall →
            (r.quietStart = none →
              exec (.envelopeBlock t r.mic first xs) s = .next (next { r with quietStart := some first })) ∧
            (∀ q, r.quietStart = some q → diff first q < 1000 → exec (.envelopeBlock t r.mic first xs) s = .next b) ∧
            (∀ q, r.quietStart = some q → 1000 ≤ diff first q → ∀ z, z = { r with
                phase := .sounding, listening := true, opening := some a.now, deadline := some (a.now + 5000) } →
              ∀ passes : Prop, (passes =
                ((drivenCount a r.division + 1) * drawnWeight (div a r.division) ≤ (div a r.division).capacity)) →
              (isSound (key a r.division r.key) → passes → exec (.envelopeBlock t r.mic first xs) s = .next { next z with
                front := { b.front with mics := Vector.ofFn (gatesOpened r.division b) } }) ∧
              (¬isSound (key a r.division r.key) → ∃ u, RunDone r (.aborted .shorted .sounding r.measured) b u ∧
                exec (.envelopeBlock t r.mic first xs) s = .next u) ∧
              (isSound (key a r.division r.key) → ¬passes → ∃ u, RunDone r (.aborted .wind .sounding r.measured) b u ∧
                exec (.envelopeBlock t r.mic first xs) s = .next u)))) ∧
        (∀ opening, r.phase = .sounding → r.listening = true → r.opening = some opening → MakesOnset x a.now first env →
          atOrBefore opening first = true →
          exec (.envelopeBlock t r.mic first xs) s = .next (next { r with
            measured := r.measured ++ [(diff first opening).toNat], listening := false
            deadline := some (a.now + 2000) })))

/-! ### Invariants -/

/-- The state at reset meets every invariant. -/
def Obligations.ResetSound : Prop :=
  Bounded State.reset ∧ StoreSound State.reset ∧ PlanSound State.reset ∧ FollowSound State.reset ∧ OrganSound State.reset

/-- Every step keeps every FIFO, queue and list within its length, at most one reply in the outgoing list, and every holder
count at most 10. -/
def Obligations.StepKeepsBounds : Prop := ∀ s s' : State, Bounded s → step s = .next s' → Bounded s'

/-- Every step keeps the store's account: the free count and the reservations make 4096, and no slot holds more events than it
reserves. -/
def Obligations.StepKeepsStore : Prop := ∀ s s' : State, StoreSound s → step s = .next s' → StoreSound s'

/-- Every step keeps the active copy and the play state together, the tune of the active plan READY, and that of a queued
one. -/
def Obligations.StepKeepsPlan : Prop := ∀ s s' : State, PlanSound s → step s = .next s' → PlanSound s'

/-- Every step keeps the coast credit within 0..A and at 0 exactly in STEADY, and the mode OFF exactly in IDLE. -/
def Obligations.StepKeepsFollower : Prop := ∀ s s' : State, FollowSound s → step s = .next s' → FollowSound s'

/-- Every step keeps each division's wind demand within its capacity, IDLE silent, a levelling run to IDLE and to the part that
holds the organ, and a yielded part without anything of its own sounding or queued. -/
def Obligations.StepKeepsOrgan : Prop := ∀ s s' : State, OrganSound s → step s = .next s' → OrganSound s'

end
end

