-- ==== Sys2Proof/Laws/Ops.lean ====
section
/-! SUPPORT. What the shared operations do, said once: how a command arrives, when an event acts, what the handler makes of a
frame, what a notice does, and what falls due at once. -/

namespace Sys2Proof.Machine

/-! ### Arrival -/

@[simp] theorem arrive_rstHeld (t : Time) (s : State) : (arrive t s).rstHeld = s.rstHeld := by unfold arrive; split <;> rfl
@[simp] theorem arrive_ct (t : Time) (s : State) : (arrive t s).ct = s.ct := by unfold arrive; split <;> rfl
@[simp] theorem arrive_store (t : Time) (s : State) : (arrive t s).store = s.store := by unfold arrive; split <;> rfl
@[simp] theorem arrive_plan (t : Time) (s : State) : (arrive t s).plan = s.plan := by unfold arrive; split <;> rfl
@[simp] theorem arrive_map (t : Time) (s : State) : (arrive t s).map = s.map := by unfold arrive; split <;> rfl
@[simp] theorem arrive_follower (t : Time) (s : State) : (arrive t s).follower = s.follower := by unfold arrive; split <;> rfl
@[simp] theorem arrive_acoustic (t : Time) (s : State) : (arrive t s).acoustic = s.acoustic := by unfold arrive; split <;> rfl
@[simp] theorem arrive_front (t : Time) (s : State) : (arrive t s).front = s.front := by unfold arrive; split <;> rfl
@[simp] theorem arrive_expander (t : Time) (s : State) : (arrive t s).expander = s.expander := by unfold arrive; split <;> rfl
@[simp] theorem arrive_queue (t : Time) (s : State) : (arrive t s).queue = s.queue := by unfold arrive; split <;> rfl
@[simp] theorem arrive_drivers (t : Time) (s : State) : (arrive t s).drivers = s.drivers := by unfold arrive; split <;> rfl
@[simp] theorem arrive_expression (t : Time) (s : State) : (arrive t s).expression = s.expression := by
  unfold arrive; split <;> rfl
@[simp] theorem arrive_levelling (t : Time) (s : State) : (arrive t s).levelling = s.levelling := by
  unfold arrive; split <;> rfl
@[simp] theorem arrive_yielding (t : Time) (s : State) : (arrive t s).yielding = s.yielding := by unfold arrive; split <;> rfl
@[simp] theorem arrive_link (t : Time) (s : State) : (arrive t s).link = s.link := by unfold arrive; split <;> rfl
@[simp] theorem arrive_counters (t : Time) (s : State) : (arrive t s).counters = s.counters := by unfold arrive; split <;> rfl
@[simp] theorem arrive_choices (t : Time) (s : State) : (arrive t s).choices = s.choices := by unfold arrive; split <;> rfl
@[simp] theorem arrive_pending (t : Time) (s : State) : (arrive t s).pending = s.pending := by unfold arrive; split <;> rfl

/-- A command for a later time moves the counter to it, one for the present or the past leaves the counter (log 1). -/
theorem arrive_now (t : Time) (s : State) : (arrive t s).now = if isBefore s.now t then t else s.now := by
  unfold arrive; split <;> rfl

/-! ### Commands -/

/-- While RST is asserted a command does nothing (log 3). -/
theorem running_held {s : State} (f : State → State) (h : s.rstHeld = true) : running f s = .next s := by simp [running, h]

theorem running_runs {s : State} (f : State → State) (h : s.rstHeld = false) : running f s = .next (f s) := by
  simp [running, h]

/-- An event whose condition holds acts. -/
theorem event_acts {s : State} {t : Time} {p : State → Bool} (act : State → State) (h : s.rstHeld = false)
    (hp : p (arrive t s) = true) : event t p act s = .next (act (arrive t s)) := by simp [event, running, h, hp]

/-- An event whose condition does not hold moves the counter and no more (log 5). -/
theorem event_idle {s : State} {t : Time} {p : State → Bool} (act : State → State) (h : s.rstHeld = false)
    (hp : p (arrive t s) = false) : event t p act s = .next (arrive t s) := by simp [event, running, h, hp]

/-- Every outcome of an event: nothing while RST is asserted, the arrival alone, or the arrival and the act. -/
theorem event_cases {s s' : State} {t : Time} {p : State → Bool} {act : State → State} (h : event t p act s = .next s') :
    (s.rstHeld = true ∧ s' = s) ∨ (s.rstHeld = false ∧ p (arrive t s) = false ∧ s' = arrive t s) ∨
    (s.rstHeld = false ∧ p (arrive t s) = true ∧ s' = act (arrive t s)) := by
  unfold event running at h
  cases hr : s.rstHeld <;> cases hp : p (arrive t s) <;> simp [hr, hp] at h <;> simp [h]

/-! ### The handler -/

theorem clearWaiting_of_none {s : State} (h : s.link.waiting = none) : clearWaiting s = s := by
  cases s; rename_i l _ _ _ _; cases l; simp_all [clearWaiting]

theorem reply_eq_answer (f : Frame) (x : Answer) (s : State) : reply f x s = answer f.kind f.tag x.status x.fields s := rfl

/-- A listening part takes a request of an allowed length: the block's answer is the reply, made last (R206). -/
theorem request_taken {s : State} {t : Time} {f : Frame} {mine lengthOk : Bool} (h : Handler) (hs : Listens s)
    (hb : bodyFits f.body = true) (hm : mine = true) (hl : lengthOk = true) :
    request t f mine lengthOk h s =
      .next (answer f.kind f.tag (h (arrive t s)).2.status (h (arrive t s)).2.fields (h (arrive t s)).1) := by
  obtain ⟨h1, h2, h3⟩ := hs
  simp [request, running, takeFrame, handle, h1, h2, h3, hb, hm, hl, clearWaiting_of_none, reply_eq_answer]

/-- A listening part refuses a request whose length its kind does not allow (R206). -/
theorem request_badLength {s : State} {t : Time} {f : Frame} {mine lengthOk : Bool} (h : Handler) (hs : Listens s)
    (hb : bodyFits f.body = true) (hm : mine = true) (hl : lengthOk = false) :
    request t f mine lengthOk h s = .next (answer f.kind f.tag .badLength [] (arrive t s)) := by
  obtain ⟨h1, h2, h3⟩ := hs
  simp [request, running, takeFrame, handle, h1, h2, h3, hb, hm, hl, clearWaiting_of_none, reply_eq_answer, refuse]

/-- Every outcome of a request: nothing while RST is asserted, the arrival alone, the frame kept waiting, or the frame taken
from a handler with no reply in the list. -/
theorem request_cases {s s' : State} {t : Time} {f : Frame} {mine lengthOk : Bool} {h : Handler}
    (hx : request t f mine lengthOk h s = .next s') :
    (s.rstHeld = true ∧ s' = s) ∨ s' = arrive t s ∨
    s' = { arrive t s with link := { s.link with waiting := some f } } ∨
    (handlerFree s.link = true ∧ lengthOk = true ∧
      s' = answer f.kind f.tag (h (clearWaiting (arrive t s))).2.status (h (clearWaiting (arrive t s))).2.fields
        (h (clearWaiting (arrive t s))).1) ∨
    (handlerFree s.link = true ∧ s' = answer f.kind f.tag .badLength [] (clearWaiting (arrive t s))) := by
  unfold request running takeFrame handle at hx
  simp only [reply_eq_answer, arrive_link, refuse] at hx
  cases hr : s.rstHeld
  · simp only [hr, Bool.false_eq_true, if_false] at hx
    injection hx with hx
    subst hx
    split <;> simp
    split
    · split
      · split <;> simp_all
      · simp
    · split
      · split <;> simp_all
      · simp
  · simp only [hr, if_true] at hx
    injection hx with hx
    simp [hx]

/-! ### Notices -/

/-- What a notice can do: join the outgoing list, or be lost with the flag set (R209). -/
theorem notice_cases (n : Notice) (s : State) :
    (noticeCount s.link < Config.maxNotices ∧ notice n s = noticed n s) ∨
    (Config.maxNotices ≤ noticeCount s.link ∧ notice n s = { s with link := { s.link with lost := true } }) := by
  unfold notice
  split
  · exact .inl ⟨‹_›, rfl⟩
  · exact .inr ⟨by omega, rfl⟩

/-- A notice changes nothing but the link (R209). -/
theorem notice_frame (n : Notice) (s : State) : { notice n s with link := s.link } = s := by
  rcases notice_cases n s with ⟨-, h⟩ | ⟨-, h⟩ <;> rw [h] <;> rfl

/-! ### What falls due at once (R44) -/

theorem actOnOne_cases (ws : List Wait) (s : State) :
    actOnOne ws s = s ∨ ∃ w, actOnOne ws s = actOn w s ∨ actOnOne ws s = actOn w (countChoice s) := by
  match ws with
  | [] => exact .inl rfl
  | [w] => exact .inr ⟨w, .inl rfl⟩
  | w :: w' :: rest => exact .inr ⟨_, .inr rfl⟩

theorem getD_mem {α : Type} {l : List α} {n : Nat} {d : α} (h : d ∈ l) : l.getD n d ∈ l := by
  rw [List.getD_eq_getElem?_getD]
  cases h' : l[n]? with
  | none => simpa
  | some x => exact List.mem_of_getElem? h'

/-- The wait acted on is one that is due. -/
theorem actOnOne_due {ws : List Wait} {s : State} (h : ws ≠ []) :
    ∃ w ∈ ws, actOnOne ws s = actOn w s ∨ actOnOne ws s = actOn w (countChoice s) := by
  match ws with
  | [] => exact absurd rfl h
  | [w] => exact ⟨w, by simp, .inl rfl⟩
  | w :: w' :: rest => exact ⟨_, getD_mem (by simp), .inr rfl⟩

/-- A wait that a command brings has come, and, entries apart, had not come so when the command began (R206). -/
theorem dueWaits_moved {before s : State} {w : Wait} (h : w ∈ dueWaits before s) :
    (∃ ws ∈ comeWaits s, w ∈ ws) ∧ (w ≠ .entry → ∀ ws ∈ comeWaits before, w ∉ ws) := by
  obtain ⟨ws, m, f⟩ := List.mem_filterMap.1 h
  refine ⟨⟨ws, m, List.mem_of_find?_eq_some f⟩, fun hw vs hv hm => ?_⟩
  have hs := List.find?_some f
  simp [stands, hw] at hs
  exact hs vs hv hm

/-- Where nothing is brought, every wait that has come stood so when the command began. -/
theorem dueWaits_nil {before s : State} (h : dueWaits before s = []) :
    ∀ ws ∈ comeWaits s, ∀ w ∈ ws, w ≠ .entry ∧ ∃ vs ∈ comeWaits before, w ∈ vs := by
  intro ws m w hw
  have hn := (List.filterMap_eq_nil_iff.1 h) ws m
  have hs := List.find?_eq_none.1 hn w hw
  simp [stands] at hs
  exact hs

/-- A property that acting on any wait and counting a choice keep is kept by `settle`. -/
theorem settle_keeps {P : State → Prop} (choice : ∀ s, P s → P (countChoice s)) (act : ∀ w s, P s → P (actOn w s))
    (before : State) {s : State} (h : P s) : P (settle before s) := by
  unfold settle
  generalize settleFuel = n
  induction n generalizing s with
  | zero => exact h
  | succ n ih =>
    simp only [settleFor]
    split
    · exact h
    · apply ih
      rcases actOnOne_cases (dueWaits before s) s with he | ⟨w, he | he⟩ <;> rw [he]
      · exact h
      · exact act w s h
      · exact act w _ (choice s h)

theorem settleFor_rest {before : State} {n : Nat} {s : State} (h : dueWaits before s = []) : settleFor before n s = s := by
  cases n <;> simp [settleFor, h]

/-- With nothing brought to the present, nothing happens. -/
theorem settle_rest {before s : State} (h : dueWaits before s = []) : settle before s = s := settleFor_rest h

/-! ### Order of entries -/

@[simp] theorem placeEntry_length (e : Entry) (q : List Entry) : (placeEntry e q).length = q.length + 1 := by
  induction q with
  | nil => rfl
  | cons x xs ih => simp only [placeEntry]; split <;> simp [ih]

theorem placeEntry_perm (e : Entry) (q : List Entry) : (placeEntry e q).Perm (e :: q) := by
  induction q with
  | nil => exact .refl _
  | cons x xs ih =>
    simp only [placeEntry]
    split
    · exact .refl _
    · exact (ih.cons x).trans (.swap e x xs)

theorem foldl_place_perm (q acc : List Entry) : (q.foldl (fun acc e => placeEntry e acc) acc).Perm (acc ++ q) := by
  induction q generalizing acc with
  | nil => simp
  | cons x xs ih =>
    simp only [List.foldl_cons]
    refine (ih _).trans (((placeEntry_perm x acc).append_right xs).trans ?_)
    simpa using (List.perm_middle (a := x) (l₁ := acc) (l₂ := xs)).symm

/-- Sorting loses and adds no entry. -/
theorem sortEntries_perm (q : List Entry) : (sortEntries q).Perm q := by simpa [sortEntries] using foldl_place_perm q []

@[simp] theorem sortEntries_length (q : List Entry) : (sortEntries q).length = q.length := (sortEntries_perm q).length_eq

@[simp] theorem retimeList_length (s : State) (q : List Entry) : (retimeList s q).length = q.length := by
  simp [retimeList, retimeOns]

/-- A retime keeps the number of entries and changes nothing but the queue and the counters (R135, R136). -/
theorem retime_cases (s : State) :
    (retime s).queue.length = s.queue.length ∧
    { retime s with queue := s.queue, counters := s.counters } = s := by
  refine ⟨?_, rfl⟩
  simp [retime, countLate]

end Sys2Proof.Machine
end

