-- ==== Sys2Proof/Laws/PerInstr.lean ====
section
/-! SUPPORT. A statement made of every command, one lemma for each constructor: the frame that spells a well-formed request is
taken by the row of that request (R206, R214, log 7). -/

namespace Sys2Proof.Laws

/-- The time, KIND, TAG and body of the frame that a request command stands for; none for the other commands. -/
def frameOf : Instr → Option (Time × Byte × Byte × List Byte)
  | .resetAssert => none
  | .resetRelease _ _ => none
  | .rxdByte _ _ => none
  | .receiverByte _ => none
  | .frameGap _ => none
  | .badKind t k g b => some (t, k, g, b)
  | .transmitMessage _ => none
  | .status t g b => some (t, 0x01, g, b)
  | .counters t g b => some (t, 0x02, g, b)
  | .quietReset t g b => some (t, 0x03, g, b)
  | .tuneBegin t g b => some (t, 0x04, g, b)
  | .tuneData t g b => some (t, 0x05, g, b)
  | .tuneEnd t g b => some (t, 0x06, g, b)
  | .tuneErase t g b => some (t, 0x07, g, b)
  | .tuneRead t g b => some (t, 0x08, g, b)
  | .planSet t g b => some (t, 0x09, g, b)
  | .planCancel t g b => some (t, 0x0A, g, b)
  | .planStartNow t g b => some (t, 0x0B, g, b)
  | .planStartNext t g b => some (t, 0x0B, g, b)
  | .stopNow t g b => some (t, 0x0C, g, b)
  | .stopLine t g b => some (t, 0x0C, g, b)
  | .stopVerse t g b => some (t, 0x0C, g, b)
  | .verses t g b => some (t, 0x0D, g, b)
  | .tempo t g b => some (t, 0x0E, g, b)
  | .followSet t g b => some (t, 0x0F, g, b)
  | .micSet t g b => some (t, 0x10, g, b)
  | .divisionSet t g b => some (t, 0x11, g, b)
  | .stopsSet t g b => some (t, 0x12, g, b)
  | .registrationSet t g b => some (t, 0x13, g, b)
  | .voicingSet t g b => some (t, 0x14, g, b)
  | .curveSet t g b => some (t, 0x15, g, b)
  | .expressNow t g b => some (t, 0x16, g, b)
  | .expressNext t g b => some (t, 0x16, g, b)
  | .level t g b => some (t, 0x17, g, b)
  | .yield t g b => some (t, 0x18, g, b)
  | .resume t g b => some (t, 0x19, g, b)
  | .faultClear t g b => some (t, 0x1A, g, b)
  | .tableRead t g b => some (t, 0x1B, g, b)
  | .tempReading _ _ => none
  | .envelopeBlock _ _ _ _ => none
  | .onsetTaken _ => none
  | .cueExpiry _ => none
  | .matchedRecordRemoval _ => none
  | .pauseStart _ => none
  | .pauseEnd _ => none
  | .segmentStart _ => none
  | .segmentEnd _ => none
  | .lineAhead _ => none
  | .hymnClose _ => none
  | .idleClockTick _ => none
  | .rampDelayEnd _ _ => none
  | .rampStep _ _ => none
  | .rampHoldEnd _ _ => none
  | .expansion _ => none
  | .entryFallsDue _ => none
  | .stopChangeEnd _ _ => none
  | .coilScan _ _ => none
  | .quietCheckDeadline _ => none
  | .pipeHoldEnd _ => none
  | .listenDeadline _ => none
  | .releaseEnd _ => none
  | .spacingEnd _ => none
  | .ctChange _ _ => none
  | .ctTouchHeld _ => none
  | .ctReleaseDelayEnd _ => none
  | .rejoinTime _ => none
  | .timeStale _ _ => none
  | .transmitByteEnd _ => none

/-- The row that takes the frame of a well-formed command is the command itself. -/
def FrameRow.Statement (i : Instr) : Prop :=
  ∀ t k g b, frameOf i = some (t, k, g, b) → i.wf = true → rowOf t k g b = i

theorem FrameRow.resetAssert : FrameRow.Statement .resetAssert := nofun

theorem FrameRow.resetRelease (rate1 : Bool) (rate0 : Bool) : FrameRow.Statement (.resetRelease rate1 rate0) := nofun

theorem FrameRow.rxdByte (t : Time) (b : Byte) : FrameRow.Statement (.rxdByte t b) := nofun

theorem FrameRow.receiverByte (t : Time) : FrameRow.Statement (.receiverByte t) := nofun

theorem FrameRow.frameGap (t : Time) : FrameRow.Statement (.frameGap t) := nofun

theorem FrameRow.badKind (t : Time) (k g : Byte) (b : List Byte) : FrameRow.Statement (.badKind t k g b) := by
  intro t' k' g' b' h w
  simp only [frameOf, Option.some.injEq, Prod.mk.injEq] at h
  obtain ⟨rfl, rfl, rfl, rfl⟩ := h
  simp only [Instr.wf, isRequestKind, Bool.and_eq_true, Bool.not_eq_true', Bool.and_eq_false_iff, decide_eq_false_iff_not] at w
  unfold rowOf
  split <;> first | rfl | omega

theorem FrameRow.transmitMessage (t : Time) : FrameRow.Statement (.transmitMessage t) := nofun

theorem FrameRow.status (t : Time) (g : Byte) (b : List Byte) : FrameRow.Statement (.status t g b) := by
  rintro _ _ _ _ ⟨⟩ _
  rfl

theorem FrameRow.counters (t : Time) (g : Byte) (b : List Byte) : FrameRow.Statement (.counters t g b) := by
  rintro _ _ _ _ ⟨⟩ _
  rfl

theorem FrameRow.quietReset (t : Time) (g : Byte) (b : List Byte) : FrameRow.Statement (.quietReset t g b) := by
  rintro _ _ _ _ ⟨⟩ _
  rfl

theorem FrameRow.tuneBegin (t : Time) (g : Byte) (b : List Byte) : FrameRow.Statement (.tuneBegin t g b) := by
  rintro _ _ _ _ ⟨⟩ _
  rfl

theorem FrameRow.tuneData (t : Time) (g : Byte) (b : List Byte) : FrameRow.Statement (.tuneData t g b) := by
  rintro _ _ _ _ ⟨⟩ _
  rfl

theorem FrameRow.tuneEnd (t : Time) (g : Byte) (b : List Byte) : FrameRow.Statement (.tuneEnd t g b) := by
  rintro _ _ _ _ ⟨⟩ _
  rfl

theorem FrameRow.tuneErase (t : Time) (g : Byte) (b : List Byte) : FrameRow.Statement (.tuneErase t g b) := by
  rintro _ _ _ _ ⟨⟩ _
  rfl

theorem FrameRow.tuneRead (t : Time) (g : Byte) (b : List Byte) : FrameRow.Statement (.tuneRead t g b) := by
  rintro _ _ _ _ ⟨⟩ _
  rfl

theorem FrameRow.planSet (t : Time) (g : Byte) (b : List Byte) : FrameRow.Statement (.planSet t g b) := by
  rintro _ _ _ _ ⟨⟩ _
  rfl

theorem FrameRow.planCancel (t : Time) (g : Byte) (b : List Byte) : FrameRow.Statement (.planCancel t g b) := by
  rintro _ _ _ _ ⟨⟩ _
  rfl

theorem FrameRow.planStartNow (t : Time) (g : Byte) (b : List Byte) : FrameRow.Statement (.planStartNow t g b) := by
  intro t' k g' b' h w
  simp only [frameOf, Option.some.injEq, Prod.mk.injEq] at h
  obtain ⟨rfl, rfl, rfl, rfl⟩ := h
  simp_all [Instr.wf, rowOf]

theorem FrameRow.planStartNext (t : Time) (g : Byte) (b : List Byte) : FrameRow.Statement (.planStartNext t g b) := by
  intro t' k g' b' h w
  simp only [frameOf, Option.some.injEq, Prod.mk.injEq] at h
  obtain ⟨rfl, rfl, rfl, rfl⟩ := h
  simp_all [Instr.wf, rowOf]

theorem FrameRow.stopNow (t : Time) (g : Byte) (b : List Byte) : FrameRow.Statement (.stopNow t g b) := by
  intro t' k g' b' h w
  simp only [frameOf, Option.some.injEq, Prod.mk.injEq] at h
  obtain ⟨rfl, rfl, rfl, rfl⟩ := h
  simp_all [Instr.wf, rowOf]

theorem FrameRow.stopLine (t : Time) (g : Byte) (b : List Byte) : FrameRow.Statement (.stopLine t g b) := by
  intro t' k g' b' h w
  simp only [frameOf, Option.some.injEq, Prod.mk.injEq] at h
  obtain ⟨rfl, rfl, rfl, rfl⟩ := h
  simp_all [Instr.wf, rowOf]

theorem FrameRow.stopVerse (t : Time) (g : Byte) (b : List Byte) : FrameRow.Statement (.stopVerse t g b) := by
  intro t' k g' b' h w
  simp only [frameOf, Option.some.injEq, Prod.mk.injEq] at h
  obtain ⟨rfl, rfl, rfl, rfl⟩ := h
  simp_all [Instr.wf, rowOf, isStopLine, isStopVerse]

theorem FrameRow.verses (t : Time) (g : Byte) (b : List Byte) : FrameRow.Statement (.verses t g b) := by
  rintro _ _ _ _ ⟨⟩ _
  rfl

theorem FrameRow.tempo (t : Time) (g : Byte) (b : List Byte) : FrameRow.Statement (.tempo t g b) := by
  rintro _ _ _ _ ⟨⟩ _
  rfl

theorem FrameRow.followSet (t : Time) (g : Byte) (b : List Byte) : FrameRow.Statement (.followSet t g b) := by
  rintro _ _ _ _ ⟨⟩ _
  rfl

theorem FrameRow.micSet (t : Time) (g : Byte) (b : List Byte) : FrameRow.Statement (.micSet t g b) := by
  rintro _ _ _ _ ⟨⟩ _
  rfl

theorem FrameRow.divisionSet (t : Time) (g : Byte) (b : List Byte) : FrameRow.Statement (.divisionSet t g b) := by
  rintro _ _ _ _ ⟨⟩ _
  rfl

theorem FrameRow.stopsSet (t : Time) (g : Byte) (b : List Byte) : FrameRow.Statement (.stopsSet t g b) := by
  rintro _ _ _ _ ⟨⟩ _
  rfl

theorem FrameRow.registrationSet (t : Time) (g : Byte) (b : List Byte) : FrameRow.Statement (.registrationSet t g b) := by
  rintro _ _ _ _ ⟨⟩ _
  rfl

theorem FrameRow.voicingSet (t : Time) (g : Byte) (b : List Byte) : FrameRow.Statement (.voicingSet t g b) := by
  rintro _ _ _ _ ⟨⟩ _
  rfl

theorem FrameRow.curveSet (t : Time) (g : Byte) (b : List Byte) : FrameRow.Statement (.curveSet t g b) := by
  rintro _ _ _ _ ⟨⟩ _
  rfl

theorem FrameRow.expressNow (t : Time) (g : Byte) (b : List Byte) : FrameRow.Statement (.expressNow t g b) := by
  intro t' k g' b' h w
  simp only [frameOf, Option.some.injEq, Prod.mk.injEq] at h
  obtain ⟨rfl, rfl, rfl, rfl⟩ := h
  simp_all [Instr.wf, rowOf]

theorem FrameRow.expressNext (t : Time) (g : Byte) (b : List Byte) : FrameRow.Statement (.expressNext t g b) := by
  intro t' k g' b' h w
  simp only [frameOf, Option.some.injEq, Prod.mk.injEq] at h
  obtain ⟨rfl, rfl, rfl, rfl⟩ := h
  simp_all [Instr.wf, rowOf]

theorem FrameRow.level (t : Time) (g : Byte) (b : List Byte) : FrameRow.Statement (.level t g b) := by
  rintro _ _ _ _ ⟨⟩ _
  rfl

theorem FrameRow.yield (t : Time) (g : Byte) (b : List Byte) : FrameRow.Statement (.yield t g b) := by
  rintro _ _ _ _ ⟨⟩ _
  rfl

theorem FrameRow.resume (t : Time) (g : Byte) (b : List Byte) : FrameRow.Statement (.resume t g b) := by
  rintro _ _ _ _ ⟨⟩ _
  rfl

theorem FrameRow.faultClear (t : Time) (g : Byte) (b : List Byte) : FrameRow.Statement (.faultClear t g b) := by
  rintro _ _ _ _ ⟨⟩ _
  rfl

theorem FrameRow.tableRead (t : Time) (g : Byte) (b : List Byte) : FrameRow.Statement (.tableRead t g b) := by
  rintro _ _ _ _ ⟨⟩ _
  rfl

theorem FrameRow.tempReading (t : Time) (r : BitVec 12) : FrameRow.Statement (.tempReading t r) := nofun

theorem FrameRow.envelopeBlock (t : Time) (mic : MicNo) (first : Time) (samples : List (BitVec 12)) : FrameRow.Statement (.envelopeBlock t mic first samples) :=
  nofun

theorem FrameRow.onsetTaken (t : Time) : FrameRow.Statement (.onsetTaken t) := nofun

theorem FrameRow.cueExpiry (t : Time) : FrameRow.Statement (.cueExpiry t) := nofun

theorem FrameRow.matchedRecordRemoval (t : Time) : FrameRow.Statement (.matchedRecordRemoval t) := nofun

theorem FrameRow.pauseStart (t : Time) : FrameRow.Statement (.pauseStart t) := nofun

theorem FrameRow.pauseEnd (t : Time) : FrameRow.Statement (.pauseEnd t) := nofun

theorem FrameRow.segmentStart (t : Time) : FrameRow.Statement (.segmentStart t) := nofun

theorem FrameRow.segmentEnd (t : Time) : FrameRow.Statement (.segmentEnd t) := nofun

theorem FrameRow.lineAhead (t : Time) : FrameRow.Statement (.lineAhead t) := nofun

theorem FrameRow.hymnClose (t : Time) : FrameRow.Statement (.hymnClose t) := nofun

theorem FrameRow.idleClockTick (t : Time) : FrameRow.Statement (.idleClockTick t) := nofun

theorem FrameRow.rampDelayEnd (t : Time) (d : DivNo) : FrameRow.Statement (.rampDelayEnd t d) := nofun

theorem FrameRow.rampStep (t : Time) (d : DivNo) : FrameRow.Statement (.rampStep t d) := nofun

theorem FrameRow.rampHoldEnd (t : Time) (d : DivNo) : FrameRow.Statement (.rampHoldEnd t d) := nofun

theorem FrameRow.expansion (t : Time) : FrameRow.Statement (.expansion t) := nofun

theorem FrameRow.entryFallsDue (t : Time) : FrameRow.Statement (.entryFallsDue t) := nofun

theorem FrameRow.stopChangeEnd (t : Time) (d : DivNo) : FrameRow.Statement (.stopChangeEnd t d) := nofun

theorem FrameRow.coilScan (t : Time) (readings : CoilReadings) : FrameRow.Statement (.coilScan t readings) := nofun

theorem FrameRow.quietCheckDeadline (t : Time) : FrameRow.Statement (.quietCheckDeadline t) := nofun

theorem FrameRow.pipeHoldEnd (t : Time) : FrameRow.Statement (.pipeHoldEnd t) := nofun

theorem FrameRow.listenDeadline (t : Time) : FrameRow.Statement (.listenDeadline t) := nofun

theorem FrameRow.releaseEnd (t : Time) : FrameRow.Statement (.releaseEnd t) := nofun

theorem FrameRow.spacingEnd (t : Time) : FrameRow.Statement (.spacingEnd t) := nofun

theorem FrameRow.ctChange (t : Time) (active : Bool) : FrameRow.Statement (.ctChange t active) := nofun

theorem FrameRow.ctTouchHeld (t : Time) : FrameRow.Statement (.ctTouchHeld t) := nofun

theorem FrameRow.ctReleaseDelayEnd (t : Time) : FrameRow.Statement (.ctReleaseDelayEnd t) := nofun

theorem FrameRow.rejoinTime (t : Time) : FrameRow.Statement (.rejoinTime t) := nofun

theorem FrameRow.timeStale (t : Time) (mic : MicNo) : FrameRow.Statement (.timeStale t mic) := nofun

theorem FrameRow.transmitByteEnd (t : Time) : FrameRow.Statement (.transmitByteEnd t) := nofun

end Sys2Proof.Laws
end

