-- ==== Sys2Proof/Laws/State.lean ====
section
/-! SUPPORT. What each update of the state leaves in each field, one lemma for each field of each update, so that no proof
unfolds a record update; and what reading a division, a key, a microphone, a shutter or a slot gives after writing one. -/

namespace Sys2Proof.Machine

/-! ### `setDiv` -/

@[simp] theorem setDiv_now (d : DivNo) (x : Division) (s : State) : (setDiv d x s).now = s.now := rfl
@[simp] theorem setDiv_rstHeld (d : DivNo) (x : Division) (s : State) : (setDiv d x s).rstHeld = s.rstHeld := rfl
@[simp] theorem setDiv_ct (d : DivNo) (x : Division) (s : State) : (setDiv d x s).ct = s.ct := rfl
@[simp] theorem setDiv_store (d : DivNo) (x : Division) (s : State) : (setDiv d x s).store = s.store := rfl
@[simp] theorem setDiv_plan (d : DivNo) (x : Division) (s : State) : (setDiv d x s).plan = s.plan := rfl
@[simp] theorem setDiv_map (d : DivNo) (x : Division) (s : State) : (setDiv d x s).map = s.map := rfl
@[simp] theorem setDiv_follower (d : DivNo) (x : Division) (s : State) : (setDiv d x s).follower = s.follower := rfl
@[simp] theorem setDiv_acoustic (d : DivNo) (x : Division) (s : State) : (setDiv d x s).acoustic = s.acoustic := rfl
@[simp] theorem setDiv_front (d : DivNo) (x : Division) (s : State) : (setDiv d x s).front = s.front := rfl
@[simp] theorem setDiv_expander (d : DivNo) (x : Division) (s : State) : (setDiv d x s).expander = s.expander := rfl
@[simp] theorem setDiv_queue (d : DivNo) (x : Division) (s : State) : (setDiv d x s).queue = s.queue := rfl
@[simp] theorem setDiv_drivers (d : DivNo) (x : Division) (s : State) :
    (setDiv d x s).drivers = { s.drivers with divisions := s.drivers.divisions.set d x } := rfl
@[simp] theorem setDiv_expression (d : DivNo) (x : Division) (s : State) : (setDiv d x s).expression = s.expression := rfl
@[simp] theorem setDiv_levelling (d : DivNo) (x : Division) (s : State) : (setDiv d x s).levelling = s.levelling := rfl
@[simp] theorem setDiv_yielding (d : DivNo) (x : Division) (s : State) : (setDiv d x s).yielding = s.yielding := rfl
@[simp] theorem setDiv_link (d : DivNo) (x : Division) (s : State) : (setDiv d x s).link = s.link := rfl
@[simp] theorem setDiv_counters (d : DivNo) (x : Division) (s : State) : (setDiv d x s).counters = s.counters := rfl
@[simp] theorem setDiv_marks (d : DivNo) (x : Division) (s : State) : (setDiv d x s).marks = s.marks := rfl
@[simp] theorem setDiv_choices (d : DivNo) (x : Division) (s : State) : (setDiv d x s).choices = s.choices := rfl
@[simp] theorem setDiv_pending (d : DivNo) (x : Division) (s : State) : (setDiv d x s).pending = s.pending := rfl

/-! ### `setMic` -/

@[simp] theorem setMic_now (m : MicNo) (x : Mic) (s : State) : (setMic m x s).now = s.now := rfl
@[simp] theorem setMic_rstHeld (m : MicNo) (x : Mic) (s : State) : (setMic m x s).rstHeld = s.rstHeld := rfl
@[simp] theorem setMic_ct (m : MicNo) (x : Mic) (s : State) : (setMic m x s).ct = s.ct := rfl
@[simp] theorem setMic_store (m : MicNo) (x : Mic) (s : State) : (setMic m x s).store = s.store := rfl
@[simp] theorem setMic_plan (m : MicNo) (x : Mic) (s : State) : (setMic m x s).plan = s.plan := rfl
@[simp] theorem setMic_map (m : MicNo) (x : Mic) (s : State) : (setMic m x s).map = s.map := rfl
@[simp] theorem setMic_follower (m : MicNo) (x : Mic) (s : State) : (setMic m x s).follower = s.follower := rfl
@[simp] theorem setMic_acoustic (m : MicNo) (x : Mic) (s : State) : (setMic m x s).acoustic = s.acoustic := rfl
@[simp] theorem setMic_front (m : MicNo) (x : Mic) (s : State) :
    (setMic m x s).front = { s.front with mics := s.front.mics.set m x } := rfl
@[simp] theorem setMic_expander (m : MicNo) (x : Mic) (s : State) : (setMic m x s).expander = s.expander := rfl
@[simp] theorem setMic_queue (m : MicNo) (x : Mic) (s : State) : (setMic m x s).queue = s.queue := rfl
@[simp] theorem setMic_drivers (m : MicNo) (x : Mic) (s : State) : (setMic m x s).drivers = s.drivers := rfl
@[simp] theorem setMic_expression (m : MicNo) (x : Mic) (s : State) : (setMic m x s).expression = s.expression := rfl
@[simp] theorem setMic_levelling (m : MicNo) (x : Mic) (s : State) : (setMic m x s).levelling = s.levelling := rfl
@[simp] theorem setMic_yielding (m : MicNo) (x : Mic) (s : State) : (setMic m x s).yielding = s.yielding := rfl
@[simp] theorem setMic_link (m : MicNo) (x : Mic) (s : State) : (setMic m x s).link = s.link := rfl
@[simp] theorem setMic_counters (m : MicNo) (x : Mic) (s : State) : (setMic m x s).counters = s.counters := rfl
@[simp] theorem setMic_marks (m : MicNo) (x : Mic) (s : State) : (setMic m x s).marks = s.marks := rfl
@[simp] theorem setMic_choices (m : MicNo) (x : Mic) (s : State) : (setMic m x s).choices = s.choices := rfl
@[simp] theorem setMic_pending (m : MicNo) (x : Mic) (s : State) : (setMic m x s).pending = s.pending := rfl

/-! ### `setShutter` -/

@[simp] theorem setShutter_now (d : DivNo) (x : Shutter) (s : State) : (setShutter d x s).now = s.now := rfl
@[simp] theorem setShutter_rstHeld (d : DivNo) (x : Shutter) (s : State) : (setShutter d x s).rstHeld = s.rstHeld := rfl
@[simp] theorem setShutter_ct (d : DivNo) (x : Shutter) (s : State) : (setShutter d x s).ct = s.ct := rfl
@[simp] theorem setShutter_store (d : DivNo) (x : Shutter) (s : State) : (setShutter d x s).store = s.store := rfl
@[simp] theorem setShutter_plan (d : DivNo) (x : Shutter) (s : State) : (setShutter d x s).plan = s.plan := rfl
@[simp] theorem setShutter_map (d : DivNo) (x : Shutter) (s : State) : (setShutter d x s).map = s.map := rfl
@[simp] theorem setShutter_follower (d : DivNo) (x : Shutter) (s : State) : (setShutter d x s).follower = s.follower := rfl
@[simp] theorem setShutter_acoustic (d : DivNo) (x : Shutter) (s : State) : (setShutter d x s).acoustic = s.acoustic := rfl
@[simp] theorem setShutter_front (d : DivNo) (x : Shutter) (s : State) : (setShutter d x s).front = s.front := rfl
@[simp] theorem setShutter_expander (d : DivNo) (x : Shutter) (s : State) : (setShutter d x s).expander = s.expander := rfl
@[simp] theorem setShutter_queue (d : DivNo) (x : Shutter) (s : State) : (setShutter d x s).queue = s.queue := rfl
@[simp] theorem setShutter_drivers (d : DivNo) (x : Shutter) (s : State) : (setShutter d x s).drivers = s.drivers := rfl
@[simp] theorem setShutter_expression (d : DivNo) (x : Shutter) (s : State) :
    (setShutter d x s).expression = { s.expression with shutters := s.expression.shutters.set d x } := rfl
@[simp] theorem setShutter_levelling (d : DivNo) (x : Shutter) (s : State) : (setShutter d x s).levelling = s.levelling := rfl
@[simp] theorem setShutter_yielding (d : DivNo) (x : Shutter) (s : State) : (setShutter d x s).yielding = s.yielding := rfl
@[simp] theorem setShutter_link (d : DivNo) (x : Shutter) (s : State) : (setShutter d x s).link = s.link := rfl
@[simp] theorem setShutter_counters (d : DivNo) (x : Shutter) (s : State) : (setShutter d x s).counters = s.counters := rfl
@[simp] theorem setShutter_marks (d : DivNo) (x : Shutter) (s : State) : (setShutter d x s).marks = s.marks := rfl
@[simp] theorem setShutter_choices (d : DivNo) (x : Shutter) (s : State) : (setShutter d x s).choices = s.choices := rfl
@[simp] theorem setShutter_pending (d : DivNo) (x : Shutter) (s : State) : (setShutter d x s).pending = s.pending := rfl

/-! ### `reply` -/

@[simp] theorem reply_now (f : Frame) (x : Answer) (s : State) : (reply f x s).now = s.now := rfl
@[simp] theorem reply_rstHeld (f : Frame) (x : Answer) (s : State) : (reply f x s).rstHeld = s.rstHeld := rfl
@[simp] theorem reply_ct (f : Frame) (x : Answer) (s : State) : (reply f x s).ct = s.ct := rfl
@[simp] theorem reply_store (f : Frame) (x : Answer) (s : State) : (reply f x s).store = s.store := rfl
@[simp] theorem reply_plan (f : Frame) (x : Answer) (s : State) : (reply f x s).plan = s.plan := rfl
@[simp] theorem reply_map (f : Frame) (x : Answer) (s : State) : (reply f x s).map = s.map := rfl
@[simp] theorem reply_follower (f : Frame) (x : Answer) (s : State) : (reply f x s).follower = s.follower := rfl
@[simp] theorem reply_acoustic (f : Frame) (x : Answer) (s : State) : (reply f x s).acoustic = s.acoustic := rfl
@[simp] theorem reply_front (f : Frame) (x : Answer) (s : State) : (reply f x s).front = s.front := rfl
@[simp] theorem reply_expander (f : Frame) (x : Answer) (s : State) : (reply f x s).expander = s.expander := rfl
@[simp] theorem reply_queue (f : Frame) (x : Answer) (s : State) : (reply f x s).queue = s.queue := rfl
@[simp] theorem reply_drivers (f : Frame) (x : Answer) (s : State) : (reply f x s).drivers = s.drivers := rfl
@[simp] theorem reply_expression (f : Frame) (x : Answer) (s : State) : (reply f x s).expression = s.expression := rfl
@[simp] theorem reply_levelling (f : Frame) (x : Answer) (s : State) : (reply f x s).levelling = s.levelling := rfl
@[simp] theorem reply_yielding (f : Frame) (x : Answer) (s : State) : (reply f x s).yielding = s.yielding := rfl
@[simp] theorem reply_link (f : Frame) (x : Answer) (s : State) :
    (reply f x s).link = { s.link with outgoing := s.link.outgoing ++ [.reply f.kind f.tag x.status x.fields] } := rfl
@[simp] theorem reply_counters (f : Frame) (x : Answer) (s : State) : (reply f x s).counters = s.counters := rfl
@[simp] theorem reply_marks (f : Frame) (x : Answer) (s : State) : (reply f x s).marks = s.marks := rfl
@[simp] theorem reply_choices (f : Frame) (x : Answer) (s : State) : (reply f x s).choices = s.choices := rfl
@[simp] theorem reply_pending (f : Frame) (x : Answer) (s : State) : (reply f x s).pending = s.pending := rfl

/-! ### `clearWaiting` -/

@[simp] theorem clearWaiting_now (s : State) : (clearWaiting s).now = s.now := rfl
@[simp] theorem clearWaiting_rstHeld (s : State) : (clearWaiting s).rstHeld = s.rstHeld := rfl
@[simp] theorem clearWaiting_ct (s : State) : (clearWaiting s).ct = s.ct := rfl
@[simp] theorem clearWaiting_store (s : State) : (clearWaiting s).store = s.store := rfl
@[simp] theorem clearWaiting_plan (s : State) : (clearWaiting s).plan = s.plan := rfl
@[simp] theorem clearWaiting_map (s : State) : (clearWaiting s).map = s.map := rfl
@[simp] theorem clearWaiting_follower (s : State) : (clearWaiting s).follower = s.follower := rfl
@[simp] theorem clearWaiting_acoustic (s : State) : (clearWaiting s).acoustic = s.acoustic := rfl
@[simp] theorem clearWaiting_front (s : State) : (clearWaiting s).front = s.front := rfl
@[simp] theorem clearWaiting_expander (s : State) : (clearWaiting s).expander = s.expander := rfl
@[simp] theorem clearWaiting_queue (s : State) : (clearWaiting s).queue = s.queue := rfl
@[simp] theorem clearWaiting_drivers (s : State) : (clearWaiting s).drivers = s.drivers := rfl
@[simp] theorem clearWaiting_expression (s : State) : (clearWaiting s).expression = s.expression := rfl
@[simp] theorem clearWaiting_levelling (s : State) : (clearWaiting s).levelling = s.levelling := rfl
@[simp] theorem clearWaiting_yielding (s : State) : (clearWaiting s).yielding = s.yielding := rfl
@[simp] theorem clearWaiting_link (s : State) : (clearWaiting s).link = { s.link with waiting := none } := rfl
@[simp] theorem clearWaiting_counters (s : State) : (clearWaiting s).counters = s.counters := rfl
@[simp] theorem clearWaiting_marks (s : State) : (clearWaiting s).marks = s.marks := rfl
@[simp] theorem clearWaiting_choices (s : State) : (clearWaiting s).choices = s.choices := rfl
@[simp] theorem clearWaiting_pending (s : State) : (clearWaiting s).pending = s.pending := rfl

/-! ### `setReceiver` -/

@[simp] theorem setReceiver_now (r : Receiver) (s : State) : (setReceiver r s).now = s.now := rfl
@[simp] theorem setReceiver_rstHeld (r : Receiver) (s : State) : (setReceiver r s).rstHeld = s.rstHeld := rfl
@[simp] theorem setReceiver_ct (r : Receiver) (s : State) : (setReceiver r s).ct = s.ct := rfl
@[simp] theorem setReceiver_store (r : Receiver) (s : State) : (setReceiver r s).store = s.store := rfl
@[simp] theorem setReceiver_plan (r : Receiver) (s : State) : (setReceiver r s).plan = s.plan := rfl
@[simp] theorem setReceiver_map (r : Receiver) (s : State) : (setReceiver r s).map = s.map := rfl
@[simp] theorem setReceiver_follower (r : Receiver) (s : State) : (setReceiver r s).follower = s.follower := rfl
@[simp] theorem setReceiver_acoustic (r : Receiver) (s : State) : (setReceiver r s).acoustic = s.acoustic := rfl
@[simp] theorem setReceiver_front (r : Receiver) (s : State) : (setReceiver r s).front = s.front := rfl
@[simp] theorem setReceiver_expander (r : Receiver) (s : State) : (setReceiver r s).expander = s.expander := rfl
@[simp] theorem setReceiver_queue (r : Receiver) (s : State) : (setReceiver r s).queue = s.queue := rfl
@[simp] theorem setReceiver_drivers (r : Receiver) (s : State) : (setReceiver r s).drivers = s.drivers := rfl
@[simp] theorem setReceiver_expression (r : Receiver) (s : State) : (setReceiver r s).expression = s.expression := rfl
@[simp] theorem setReceiver_levelling (r : Receiver) (s : State) : (setReceiver r s).levelling = s.levelling := rfl
@[simp] theorem setReceiver_yielding (r : Receiver) (s : State) : (setReceiver r s).yielding = s.yielding := rfl
@[simp] theorem setReceiver_link (r : Receiver) (s : State) : (setReceiver r s).link = { s.link with receiver := r } := rfl
@[simp] theorem setReceiver_counters (r : Receiver) (s : State) : (setReceiver r s).counters = s.counters := rfl
@[simp] theorem setReceiver_marks (r : Receiver) (s : State) : (setReceiver r s).marks = s.marks := rfl
@[simp] theorem setReceiver_choices (r : Receiver) (s : State) : (setReceiver r s).choices = s.choices := rfl
@[simp] theorem setReceiver_pending (r : Receiver) (s : State) : (setReceiver r s).pending = s.pending := rfl

/-! ### `byteSent` -/

@[simp] theorem byteSent_now (s : State) : (byteSent s).now = s.now := rfl
@[simp] theorem byteSent_rstHeld (s : State) : (byteSent s).rstHeld = s.rstHeld := rfl
@[simp] theorem byteSent_ct (s : State) : (byteSent s).ct = s.ct := rfl
@[simp] theorem byteSent_store (s : State) : (byteSent s).store = s.store := rfl
@[simp] theorem byteSent_plan (s : State) : (byteSent s).plan = s.plan := rfl
@[simp] theorem byteSent_map (s : State) : (byteSent s).map = s.map := rfl
@[simp] theorem byteSent_follower (s : State) : (byteSent s).follower = s.follower := rfl
@[simp] theorem byteSent_acoustic (s : State) : (byteSent s).acoustic = s.acoustic := rfl
@[simp] theorem byteSent_front (s : State) : (byteSent s).front = s.front := rfl
@[simp] theorem byteSent_expander (s : State) : (byteSent s).expander = s.expander := rfl
@[simp] theorem byteSent_queue (s : State) : (byteSent s).queue = s.queue := rfl
@[simp] theorem byteSent_drivers (s : State) : (byteSent s).drivers = s.drivers := rfl
@[simp] theorem byteSent_expression (s : State) : (byteSent s).expression = s.expression := rfl
@[simp] theorem byteSent_levelling (s : State) : (byteSent s).levelling = s.levelling := rfl
@[simp] theorem byteSent_yielding (s : State) : (byteSent s).yielding = s.yielding := rfl
@[simp] theorem byteSent_link (s : State) : (byteSent s).link = { s.link with tx := s.link.tx.drop 1 } := rfl
@[simp] theorem byteSent_counters (s : State) : (byteSent s).counters = s.counters := rfl
@[simp] theorem byteSent_marks (s : State) : (byteSent s).marks = s.marks := rfl
@[simp] theorem byteSent_choices (s : State) : (byteSent s).choices = s.choices := rfl
@[simp] theorem byteSent_pending (s : State) : (byteSent s).pending = s.pending := rfl

/-! ### `mapDivisions` -/

@[simp] theorem mapDivisions_now (f : DivNo → Division → Division) (s : State) : (mapDivisions f s).now = s.now := rfl
@[simp] theorem mapDivisions_rstHeld (f : DivNo → Division → Division) (s : State) :
    (mapDivisions f s).rstHeld = s.rstHeld := rfl
@[simp] theorem mapDivisions_ct (f : DivNo → Division → Division) (s : State) : (mapDivisions f s).ct = s.ct := rfl
@[simp] theorem mapDivisions_store (f : DivNo → Division → Division) (s : State) : (mapDivisions f s).store = s.store := rfl
@[simp] theorem mapDivisions_plan (f : DivNo → Division → Division) (s : State) : (mapDivisions f s).plan = s.plan := rfl
@[simp] theorem mapDivisions_map (f : DivNo → Division → Division) (s : State) : (mapDivisions f s).map = s.map := rfl
@[simp] theorem mapDivisions_follower (f : DivNo → Division → Division) (s : State) :
    (mapDivisions f s).follower = s.follower := rfl
@[simp] theorem mapDivisions_acoustic (f : DivNo → Division → Division) (s : State) :
    (mapDivisions f s).acoustic = s.acoustic := rfl
@[simp] theorem mapDivisions_front (f : DivNo → Division → Division) (s : State) : (mapDivisions f s).front = s.front := rfl
@[simp] theorem mapDivisions_expander (f : DivNo → Division → Division) (s : State) :
    (mapDivisions f s).expander = s.expander := rfl
@[simp] theorem mapDivisions_queue (f : DivNo → Division → Division) (s : State) : (mapDivisions f s).queue = s.queue := rfl
@[simp] theorem mapDivisions_drivers (f : DivNo → Division → Division) (s : State) :
    (mapDivisions f s).drivers = { s.drivers with divisions := mapIdx f s.drivers.divisions } := rfl
@[simp] theorem mapDivisions_expression (f : DivNo → Division → Division) (s : State) :
    (mapDivisions f s).expression = s.expression := rfl
@[simp] theorem mapDivisions_levelling (f : DivNo → Division → Division) (s : State) :
    (mapDivisions f s).levelling = s.levelling := rfl
@[simp] theorem mapDivisions_yielding (f : DivNo → Division → Division) (s : State) :
    (mapDivisions f s).yielding = s.yielding := rfl
@[simp] theorem mapDivisions_link (f : DivNo → Division → Division) (s : State) : (mapDivisions f s).link = s.link := rfl
@[simp] theorem mapDivisions_counters (f : DivNo → Division → Division) (s : State) :
    (mapDivisions f s).counters = s.counters := rfl
@[simp] theorem mapDivisions_marks (f : DivNo → Division → Division) (s : State) : (mapDivisions f s).marks = s.marks := rfl
@[simp] theorem mapDivisions_choices (f : DivNo → Division → Division) (s : State) :
    (mapDivisions f s).choices = s.choices := rfl
@[simp] theorem mapDivisions_pending (f : DivNo → Division → Division) (s : State) :
    (mapDivisions f s).pending = s.pending := rfl

/-! ### `mapShutters` -/

@[simp] theorem mapShutters_now (f : DivNo → Shutter → Shutter) (s : State) : (mapShutters f s).now = s.now := rfl
@[simp] theorem mapShutters_rstHeld (f : DivNo → Shutter → Shutter) (s : State) : (mapShutters f s).rstHeld = s.rstHeld := rfl
@[simp] theorem mapShutters_ct (f : DivNo → Shutter → Shutter) (s : State) : (mapShutters f s).ct = s.ct := rfl
@[simp] theorem mapShutters_store (f : DivNo → Shutter → Shutter) (s : State) : (mapShutters f s).store = s.store := rfl
@[simp] theorem mapShutters_plan (f : DivNo → Shutter → Shutter) (s : State) : (mapShutters f s).plan = s.plan := rfl
@[simp] theorem mapShutters_map (f : DivNo → Shutter → Shutter) (s : State) : (mapShutters f s).map = s.map := rfl
@[simp] theorem mapShutters_follower (f : DivNo → Shutter → Shutter) (s : State) :
    (mapShutters f s).follower = s.follower := rfl
@[simp] theorem mapShutters_acoustic (f : DivNo → Shutter → Shutter) (s : State) :
    (mapShutters f s).acoustic = s.acoustic := rfl
@[simp] theorem mapShutters_front (f : DivNo → Shutter → Shutter) (s : State) : (mapShutters f s).front = s.front := rfl
@[simp] theorem mapShutters_expander (f : DivNo → Shutter → Shutter) (s : State) :
    (mapShutters f s).expander = s.expander := rfl
@[simp] theorem mapShutters_queue (f : DivNo → Shutter → Shutter) (s : State) : (mapShutters f s).queue = s.queue := rfl
@[simp] theorem mapShutters_drivers (f : DivNo → Shutter → Shutter) (s : State) : (mapShutters f s).drivers = s.drivers := rfl
@[simp] theorem mapShutters_expression (f : DivNo → Shutter → Shutter) (s : State) :
    (mapShutters f s).expression = { s.expression with shutters := mapIdx f s.expression.shutters } := rfl
@[simp] theorem mapShutters_levelling (f : DivNo → Shutter → Shutter) (s : State) :
    (mapShutters f s).levelling = s.levelling := rfl
@[simp] theorem mapShutters_yielding (f : DivNo → Shutter → Shutter) (s : State) :
    (mapShutters f s).yielding = s.yielding := rfl
@[simp] theorem mapShutters_link (f : DivNo → Shutter → Shutter) (s : State) : (mapShutters f s).link = s.link := rfl
@[simp] theorem mapShutters_counters (f : DivNo → Shutter → Shutter) (s : State) :
    (mapShutters f s).counters = s.counters := rfl
@[simp] theorem mapShutters_marks (f : DivNo → Shutter → Shutter) (s : State) : (mapShutters f s).marks = s.marks := rfl
@[simp] theorem mapShutters_choices (f : DivNo → Shutter → Shutter) (s : State) : (mapShutters f s).choices = s.choices := rfl
@[simp] theorem mapShutters_pending (f : DivNo → Shutter → Shutter) (s : State) : (mapShutters f s).pending = s.pending := rfl

/-! ### `reportOpening` -/

@[simp] theorem reportOpening_now (d : DivNo) (s : State) : (reportOpening d s).now = s.now := rfl
@[simp] theorem reportOpening_rstHeld (d : DivNo) (s : State) : (reportOpening d s).rstHeld = s.rstHeld := rfl
@[simp] theorem reportOpening_ct (d : DivNo) (s : State) : (reportOpening d s).ct = s.ct := rfl
@[simp] theorem reportOpening_store (d : DivNo) (s : State) : (reportOpening d s).store = s.store := rfl
@[simp] theorem reportOpening_plan (d : DivNo) (s : State) : (reportOpening d s).plan = s.plan := rfl
@[simp] theorem reportOpening_map (d : DivNo) (s : State) : (reportOpening d s).map = s.map := rfl
@[simp] theorem reportOpening_follower (d : DivNo) (s : State) : (reportOpening d s).follower = s.follower := rfl
@[simp] theorem reportOpening_acoustic (d : DivNo) (s : State) : (reportOpening d s).acoustic = s.acoustic := rfl
@[simp] theorem reportOpening_front (d : DivNo) (s : State) :
    (reportOpening d s).front = { s.front with mics := mapIdx (withGate s d) s.front.mics } := rfl
@[simp] theorem reportOpening_expander (d : DivNo) (s : State) : (reportOpening d s).expander = s.expander := rfl
@[simp] theorem reportOpening_queue (d : DivNo) (s : State) : (reportOpening d s).queue = s.queue := rfl
@[simp] theorem reportOpening_drivers (d : DivNo) (s : State) : (reportOpening d s).drivers = s.drivers := rfl
@[simp] theorem reportOpening_expression (d : DivNo) (s : State) : (reportOpening d s).expression = s.expression := rfl
@[simp] theorem reportOpening_levelling (d : DivNo) (s : State) : (reportOpening d s).levelling = s.levelling := rfl
@[simp] theorem reportOpening_yielding (d : DivNo) (s : State) : (reportOpening d s).yielding = s.yielding := rfl
@[simp] theorem reportOpening_link (d : DivNo) (s : State) : (reportOpening d s).link = s.link := rfl
@[simp] theorem reportOpening_counters (d : DivNo) (s : State) : (reportOpening d s).counters = s.counters := rfl
@[simp] theorem reportOpening_marks (d : DivNo) (s : State) : (reportOpening d s).marks = s.marks := rfl
@[simp] theorem reportOpening_choices (d : DivNo) (s : State) : (reportOpening d s).choices = s.choices := rfl
@[simp] theorem reportOpening_pending (d : DivNo) (s : State) : (reportOpening d s).pending = s.pending := rfl

/-! ### `setCursor` -/

@[simp] theorem setCursor_now (c : Cursor) (s : State) : (setCursor c s).now = s.now := rfl
@[simp] theorem setCursor_rstHeld (c : Cursor) (s : State) : (setCursor c s).rstHeld = s.rstHeld := rfl
@[simp] theorem setCursor_ct (c : Cursor) (s : State) : (setCursor c s).ct = s.ct := rfl
@[simp] theorem setCursor_store (c : Cursor) (s : State) : (setCursor c s).store = s.store := rfl
@[simp] theorem setCursor_plan (c : Cursor) (s : State) : (setCursor c s).plan = s.plan := rfl
@[simp] theorem setCursor_map (c : Cursor) (s : State) : (setCursor c s).map = s.map := rfl
@[simp] theorem setCursor_follower (c : Cursor) (s : State) : (setCursor c s).follower = s.follower := rfl
@[simp] theorem setCursor_acoustic (c : Cursor) (s : State) : (setCursor c s).acoustic = s.acoustic := rfl
@[simp] theorem setCursor_front (c : Cursor) (s : State) : (setCursor c s).front = s.front := rfl
@[simp] theorem setCursor_expander (c : Cursor) (s : State) :
    (setCursor c s).expander = { s.expander with cursor := c, carried := .all none, firstDone := false } := rfl
@[simp] theorem setCursor_queue (c : Cursor) (s : State) : (setCursor c s).queue = s.queue := rfl
@[simp] theorem setCursor_drivers (c : Cursor) (s : State) : (setCursor c s).drivers = s.drivers := rfl
@[simp] theorem setCursor_expression (c : Cursor) (s : State) : (setCursor c s).expression = s.expression := rfl
@[simp] theorem setCursor_levelling (c : Cursor) (s : State) : (setCursor c s).levelling = s.levelling := rfl
@[simp] theorem setCursor_yielding (c : Cursor) (s : State) : (setCursor c s).yielding = s.yielding := rfl
@[simp] theorem setCursor_link (c : Cursor) (s : State) : (setCursor c s).link = s.link := rfl
@[simp] theorem setCursor_counters (c : Cursor) (s : State) : (setCursor c s).counters = s.counters := rfl
@[simp] theorem setCursor_marks (c : Cursor) (s : State) : (setCursor c s).marks = s.marks := rfl
@[simp] theorem setCursor_choices (c : Cursor) (s : State) : (setCursor c s).choices = s.choices := rfl
@[simp] theorem setCursor_pending (c : Cursor) (s : State) : (setCursor c s).pending = s.pending := rfl

/-! ### `setFollower` -/

@[simp] theorem setFollower_now (x : Follower) (s : State) : (setFollower x s).now = s.now := rfl
@[simp] theorem setFollower_rstHeld (x : Follower) (s : State) : (setFollower x s).rstHeld = s.rstHeld := rfl
@[simp] theorem setFollower_ct (x : Follower) (s : State) : (setFollower x s).ct = s.ct := rfl
@[simp] theorem setFollower_store (x : Follower) (s : State) : (setFollower x s).store = s.store := rfl
@[simp] theorem setFollower_plan (x : Follower) (s : State) : (setFollower x s).plan = s.plan := rfl
@[simp] theorem setFollower_map (x : Follower) (s : State) : (setFollower x s).map = s.map := rfl
@[simp] theorem setFollower_follower (x : Follower) (s : State) : (setFollower x s).follower = x := rfl
@[simp] theorem setFollower_acoustic (x : Follower) (s : State) : (setFollower x s).acoustic = s.acoustic := rfl
@[simp] theorem setFollower_front (x : Follower) (s : State) : (setFollower x s).front = s.front := rfl
@[simp] theorem setFollower_expander (x : Follower) (s : State) : (setFollower x s).expander = s.expander := rfl
@[simp] theorem setFollower_queue (x : Follower) (s : State) : (setFollower x s).queue = s.queue := rfl
@[simp] theorem setFollower_drivers (x : Follower) (s : State) : (setFollower x s).drivers = s.drivers := rfl
@[simp] theorem setFollower_expression (x : Follower) (s : State) : (setFollower x s).expression = s.expression := rfl
@[simp] theorem setFollower_levelling (x : Follower) (s : State) : (setFollower x s).levelling = s.levelling := rfl
@[simp] theorem setFollower_yielding (x : Follower) (s : State) : (setFollower x s).yielding = s.yielding := rfl
@[simp] theorem setFollower_link (x : Follower) (s : State) : (setFollower x s).link = s.link := rfl
@[simp] theorem setFollower_counters (x : Follower) (s : State) : (setFollower x s).counters = s.counters := rfl
@[simp] theorem setFollower_marks (x : Follower) (s : State) : (setFollower x s).marks = s.marks := rfl
@[simp] theorem setFollower_choices (x : Follower) (s : State) : (setFollower x s).choices = s.choices := rfl
@[simp] theorem setFollower_pending (x : Follower) (s : State) : (setFollower x s).pending = s.pending := rfl

/-! ### `setMap` -/

@[simp] theorem setMap_now (x : ScoreMap) (s : State) : (setMap x s).now = s.now := rfl
@[simp] theorem setMap_rstHeld (x : ScoreMap) (s : State) : (setMap x s).rstHeld = s.rstHeld := rfl
@[simp] theorem setMap_ct (x : ScoreMap) (s : State) : (setMap x s).ct = s.ct := rfl
@[simp] theorem setMap_store (x : ScoreMap) (s : State) : (setMap x s).store = s.store := rfl
@[simp] theorem setMap_plan (x : ScoreMap) (s : State) : (setMap x s).plan = s.plan := rfl
@[simp] theorem setMap_map (x : ScoreMap) (s : State) : (setMap x s).map = x := rfl
@[simp] theorem setMap_follower (x : ScoreMap) (s : State) : (setMap x s).follower = s.follower := rfl
@[simp] theorem setMap_acoustic (x : ScoreMap) (s : State) : (setMap x s).acoustic = s.acoustic := rfl
@[simp] theorem setMap_front (x : ScoreMap) (s : State) : (setMap x s).front = s.front := rfl
@[simp] theorem setMap_expander (x : ScoreMap) (s : State) : (setMap x s).expander = s.expander := rfl
@[simp] theorem setMap_queue (x : ScoreMap) (s : State) : (setMap x s).queue = s.queue := rfl
@[simp] theorem setMap_drivers (x : ScoreMap) (s : State) : (setMap x s).drivers = s.drivers := rfl
@[simp] theorem setMap_expression (x : ScoreMap) (s : State) : (setMap x s).expression = s.expression := rfl
@[simp] theorem setMap_levelling (x : ScoreMap) (s : State) : (setMap x s).levelling = s.levelling := rfl
@[simp] theorem setMap_yielding (x : ScoreMap) (s : State) : (setMap x s).yielding = s.yielding := rfl
@[simp] theorem setMap_link (x : ScoreMap) (s : State) : (setMap x s).link = s.link := rfl
@[simp] theorem setMap_counters (x : ScoreMap) (s : State) : (setMap x s).counters = s.counters := rfl
@[simp] theorem setMap_marks (x : ScoreMap) (s : State) : (setMap x s).marks = s.marks := rfl
@[simp] theorem setMap_choices (x : ScoreMap) (s : State) : (setMap x s).choices = s.choices := rfl
@[simp] theorem setMap_pending (x : ScoreMap) (s : State) : (setMap x s).pending = s.pending := rfl

/-! ### `setMode` -/

@[simp] theorem setMode_now (m : FollowerMode) (s : State) : (setMode m s).now = s.now := rfl
@[simp] theorem setMode_rstHeld (m : FollowerMode) (s : State) : (setMode m s).rstHeld = s.rstHeld := rfl
@[simp] theorem setMode_ct (m : FollowerMode) (s : State) : (setMode m s).ct = s.ct := rfl
@[simp] theorem setMode_store (m : FollowerMode) (s : State) : (setMode m s).store = s.store := rfl
@[simp] theorem setMode_plan (m : FollowerMode) (s : State) : (setMode m s).plan = s.plan := rfl
@[simp] theorem setMode_map (m : FollowerMode) (s : State) : (setMode m s).map = s.map := rfl
@[simp] theorem setMode_follower (m : FollowerMode) (s : State) : (setMode m s).follower = { s.follower with mode := m } := rfl
@[simp] theorem setMode_acoustic (m : FollowerMode) (s : State) : (setMode m s).acoustic = s.acoustic := rfl
@[simp] theorem setMode_front (m : FollowerMode) (s : State) : (setMode m s).front = s.front := rfl
@[simp] theorem setMode_expander (m : FollowerMode) (s : State) : (setMode m s).expander = s.expander := rfl
@[simp] theorem setMode_queue (m : FollowerMode) (s : State) : (setMode m s).queue = s.queue := rfl
@[simp] theorem setMode_drivers (m : FollowerMode) (s : State) : (setMode m s).drivers = s.drivers := rfl
@[simp] theorem setMode_expression (m : FollowerMode) (s : State) : (setMode m s).expression = s.expression := rfl
@[simp] theorem setMode_levelling (m : FollowerMode) (s : State) : (setMode m s).levelling = s.levelling := rfl
@[simp] theorem setMode_yielding (m : FollowerMode) (s : State) : (setMode m s).yielding = s.yielding := rfl
@[simp] theorem setMode_link (m : FollowerMode) (s : State) : (setMode m s).link = s.link := rfl
@[simp] theorem setMode_counters (m : FollowerMode) (s : State) : (setMode m s).counters = s.counters := rfl
@[simp] theorem setMode_marks (m : FollowerMode) (s : State) : (setMode m s).marks = s.marks := rfl
@[simp] theorem setMode_choices (m : FollowerMode) (s : State) : (setMode m s).choices = s.choices := rfl
@[simp] theorem setMode_pending (m : FollowerMode) (s : State) : (setMode m s).pending = s.pending := rfl

/-! ### `setCues` -/

@[simp] theorem setCues_now (cs : List Cue) (s : State) : (setCues cs s).now = s.now := rfl
@[simp] theorem setCues_rstHeld (cs : List Cue) (s : State) : (setCues cs s).rstHeld = s.rstHeld := rfl
@[simp] theorem setCues_ct (cs : List Cue) (s : State) : (setCues cs s).ct = s.ct := rfl
@[simp] theorem setCues_store (cs : List Cue) (s : State) : (setCues cs s).store = s.store := rfl
@[simp] theorem setCues_plan (cs : List Cue) (s : State) : (setCues cs s).plan = s.plan := rfl
@[simp] theorem setCues_map (cs : List Cue) (s : State) : (setCues cs s).map = s.map := rfl
@[simp] theorem setCues_follower (cs : List Cue) (s : State) : (setCues cs s).follower = { s.follower with cues := cs } := rfl
@[simp] theorem setCues_acoustic (cs : List Cue) (s : State) : (setCues cs s).acoustic = s.acoustic := rfl
@[simp] theorem setCues_front (cs : List Cue) (s : State) : (setCues cs s).front = s.front := rfl
@[simp] theorem setCues_expander (cs : List Cue) (s : State) : (setCues cs s).expander = s.expander := rfl
@[simp] theorem setCues_queue (cs : List Cue) (s : State) : (setCues cs s).queue = s.queue := rfl
@[simp] theorem setCues_drivers (cs : List Cue) (s : State) : (setCues cs s).drivers = s.drivers := rfl
@[simp] theorem setCues_expression (cs : List Cue) (s : State) : (setCues cs s).expression = s.expression := rfl
@[simp] theorem setCues_levelling (cs : List Cue) (s : State) : (setCues cs s).levelling = s.levelling := rfl
@[simp] theorem setCues_yielding (cs : List Cue) (s : State) : (setCues cs s).yielding = s.yielding := rfl
@[simp] theorem setCues_link (cs : List Cue) (s : State) : (setCues cs s).link = s.link := rfl
@[simp] theorem setCues_counters (cs : List Cue) (s : State) : (setCues cs s).counters = s.counters := rfl
@[simp] theorem setCues_marks (cs : List Cue) (s : State) : (setCues cs s).marks = s.marks := rfl
@[simp] theorem setCues_choices (cs : List Cue) (s : State) : (setCues cs s).choices = s.choices := rfl
@[simp] theorem setCues_pending (cs : List Cue) (s : State) : (setCues cs s).pending = s.pending := rfl

/-! ### `setPauses` -/

@[simp] theorem setPauses_now (ps : List Pause) (s : State) : (setPauses ps s).now = s.now := rfl
@[simp] theorem setPauses_rstHeld (ps : List Pause) (s : State) : (setPauses ps s).rstHeld = s.rstHeld := rfl
@[simp] theorem setPauses_ct (ps : List Pause) (s : State) : (setPauses ps s).ct = s.ct := rfl
@[simp] theorem setPauses_store (ps : List Pause) (s : State) : (setPauses ps s).store = s.store := rfl
@[simp] theorem setPauses_plan (ps : List Pause) (s : State) : (setPauses ps s).plan = s.plan := rfl
@[simp] theorem setPauses_map (ps : List Pause) (s : State) : (setPauses ps s).map = { s.map with pauses := ps } := rfl
@[simp] theorem setPauses_follower (ps : List Pause) (s : State) : (setPauses ps s).follower = s.follower := rfl
@[simp] theorem setPauses_acoustic (ps : List Pause) (s : State) : (setPauses ps s).acoustic = s.acoustic := rfl
@[simp] theorem setPauses_front (ps : List Pause) (s : State) : (setPauses ps s).front = s.front := rfl
@[simp] theorem setPauses_expander (ps : List Pause) (s : State) : (setPauses ps s).expander = s.expander := rfl
@[simp] theorem setPauses_queue (ps : List Pause) (s : State) : (setPauses ps s).queue = s.queue := rfl
@[simp] theorem setPauses_drivers (ps : List Pause) (s : State) : (setPauses ps s).drivers = s.drivers := rfl
@[simp] theorem setPauses_expression (ps : List Pause) (s : State) : (setPauses ps s).expression = s.expression := rfl
@[simp] theorem setPauses_levelling (ps : List Pause) (s : State) : (setPauses ps s).levelling = s.levelling := rfl
@[simp] theorem setPauses_yielding (ps : List Pause) (s : State) : (setPauses ps s).yielding = s.yielding := rfl
@[simp] theorem setPauses_link (ps : List Pause) (s : State) : (setPauses ps s).link = s.link := rfl
@[simp] theorem setPauses_counters (ps : List Pause) (s : State) : (setPauses ps s).counters = s.counters := rfl
@[simp] theorem setPauses_marks (ps : List Pause) (s : State) : (setPauses ps s).marks = s.marks := rfl
@[simp] theorem setPauses_choices (ps : List Pause) (s : State) : (setPauses ps s).choices = s.choices := rfl
@[simp] theorem setPauses_pending (ps : List Pause) (s : State) : (setPauses ps s).pending = s.pending := rfl

/-! ### `enterMode` -/

@[simp] theorem enterMode_now (m : FollowerMode) (s : State) : (enterMode m s).now = s.now := rfl
@[simp] theorem enterMode_rstHeld (m : FollowerMode) (s : State) : (enterMode m s).rstHeld = s.rstHeld := rfl
@[simp] theorem enterMode_ct (m : FollowerMode) (s : State) : (enterMode m s).ct = s.ct := rfl
@[simp] theorem enterMode_store (m : FollowerMode) (s : State) : (enterMode m s).store = s.store := rfl
@[simp] theorem enterMode_plan (m : FollowerMode) (s : State) : (enterMode m s).plan = s.plan := rfl
@[simp] theorem enterMode_map (m : FollowerMode) (s : State) : (enterMode m s).map = s.map := rfl
@[simp] theorem enterMode_follower (m : FollowerMode) (s : State) :
    (enterMode m s).follower = { s.follower with mode := m, credit := s.follower.settings.allowance, rejoinRun := 0 } := rfl
@[simp] theorem enterMode_acoustic (m : FollowerMode) (s : State) : (enterMode m s).acoustic = s.acoustic := rfl
@[simp] theorem enterMode_front (m : FollowerMode) (s : State) : (enterMode m s).front = s.front := rfl
@[simp] theorem enterMode_expander (m : FollowerMode) (s : State) : (enterMode m s).expander = s.expander := rfl
@[simp] theorem enterMode_queue (m : FollowerMode) (s : State) : (enterMode m s).queue = s.queue := rfl
@[simp] theorem enterMode_drivers (m : FollowerMode) (s : State) : (enterMode m s).drivers = s.drivers := rfl
@[simp] theorem enterMode_expression (m : FollowerMode) (s : State) : (enterMode m s).expression = s.expression := rfl
@[simp] theorem enterMode_levelling (m : FollowerMode) (s : State) : (enterMode m s).levelling = s.levelling := rfl
@[simp] theorem enterMode_yielding (m : FollowerMode) (s : State) : (enterMode m s).yielding = s.yielding := rfl
@[simp] theorem enterMode_link (m : FollowerMode) (s : State) : (enterMode m s).link = s.link := rfl
@[simp] theorem enterMode_counters (m : FollowerMode) (s : State) : (enterMode m s).counters = s.counters := rfl
@[simp] theorem enterMode_marks (m : FollowerMode) (s : State) : (enterMode m s).marks = s.marks := rfl
@[simp] theorem enterMode_choices (m : FollowerMode) (s : State) : (enterMode m s).choices = s.choices := rfl
@[simp] theorem enterMode_pending (m : FollowerMode) (s : State) : (enterMode m s).pending = s.pending := rfl

/-! ### `setRun` -/

@[simp] theorem setRun_now (r : Option LevelRun) (s : State) : (setRun r s).now = s.now := rfl
@[simp] theorem setRun_rstHeld (r : Option LevelRun) (s : State) : (setRun r s).rstHeld = s.rstHeld := rfl
@[simp] theorem setRun_ct (r : Option LevelRun) (s : State) : (setRun r s).ct = s.ct := rfl
@[simp] theorem setRun_store (r : Option LevelRun) (s : State) : (setRun r s).store = s.store := rfl
@[simp] theorem setRun_plan (r : Option LevelRun) (s : State) : (setRun r s).plan = s.plan := rfl
@[simp] theorem setRun_map (r : Option LevelRun) (s : State) : (setRun r s).map = s.map := rfl
@[simp] theorem setRun_follower (r : Option LevelRun) (s : State) : (setRun r s).follower = s.follower := rfl
@[simp] theorem setRun_acoustic (r : Option LevelRun) (s : State) : (setRun r s).acoustic = s.acoustic := rfl
@[simp] theorem setRun_front (r : Option LevelRun) (s : State) : (setRun r s).front = s.front := rfl
@[simp] theorem setRun_expander (r : Option LevelRun) (s : State) : (setRun r s).expander = s.expander := rfl
@[simp] theorem setRun_queue (r : Option LevelRun) (s : State) : (setRun r s).queue = s.queue := rfl
@[simp] theorem setRun_drivers (r : Option LevelRun) (s : State) : (setRun r s).drivers = s.drivers := rfl
@[simp] theorem setRun_expression (r : Option LevelRun) (s : State) : (setRun r s).expression = s.expression := rfl
@[simp] theorem setRun_levelling (r : Option LevelRun) (s : State) :
    (setRun r s).levelling = { s.levelling with run := r } := rfl
@[simp] theorem setRun_yielding (r : Option LevelRun) (s : State) : (setRun r s).yielding = s.yielding := rfl
@[simp] theorem setRun_link (r : Option LevelRun) (s : State) : (setRun r s).link = s.link := rfl
@[simp] theorem setRun_counters (r : Option LevelRun) (s : State) : (setRun r s).counters = s.counters := rfl
@[simp] theorem setRun_marks (r : Option LevelRun) (s : State) : (setRun r s).marks = s.marks := rfl
@[simp] theorem setRun_choices (r : Option LevelRun) (s : State) : (setRun r s).choices = s.choices := rfl
@[simp] theorem setRun_pending (r : Option LevelRun) (s : State) : (setRun r s).pending = s.pending := rfl

/-! ### `setPlan` -/

@[simp] theorem setPlan_now (x : PlanUnit) (s : State) : (setPlan x s).now = s.now := rfl
@[simp] theorem setPlan_rstHeld (x : PlanUnit) (s : State) : (setPlan x s).rstHeld = s.rstHeld := rfl
@[simp] theorem setPlan_ct (x : PlanUnit) (s : State) : (setPlan x s).ct = s.ct := rfl
@[simp] theorem setPlan_store (x : PlanUnit) (s : State) : (setPlan x s).store = s.store := rfl
@[simp] theorem setPlan_plan (x : PlanUnit) (s : State) : (setPlan x s).plan = x := rfl
@[simp] theorem setPlan_map (x : PlanUnit) (s : State) : (setPlan x s).map = s.map := rfl
@[simp] theorem setPlan_follower (x : PlanUnit) (s : State) : (setPlan x s).follower = s.follower := rfl
@[simp] theorem setPlan_acoustic (x : PlanUnit) (s : State) : (setPlan x s).acoustic = s.acoustic := rfl
@[simp] theorem setPlan_front (x : PlanUnit) (s : State) : (setPlan x s).front = s.front := rfl
@[simp] theorem setPlan_expander (x : PlanUnit) (s : State) : (setPlan x s).expander = s.expander := rfl
@[simp] theorem setPlan_queue (x : PlanUnit) (s : State) : (setPlan x s).queue = s.queue := rfl
@[simp] theorem setPlan_drivers (x : PlanUnit) (s : State) : (setPlan x s).drivers = s.drivers := rfl
@[simp] theorem setPlan_expression (x : PlanUnit) (s : State) : (setPlan x s).expression = s.expression := rfl
@[simp] theorem setPlan_levelling (x : PlanUnit) (s : State) : (setPlan x s).levelling = s.levelling := rfl
@[simp] theorem setPlan_yielding (x : PlanUnit) (s : State) : (setPlan x s).yielding = s.yielding := rfl
@[simp] theorem setPlan_link (x : PlanUnit) (s : State) : (setPlan x s).link = s.link := rfl
@[simp] theorem setPlan_counters (x : PlanUnit) (s : State) : (setPlan x s).counters = s.counters := rfl
@[simp] theorem setPlan_marks (x : PlanUnit) (s : State) : (setPlan x s).marks = s.marks := rfl
@[simp] theorem setPlan_choices (x : PlanUnit) (s : State) : (setPlan x s).choices = s.choices := rfl
@[simp] theorem setPlan_pending (x : PlanUnit) (s : State) : (setPlan x s).pending = s.pending := rfl

/-! ### `setPlay` -/

@[simp] theorem setPlay_now (p : PlayState) (s : State) : (setPlay p s).now = s.now := rfl
@[simp] theorem setPlay_rstHeld (p : PlayState) (s : State) : (setPlay p s).rstHeld = s.rstHeld := rfl
@[simp] theorem setPlay_ct (p : PlayState) (s : State) : (setPlay p s).ct = s.ct := rfl
@[simp] theorem setPlay_store (p : PlayState) (s : State) : (setPlay p s).store = s.store := rfl
@[simp] theorem setPlay_plan (p : PlayState) (s : State) : (setPlay p s).plan = { s.plan with play := p } := rfl
@[simp] theorem setPlay_map (p : PlayState) (s : State) : (setPlay p s).map = s.map := rfl
@[simp] theorem setPlay_follower (p : PlayState) (s : State) : (setPlay p s).follower = s.follower := rfl
@[simp] theorem setPlay_acoustic (p : PlayState) (s : State) : (setPlay p s).acoustic = s.acoustic := rfl
@[simp] theorem setPlay_front (p : PlayState) (s : State) : (setPlay p s).front = s.front := rfl
@[simp] theorem setPlay_expander (p : PlayState) (s : State) : (setPlay p s).expander = s.expander := rfl
@[simp] theorem setPlay_queue (p : PlayState) (s : State) : (setPlay p s).queue = s.queue := rfl
@[simp] theorem setPlay_drivers (p : PlayState) (s : State) : (setPlay p s).drivers = s.drivers := rfl
@[simp] theorem setPlay_expression (p : PlayState) (s : State) : (setPlay p s).expression = s.expression := rfl
@[simp] theorem setPlay_levelling (p : PlayState) (s : State) : (setPlay p s).levelling = s.levelling := rfl
@[simp] theorem setPlay_yielding (p : PlayState) (s : State) : (setPlay p s).yielding = s.yielding := rfl
@[simp] theorem setPlay_link (p : PlayState) (s : State) : (setPlay p s).link = s.link := rfl
@[simp] theorem setPlay_counters (p : PlayState) (s : State) : (setPlay p s).counters = s.counters := rfl
@[simp] theorem setPlay_marks (p : PlayState) (s : State) : (setPlay p s).marks = s.marks := rfl
@[simp] theorem setPlay_choices (p : PlayState) (s : State) : (setPlay p s).choices = s.choices := rfl
@[simp] theorem setPlay_pending (p : PlayState) (s : State) : (setPlay p s).pending = s.pending := rfl

/-! ### `setSlot` -/

@[simp] theorem setSlot_now (i : Fin 16) (x : Slot) (n : Nat) (s : State) : (setSlot i x n s).now = s.now := rfl
@[simp] theorem setSlot_rstHeld (i : Fin 16) (x : Slot) (n : Nat) (s : State) : (setSlot i x n s).rstHeld = s.rstHeld := rfl
@[simp] theorem setSlot_ct (i : Fin 16) (x : Slot) (n : Nat) (s : State) : (setSlot i x n s).ct = s.ct := rfl
@[simp] theorem setSlot_store (i : Fin 16) (x : Slot) (n : Nat) (s : State) :
    (setSlot i x n s).store = { slots := s.store.slots.set i x, free := n } := rfl
@[simp] theorem setSlot_plan (i : Fin 16) (x : Slot) (n : Nat) (s : State) : (setSlot i x n s).plan = s.plan := rfl
@[simp] theorem setSlot_map (i : Fin 16) (x : Slot) (n : Nat) (s : State) : (setSlot i x n s).map = s.map := rfl
@[simp] theorem setSlot_follower (i : Fin 16) (x : Slot) (n : Nat) (s : State) : (setSlot i x n s).follower = s.follower := rfl
@[simp] theorem setSlot_acoustic (i : Fin 16) (x : Slot) (n : Nat) (s : State) : (setSlot i x n s).acoustic = s.acoustic := rfl
@[simp] theorem setSlot_front (i : Fin 16) (x : Slot) (n : Nat) (s : State) : (setSlot i x n s).front = s.front := rfl
@[simp] theorem setSlot_expander (i : Fin 16) (x : Slot) (n : Nat) (s : State) : (setSlot i x n s).expander = s.expander := rfl
@[simp] theorem setSlot_queue (i : Fin 16) (x : Slot) (n : Nat) (s : State) : (setSlot i x n s).queue = s.queue := rfl
@[simp] theorem setSlot_drivers (i : Fin 16) (x : Slot) (n : Nat) (s : State) : (setSlot i x n s).drivers = s.drivers := rfl
@[simp] theorem setSlot_expression (i : Fin 16) (x : Slot) (n : Nat) (s : State) :
    (setSlot i x n s).expression = s.expression := rfl
@[simp] theorem setSlot_levelling (i : Fin 16) (x : Slot) (n : Nat) (s : State) :
    (setSlot i x n s).levelling = s.levelling := rfl
@[simp] theorem setSlot_yielding (i : Fin 16) (x : Slot) (n : Nat) (s : State) : (setSlot i x n s).yielding = s.yielding := rfl
@[simp] theorem setSlot_link (i : Fin 16) (x : Slot) (n : Nat) (s : State) : (setSlot i x n s).link = s.link := rfl
@[simp] theorem setSlot_counters (i : Fin 16) (x : Slot) (n : Nat) (s : State) : (setSlot i x n s).counters = s.counters := rfl
@[simp] theorem setSlot_marks (i : Fin 16) (x : Slot) (n : Nat) (s : State) : (setSlot i x n s).marks = s.marks := rfl
@[simp] theorem setSlot_choices (i : Fin 16) (x : Slot) (n : Nat) (s : State) : (setSlot i x n s).choices = s.choices := rfl
@[simp] theorem setSlot_pending (i : Fin 16) (x : Slot) (n : Nat) (s : State) : (setSlot i x n s).pending = s.pending := rfl

/-! ### `setYielding` -/

@[simp] theorem setYielding_now (x : YieldUnit) (s : State) : (setYielding x s).now = s.now := rfl
@[simp] theorem setYielding_rstHeld (x : YieldUnit) (s : State) : (setYielding x s).rstHeld = s.rstHeld := rfl
@[simp] theorem setYielding_ct (x : YieldUnit) (s : State) : (setYielding x s).ct = s.ct := rfl
@[simp] theorem setYielding_store (x : YieldUnit) (s : State) : (setYielding x s).store = s.store := rfl
@[simp] theorem setYielding_plan (x : YieldUnit) (s : State) : (setYielding x s).plan = s.plan := rfl
@[simp] theorem setYielding_map (x : YieldUnit) (s : State) : (setYielding x s).map = s.map := rfl
@[simp] theorem setYielding_follower (x : YieldUnit) (s : State) : (setYielding x s).follower = s.follower := rfl
@[simp] theorem setYielding_acoustic (x : YieldUnit) (s : State) : (setYielding x s).acoustic = s.acoustic := rfl
@[simp] theorem setYielding_front (x : YieldUnit) (s : State) : (setYielding x s).front = s.front := rfl
@[simp] theorem setYielding_expander (x : YieldUnit) (s : State) : (setYielding x s).expander = s.expander := rfl
@[simp] theorem setYielding_queue (x : YieldUnit) (s : State) : (setYielding x s).queue = s.queue := rfl
@[simp] theorem setYielding_drivers (x : YieldUnit) (s : State) : (setYielding x s).drivers = s.drivers := rfl
@[simp] theorem setYielding_expression (x : YieldUnit) (s : State) : (setYielding x s).expression = s.expression := rfl
@[simp] theorem setYielding_levelling (x : YieldUnit) (s : State) : (setYielding x s).levelling = s.levelling := rfl
@[simp] theorem setYielding_yielding (x : YieldUnit) (s : State) : (setYielding x s).yielding = x := rfl
@[simp] theorem setYielding_link (x : YieldUnit) (s : State) : (setYielding x s).link = s.link := rfl
@[simp] theorem setYielding_counters (x : YieldUnit) (s : State) : (setYielding x s).counters = s.counters := rfl
@[simp] theorem setYielding_marks (x : YieldUnit) (s : State) : (setYielding x s).marks = s.marks := rfl
@[simp] theorem setYielding_choices (x : YieldUnit) (s : State) : (setYielding x s).choices = s.choices := rfl
@[simp] theorem setYielding_pending (x : YieldUnit) (s : State) : (setYielding x s).pending = s.pending := rfl

/-! ### `setFilter` -/

@[simp] theorem setFilter_now (f : CtFilter) (s : State) : (setFilter f s).now = s.now := rfl
@[simp] theorem setFilter_rstHeld (f : CtFilter) (s : State) : (setFilter f s).rstHeld = s.rstHeld := rfl
@[simp] theorem setFilter_ct (f : CtFilter) (s : State) : (setFilter f s).ct = s.ct := rfl
@[simp] theorem setFilter_store (f : CtFilter) (s : State) : (setFilter f s).store = s.store := rfl
@[simp] theorem setFilter_plan (f : CtFilter) (s : State) : (setFilter f s).plan = s.plan := rfl
@[simp] theorem setFilter_map (f : CtFilter) (s : State) : (setFilter f s).map = s.map := rfl
@[simp] theorem setFilter_follower (f : CtFilter) (s : State) : (setFilter f s).follower = s.follower := rfl
@[simp] theorem setFilter_acoustic (f : CtFilter) (s : State) : (setFilter f s).acoustic = s.acoustic := rfl
@[simp] theorem setFilter_front (f : CtFilter) (s : State) : (setFilter f s).front = s.front := rfl
@[simp] theorem setFilter_expander (f : CtFilter) (s : State) : (setFilter f s).expander = s.expander := rfl
@[simp] theorem setFilter_queue (f : CtFilter) (s : State) : (setFilter f s).queue = s.queue := rfl
@[simp] theorem setFilter_drivers (f : CtFilter) (s : State) : (setFilter f s).drivers = s.drivers := rfl
@[simp] theorem setFilter_expression (f : CtFilter) (s : State) : (setFilter f s).expression = s.expression := rfl
@[simp] theorem setFilter_levelling (f : CtFilter) (s : State) : (setFilter f s).levelling = s.levelling := rfl
@[simp] theorem setFilter_yielding (f : CtFilter) (s : State) :
    (setFilter f s).yielding = { s.yielding with filter := f } := rfl
@[simp] theorem setFilter_link (f : CtFilter) (s : State) : (setFilter f s).link = s.link := rfl
@[simp] theorem setFilter_counters (f : CtFilter) (s : State) : (setFilter f s).counters = s.counters := rfl
@[simp] theorem setFilter_marks (f : CtFilter) (s : State) : (setFilter f s).marks = s.marks := rfl
@[simp] theorem setFilter_choices (f : CtFilter) (s : State) : (setFilter f s).choices = s.choices := rfl
@[simp] theorem setFilter_pending (f : CtFilter) (s : State) : (setFilter f s).pending = s.pending := rfl

/-! ### `setFree` -/

@[simp] theorem setFree_now (s : State) : (setFree s).now = s.now := rfl
@[simp] theorem setFree_rstHeld (s : State) : (setFree s).rstHeld = s.rstHeld := rfl
@[simp] theorem setFree_ct (s : State) : (setFree s).ct = s.ct := rfl
@[simp] theorem setFree_store (s : State) : (setFree s).store = s.store := rfl
@[simp] theorem setFree_plan (s : State) : (setFree s).plan = s.plan := rfl
@[simp] theorem setFree_map (s : State) : (setFree s).map = s.map := rfl
@[simp] theorem setFree_follower (s : State) : (setFree s).follower = s.follower := rfl
@[simp] theorem setFree_acoustic (s : State) : (setFree s).acoustic = s.acoustic := rfl
@[simp] theorem setFree_front (s : State) : (setFree s).front = s.front := rfl
@[simp] theorem setFree_expander (s : State) : (setFree s).expander = s.expander := rfl
@[simp] theorem setFree_queue (s : State) : (setFree s).queue = s.queue := rfl
@[simp] theorem setFree_drivers (s : State) : (setFree s).drivers = s.drivers := rfl
@[simp] theorem setFree_expression (s : State) : (setFree s).expression = s.expression := rfl
@[simp] theorem setFree_levelling (s : State) : (setFree s).levelling = s.levelling := rfl
@[simp] theorem setFree_yielding (s : State) :
    (setFree s).yielding = { s.yielding with state := .playingFree, rejoin := none } := rfl
@[simp] theorem setFree_link (s : State) : (setFree s).link = s.link := rfl
@[simp] theorem setFree_counters (s : State) : (setFree s).counters = s.counters := rfl
@[simp] theorem setFree_marks (s : State) : (setFree s).marks = s.marks := rfl
@[simp] theorem setFree_choices (s : State) : (setFree s).choices = s.choices := rfl
@[simp] theorem setFree_pending (s : State) : (setFree s).pending = s.pending := rfl

/-! ### `flush` -/

@[simp] theorem flush_now (s : State) : (flush s).now = s.now := rfl
@[simp] theorem flush_rstHeld (s : State) : (flush s).rstHeld = s.rstHeld := rfl
@[simp] theorem flush_ct (s : State) : (flush s).ct = s.ct := rfl
@[simp] theorem flush_store (s : State) : (flush s).store = s.store := rfl
@[simp] theorem flush_plan (s : State) : (flush s).plan = s.plan := rfl
@[simp] theorem flush_map (s : State) : (flush s).map = s.map := rfl
@[simp] theorem flush_follower (s : State) : (flush s).follower = s.follower := rfl
@[simp] theorem flush_acoustic (s : State) : (flush s).acoustic = s.acoustic := rfl
@[simp] theorem flush_front (s : State) : (flush s).front = s.front := rfl
@[simp] theorem flush_expander (s : State) : (flush s).expander = s.expander := rfl
@[simp] theorem flush_queue (s : State) : (flush s).queue = [] := rfl
@[simp] theorem flush_drivers (s : State) : (flush s).drivers = s.drivers := rfl
@[simp] theorem flush_expression (s : State) : (flush s).expression = s.expression := rfl
@[simp] theorem flush_levelling (s : State) : (flush s).levelling = s.levelling := rfl
@[simp] theorem flush_yielding (s : State) : (flush s).yielding = s.yielding := rfl
@[simp] theorem flush_link (s : State) : (flush s).link = s.link := rfl
@[simp] theorem flush_counters (s : State) : (flush s).counters = s.counters := rfl
@[simp] theorem flush_marks (s : State) : (flush s).marks = s.marks := rfl
@[simp] theorem flush_choices (s : State) : (flush s).choices = s.choices := rfl
@[simp] theorem flush_pending (s : State) : (flush s).pending = s.pending := rfl

/-! ### `countChoice` -/

@[simp] theorem countChoice_now (s : State) : (countChoice s).now = s.now := rfl
@[simp] theorem countChoice_rstHeld (s : State) : (countChoice s).rstHeld = s.rstHeld := rfl
@[simp] theorem countChoice_ct (s : State) : (countChoice s).ct = s.ct := rfl
@[simp] theorem countChoice_store (s : State) : (countChoice s).store = s.store := rfl
@[simp] theorem countChoice_plan (s : State) : (countChoice s).plan = s.plan := rfl
@[simp] theorem countChoice_map (s : State) : (countChoice s).map = s.map := rfl
@[simp] theorem countChoice_follower (s : State) : (countChoice s).follower = s.follower := rfl
@[simp] theorem countChoice_acoustic (s : State) : (countChoice s).acoustic = s.acoustic := rfl
@[simp] theorem countChoice_front (s : State) : (countChoice s).front = s.front := rfl
@[simp] theorem countChoice_expander (s : State) : (countChoice s).expander = s.expander := rfl
@[simp] theorem countChoice_queue (s : State) : (countChoice s).queue = s.queue := rfl
@[simp] theorem countChoice_drivers (s : State) : (countChoice s).drivers = s.drivers := rfl
@[simp] theorem countChoice_expression (s : State) : (countChoice s).expression = s.expression := rfl
@[simp] theorem countChoice_levelling (s : State) : (countChoice s).levelling = s.levelling := rfl
@[simp] theorem countChoice_yielding (s : State) : (countChoice s).yielding = s.yielding := rfl
@[simp] theorem countChoice_link (s : State) : (countChoice s).link = s.link := rfl
@[simp] theorem countChoice_counters (s : State) : (countChoice s).counters = s.counters := rfl
@[simp] theorem countChoice_marks (s : State) : (countChoice s).marks = s.marks := rfl
@[simp] theorem countChoice_choices (s : State) : (countChoice s).choices = s.choices + 1 := rfl
@[simp] theorem countChoice_pending (s : State) : (countChoice s).pending = s.pending := rfl

/-! ### `tick` -/

@[simp] theorem tick_now (s : State) : (tick s).now = s.now + 1 := rfl
@[simp] theorem tick_rstHeld (s : State) : (tick s).rstHeld = s.rstHeld := rfl
@[simp] theorem tick_ct (s : State) : (tick s).ct = s.ct := rfl
@[simp] theorem tick_store (s : State) : (tick s).store = s.store := rfl
@[simp] theorem tick_plan (s : State) : (tick s).plan = s.plan := rfl
@[simp] theorem tick_map (s : State) : (tick s).map = s.map := rfl
@[simp] theorem tick_follower (s : State) : (tick s).follower = s.follower := rfl
@[simp] theorem tick_acoustic (s : State) : (tick s).acoustic = s.acoustic := rfl
@[simp] theorem tick_front (s : State) : (tick s).front = s.front := rfl
@[simp] theorem tick_expander (s : State) : (tick s).expander = s.expander := rfl
@[simp] theorem tick_queue (s : State) : (tick s).queue = s.queue := rfl
@[simp] theorem tick_drivers (s : State) : (tick s).drivers = s.drivers := rfl
@[simp] theorem tick_expression (s : State) : (tick s).expression = s.expression := rfl
@[simp] theorem tick_levelling (s : State) : (tick s).levelling = s.levelling := rfl
@[simp] theorem tick_yielding (s : State) : (tick s).yielding = s.yielding := rfl
@[simp] theorem tick_link (s : State) : (tick s).link = s.link := rfl
@[simp] theorem tick_counters (s : State) : (tick s).counters = s.counters := rfl
@[simp] theorem tick_marks (s : State) : (tick s).marks = .fresh := rfl
@[simp] theorem tick_choices (s : State) : (tick s).choices = s.choices := rfl
@[simp] theorem tick_pending (s : State) : (tick s).pending = s.pending := rfl

/-! ### `pushFront` -/

@[simp] theorem pushFront_now (i : Instr) (s : State) : (pushFront i s).now = s.now := rfl
@[simp] theorem pushFront_rstHeld (i : Instr) (s : State) : (pushFront i s).rstHeld = s.rstHeld := rfl
@[simp] theorem pushFront_ct (i : Instr) (s : State) : (pushFront i s).ct = s.ct := rfl
@[simp] theorem pushFront_store (i : Instr) (s : State) : (pushFront i s).store = s.store := rfl
@[simp] theorem pushFront_plan (i : Instr) (s : State) : (pushFront i s).plan = s.plan := rfl
@[simp] theorem pushFront_map (i : Instr) (s : State) : (pushFront i s).map = s.map := rfl
@[simp] theorem pushFront_follower (i : Instr) (s : State) : (pushFront i s).follower = s.follower := rfl
@[simp] theorem pushFront_acoustic (i : Instr) (s : State) : (pushFront i s).acoustic = s.acoustic := rfl
@[simp] theorem pushFront_front (i : Instr) (s : State) : (pushFront i s).front = s.front := rfl
@[simp] theorem pushFront_expander (i : Instr) (s : State) : (pushFront i s).expander = s.expander := rfl
@[simp] theorem pushFront_queue (i : Instr) (s : State) : (pushFront i s).queue = s.queue := rfl
@[simp] theorem pushFront_drivers (i : Instr) (s : State) : (pushFront i s).drivers = s.drivers := rfl
@[simp] theorem pushFront_expression (i : Instr) (s : State) : (pushFront i s).expression = s.expression := rfl
@[simp] theorem pushFront_levelling (i : Instr) (s : State) : (pushFront i s).levelling = s.levelling := rfl
@[simp] theorem pushFront_yielding (i : Instr) (s : State) : (pushFront i s).yielding = s.yielding := rfl
@[simp] theorem pushFront_link (i : Instr) (s : State) : (pushFront i s).link = s.link := rfl
@[simp] theorem pushFront_counters (i : Instr) (s : State) : (pushFront i s).counters = s.counters := rfl
@[simp] theorem pushFront_marks (i : Instr) (s : State) : (pushFront i s).marks = s.marks := rfl
@[simp] theorem pushFront_choices (i : Instr) (s : State) : (pushFront i s).choices = s.choices := rfl
@[simp] theorem pushFront_pending (i : Instr) (s : State) : (pushFront i s).pending = i :: s.pending := rfl

/-! ### `countLength` -/

@[simp] theorem countLength_now (s : State) : (countLength s).now = s.now := rfl
@[simp] theorem countLength_rstHeld (s : State) : (countLength s).rstHeld = s.rstHeld := rfl
@[simp] theorem countLength_ct (s : State) : (countLength s).ct = s.ct := rfl
@[simp] theorem countLength_store (s : State) : (countLength s).store = s.store := rfl
@[simp] theorem countLength_plan (s : State) : (countLength s).plan = s.plan := rfl
@[simp] theorem countLength_map (s : State) : (countLength s).map = s.map := rfl
@[simp] theorem countLength_follower (s : State) : (countLength s).follower = s.follower := rfl
@[simp] theorem countLength_acoustic (s : State) : (countLength s).acoustic = s.acoustic := rfl
@[simp] theorem countLength_front (s : State) : (countLength s).front = s.front := rfl
@[simp] theorem countLength_expander (s : State) : (countLength s).expander = s.expander := rfl
@[simp] theorem countLength_queue (s : State) : (countLength s).queue = s.queue := rfl
@[simp] theorem countLength_drivers (s : State) : (countLength s).drivers = s.drivers := rfl
@[simp] theorem countLength_expression (s : State) : (countLength s).expression = s.expression := rfl
@[simp] theorem countLength_levelling (s : State) : (countLength s).levelling = s.levelling := rfl
@[simp] theorem countLength_yielding (s : State) : (countLength s).yielding = s.yielding := rfl
@[simp] theorem countLength_link (s : State) : (countLength s).link = s.link := rfl
@[simp] theorem countLength_counters (s : State) :
    (countLength s).counters = { s.counters with length := bump s.counters.length } := rfl
@[simp] theorem countLength_marks (s : State) : (countLength s).marks = s.marks := rfl
@[simp] theorem countLength_choices (s : State) : (countLength s).choices = s.choices := rfl
@[simp] theorem countLength_pending (s : State) : (countLength s).pending = s.pending := rfl

/-! ### `countTimeout` -/

@[simp] theorem countTimeout_now (s : State) : (countTimeout s).now = s.now := rfl
@[simp] theorem countTimeout_rstHeld (s : State) : (countTimeout s).rstHeld = s.rstHeld := rfl
@[simp] theorem countTimeout_ct (s : State) : (countTimeout s).ct = s.ct := rfl
@[simp] theorem countTimeout_store (s : State) : (countTimeout s).store = s.store := rfl
@[simp] theorem countTimeout_plan (s : State) : (countTimeout s).plan = s.plan := rfl
@[simp] theorem countTimeout_map (s : State) : (countTimeout s).map = s.map := rfl
@[simp] theorem countTimeout_follower (s : State) : (countTimeout s).follower = s.follower := rfl
@[simp] theorem countTimeout_acoustic (s : State) : (countTimeout s).acoustic = s.acoustic := rfl
@[simp] theorem countTimeout_front (s : State) : (countTimeout s).front = s.front := rfl
@[simp] theorem countTimeout_expander (s : State) : (countTimeout s).expander = s.expander := rfl
@[simp] theorem countTimeout_queue (s : State) : (countTimeout s).queue = s.queue := rfl
@[simp] theorem countTimeout_drivers (s : State) : (countTimeout s).drivers = s.drivers := rfl
@[simp] theorem countTimeout_expression (s : State) : (countTimeout s).expression = s.expression := rfl
@[simp] theorem countTimeout_levelling (s : State) : (countTimeout s).levelling = s.levelling := rfl
@[simp] theorem countTimeout_yielding (s : State) : (countTimeout s).yielding = s.yielding := rfl
@[simp] theorem countTimeout_link (s : State) : (countTimeout s).link = s.link := rfl
@[simp] theorem countTimeout_counters (s : State) :
    (countTimeout s).counters = { s.counters with timeout := bump s.counters.timeout } := rfl
@[simp] theorem countTimeout_marks (s : State) : (countTimeout s).marks = s.marks := rfl
@[simp] theorem countTimeout_choices (s : State) : (countTimeout s).choices = s.choices := rfl
@[simp] theorem countTimeout_pending (s : State) : (countTimeout s).pending = s.pending := rfl

/-! ### `countCheck` -/

@[simp] theorem countCheck_now (s : State) : (countCheck s).now = s.now := rfl
@[simp] theorem countCheck_rstHeld (s : State) : (countCheck s).rstHeld = s.rstHeld := rfl
@[simp] theorem countCheck_ct (s : State) : (countCheck s).ct = s.ct := rfl
@[simp] theorem countCheck_store (s : State) : (countCheck s).store = s.store := rfl
@[simp] theorem countCheck_plan (s : State) : (countCheck s).plan = s.plan := rfl
@[simp] theorem countCheck_map (s : State) : (countCheck s).map = s.map := rfl
@[simp] theorem countCheck_follower (s : State) : (countCheck s).follower = s.follower := rfl
@[simp] theorem countCheck_acoustic (s : State) : (countCheck s).acoustic = s.acoustic := rfl
@[simp] theorem countCheck_front (s : State) : (countCheck s).front = s.front := rfl
@[simp] theorem countCheck_expander (s : State) : (countCheck s).expander = s.expander := rfl
@[simp] theorem countCheck_queue (s : State) : (countCheck s).queue = s.queue := rfl
@[simp] theorem countCheck_drivers (s : State) : (countCheck s).drivers = s.drivers := rfl
@[simp] theorem countCheck_expression (s : State) : (countCheck s).expression = s.expression := rfl
@[simp] theorem countCheck_levelling (s : State) : (countCheck s).levelling = s.levelling := rfl
@[simp] theorem countCheck_yielding (s : State) : (countCheck s).yielding = s.yielding := rfl
@[simp] theorem countCheck_link (s : State) : (countCheck s).link = s.link := rfl
@[simp] theorem countCheck_counters (s : State) :
    (countCheck s).counters = { s.counters with check := bump s.counters.check } := rfl
@[simp] theorem countCheck_marks (s : State) : (countCheck s).marks = s.marks := rfl
@[simp] theorem countCheck_choices (s : State) : (countCheck s).choices = s.choices := rfl
@[simp] theorem countCheck_pending (s : State) : (countCheck s).pending = s.pending := rfl

/-! ### `countOverrun` -/

@[simp] theorem countOverrun_now (s : State) : (countOverrun s).now = s.now := rfl
@[simp] theorem countOverrun_rstHeld (s : State) : (countOverrun s).rstHeld = s.rstHeld := rfl
@[simp] theorem countOverrun_ct (s : State) : (countOverrun s).ct = s.ct := rfl
@[simp] theorem countOverrun_store (s : State) : (countOverrun s).store = s.store := rfl
@[simp] theorem countOverrun_plan (s : State) : (countOverrun s).plan = s.plan := rfl
@[simp] theorem countOverrun_map (s : State) : (countOverrun s).map = s.map := rfl
@[simp] theorem countOverrun_follower (s : State) : (countOverrun s).follower = s.follower := rfl
@[simp] theorem countOverrun_acoustic (s : State) : (countOverrun s).acoustic = s.acoustic := rfl
@[simp] theorem countOverrun_front (s : State) : (countOverrun s).front = s.front := rfl
@[simp] theorem countOverrun_expander (s : State) : (countOverrun s).expander = s.expander := rfl
@[simp] theorem countOverrun_queue (s : State) : (countOverrun s).queue = s.queue := rfl
@[simp] theorem countOverrun_drivers (s : State) : (countOverrun s).drivers = s.drivers := rfl
@[simp] theorem countOverrun_expression (s : State) : (countOverrun s).expression = s.expression := rfl
@[simp] theorem countOverrun_levelling (s : State) : (countOverrun s).levelling = s.levelling := rfl
@[simp] theorem countOverrun_yielding (s : State) : (countOverrun s).yielding = s.yielding := rfl
@[simp] theorem countOverrun_link (s : State) : (countOverrun s).link = s.link := rfl
@[simp] theorem countOverrun_counters (s : State) :
    (countOverrun s).counters = { s.counters with overrun := bump s.counters.overrun } := rfl
@[simp] theorem countOverrun_marks (s : State) : (countOverrun s).marks = s.marks := rfl
@[simp] theorem countOverrun_choices (s : State) : (countOverrun s).choices = s.choices := rfl
@[simp] theorem countOverrun_pending (s : State) : (countOverrun s).pending = s.pending := rfl

/-! ### `countDeferred` -/

@[simp] theorem countDeferred_now (s : State) : (countDeferred s).now = s.now := rfl
@[simp] theorem countDeferred_rstHeld (s : State) : (countDeferred s).rstHeld = s.rstHeld := rfl
@[simp] theorem countDeferred_ct (s : State) : (countDeferred s).ct = s.ct := rfl
@[simp] theorem countDeferred_store (s : State) : (countDeferred s).store = s.store := rfl
@[simp] theorem countDeferred_plan (s : State) : (countDeferred s).plan = s.plan := rfl
@[simp] theorem countDeferred_map (s : State) : (countDeferred s).map = s.map := rfl
@[simp] theorem countDeferred_follower (s : State) : (countDeferred s).follower = s.follower := rfl
@[simp] theorem countDeferred_acoustic (s : State) : (countDeferred s).acoustic = s.acoustic := rfl
@[simp] theorem countDeferred_front (s : State) : (countDeferred s).front = s.front := rfl
@[simp] theorem countDeferred_expander (s : State) : (countDeferred s).expander = s.expander := rfl
@[simp] theorem countDeferred_queue (s : State) : (countDeferred s).queue = s.queue := rfl
@[simp] theorem countDeferred_drivers (s : State) : (countDeferred s).drivers = s.drivers := rfl
@[simp] theorem countDeferred_expression (s : State) : (countDeferred s).expression = s.expression := rfl
@[simp] theorem countDeferred_levelling (s : State) : (countDeferred s).levelling = s.levelling := rfl
@[simp] theorem countDeferred_yielding (s : State) : (countDeferred s).yielding = s.yielding := rfl
@[simp] theorem countDeferred_link (s : State) : (countDeferred s).link = s.link := rfl
@[simp] theorem countDeferred_counters (s : State) :
    (countDeferred s).counters = { s.counters with deferred := bump s.counters.deferred } := rfl
@[simp] theorem countDeferred_marks (s : State) : (countDeferred s).marks = s.marks := rfl
@[simp] theorem countDeferred_choices (s : State) : (countDeferred s).choices = s.choices := rfl
@[simp] theorem countDeferred_pending (s : State) : (countDeferred s).pending = s.pending := rfl

/-! ### `countClipped` -/

@[simp] theorem countClipped_now (s : State) : (countClipped s).now = s.now := rfl
@[simp] theorem countClipped_rstHeld (s : State) : (countClipped s).rstHeld = s.rstHeld := rfl
@[simp] theorem countClipped_ct (s : State) : (countClipped s).ct = s.ct := rfl
@[simp] theorem countClipped_store (s : State) : (countClipped s).store = s.store := rfl
@[simp] theorem countClipped_plan (s : State) : (countClipped s).plan = s.plan := rfl
@[simp] theorem countClipped_map (s : State) : (countClipped s).map = s.map := rfl
@[simp] theorem countClipped_follower (s : State) : (countClipped s).follower = s.follower := rfl
@[simp] theorem countClipped_acoustic (s : State) : (countClipped s).acoustic = s.acoustic := rfl
@[simp] theorem countClipped_front (s : State) : (countClipped s).front = s.front := rfl
@[simp] theorem countClipped_expander (s : State) : (countClipped s).expander = s.expander := rfl
@[simp] theorem countClipped_queue (s : State) : (countClipped s).queue = s.queue := rfl
@[simp] theorem countClipped_drivers (s : State) : (countClipped s).drivers = s.drivers := rfl
@[simp] theorem countClipped_expression (s : State) : (countClipped s).expression = s.expression := rfl
@[simp] theorem countClipped_levelling (s : State) : (countClipped s).levelling = s.levelling := rfl
@[simp] theorem countClipped_yielding (s : State) : (countClipped s).yielding = s.yielding := rfl
@[simp] theorem countClipped_link (s : State) : (countClipped s).link = s.link := rfl
@[simp] theorem countClipped_counters (s : State) :
    (countClipped s).counters = { s.counters with clipped := bump s.counters.clipped } := rfl
@[simp] theorem countClipped_marks (s : State) : (countClipped s).marks = s.marks := rfl
@[simp] theorem countClipped_choices (s : State) : (countClipped s).choices = s.choices := rfl
@[simp] theorem countClipped_pending (s : State) : (countClipped s).pending = s.pending := rfl

/-! ### `countShed` -/

@[simp] theorem countShed_now (s : State) : (countShed s).now = s.now := rfl
@[simp] theorem countShed_rstHeld (s : State) : (countShed s).rstHeld = s.rstHeld := rfl
@[simp] theorem countShed_ct (s : State) : (countShed s).ct = s.ct := rfl
@[simp] theorem countShed_store (s : State) : (countShed s).store = s.store := rfl
@[simp] theorem countShed_plan (s : State) : (countShed s).plan = s.plan := rfl
@[simp] theorem countShed_map (s : State) : (countShed s).map = s.map := rfl
@[simp] theorem countShed_follower (s : State) : (countShed s).follower = s.follower := rfl
@[simp] theorem countShed_acoustic (s : State) : (countShed s).acoustic = s.acoustic := rfl
@[simp] theorem countShed_front (s : State) : (countShed s).front = s.front := rfl
@[simp] theorem countShed_expander (s : State) : (countShed s).expander = s.expander := rfl
@[simp] theorem countShed_queue (s : State) : (countShed s).queue = s.queue := rfl
@[simp] theorem countShed_drivers (s : State) : (countShed s).drivers = s.drivers := rfl
@[simp] theorem countShed_expression (s : State) : (countShed s).expression = s.expression := rfl
@[simp] theorem countShed_levelling (s : State) : (countShed s).levelling = s.levelling := rfl
@[simp] theorem countShed_yielding (s : State) : (countShed s).yielding = s.yielding := rfl
@[simp] theorem countShed_link (s : State) : (countShed s).link = s.link := rfl
@[simp] theorem countShed_counters (s : State) :
    (countShed s).counters = { s.counters with shed := bump s.counters.shed } := rfl
@[simp] theorem countShed_marks (s : State) : (countShed s).marks = s.marks := rfl
@[simp] theorem countShed_choices (s : State) : (countShed s).choices = s.choices := rfl
@[simp] theorem countShed_pending (s : State) : (countShed s).pending = s.pending := rfl

/-! ### `countMasked` -/

@[simp] theorem countMasked_now (s : State) : (countMasked s).now = s.now := rfl
@[simp] theorem countMasked_rstHeld (s : State) : (countMasked s).rstHeld = s.rstHeld := rfl
@[simp] theorem countMasked_ct (s : State) : (countMasked s).ct = s.ct := rfl
@[simp] theorem countMasked_store (s : State) : (countMasked s).store = s.store := rfl
@[simp] theorem countMasked_plan (s : State) : (countMasked s).plan = s.plan := rfl
@[simp] theorem countMasked_map (s : State) : (countMasked s).map = s.map := rfl
@[simp] theorem countMasked_follower (s : State) : (countMasked s).follower = s.follower := rfl
@[simp] theorem countMasked_acoustic (s : State) : (countMasked s).acoustic = s.acoustic := rfl
@[simp] theorem countMasked_front (s : State) : (countMasked s).front = s.front := rfl
@[simp] theorem countMasked_expander (s : State) : (countMasked s).expander = s.expander := rfl
@[simp] theorem countMasked_queue (s : State) : (countMasked s).queue = s.queue := rfl
@[simp] theorem countMasked_drivers (s : State) : (countMasked s).drivers = s.drivers := rfl
@[simp] theorem countMasked_expression (s : State) : (countMasked s).expression = s.expression := rfl
@[simp] theorem countMasked_levelling (s : State) : (countMasked s).levelling = s.levelling := rfl
@[simp] theorem countMasked_yielding (s : State) : (countMasked s).yielding = s.yielding := rfl
@[simp] theorem countMasked_link (s : State) : (countMasked s).link = s.link := rfl
@[simp] theorem countMasked_counters (s : State) :
    (countMasked s).counters = { s.counters with masked := bump s.counters.masked } := rfl
@[simp] theorem countMasked_marks (s : State) : (countMasked s).marks = s.marks := rfl
@[simp] theorem countMasked_choices (s : State) : (countMasked s).choices = s.choices := rfl
@[simp] theorem countMasked_pending (s : State) : (countMasked s).pending = s.pending := rfl

/-! ### `countIgnored` -/

@[simp] theorem countIgnored_now (s : State) : (countIgnored s).now = s.now := rfl
@[simp] theorem countIgnored_rstHeld (s : State) : (countIgnored s).rstHeld = s.rstHeld := rfl
@[simp] theorem countIgnored_ct (s : State) : (countIgnored s).ct = s.ct := rfl
@[simp] theorem countIgnored_store (s : State) : (countIgnored s).store = s.store := rfl
@[simp] theorem countIgnored_plan (s : State) : (countIgnored s).plan = s.plan := rfl
@[simp] theorem countIgnored_map (s : State) : (countIgnored s).map = s.map := rfl
@[simp] theorem countIgnored_follower (s : State) : (countIgnored s).follower = s.follower := rfl
@[simp] theorem countIgnored_acoustic (s : State) : (countIgnored s).acoustic = s.acoustic := rfl
@[simp] theorem countIgnored_front (s : State) : (countIgnored s).front = s.front := rfl
@[simp] theorem countIgnored_expander (s : State) : (countIgnored s).expander = s.expander := rfl
@[simp] theorem countIgnored_queue (s : State) : (countIgnored s).queue = s.queue := rfl
@[simp] theorem countIgnored_drivers (s : State) : (countIgnored s).drivers = s.drivers := rfl
@[simp] theorem countIgnored_expression (s : State) : (countIgnored s).expression = s.expression := rfl
@[simp] theorem countIgnored_levelling (s : State) : (countIgnored s).levelling = s.levelling := rfl
@[simp] theorem countIgnored_yielding (s : State) : (countIgnored s).yielding = s.yielding := rfl
@[simp] theorem countIgnored_link (s : State) : (countIgnored s).link = s.link := rfl
@[simp] theorem countIgnored_counters (s : State) :
    (countIgnored s).counters = { s.counters with ignored := bump s.counters.ignored } := rfl
@[simp] theorem countIgnored_marks (s : State) : (countIgnored s).marks = s.marks := rfl
@[simp] theorem countIgnored_choices (s : State) : (countIgnored s).choices = s.choices := rfl
@[simp] theorem countIgnored_pending (s : State) : (countIgnored s).pending = s.pending := rfl

/-! ### `countUnmatched` -/

@[simp] theorem countUnmatched_now (s : State) : (countUnmatched s).now = s.now := rfl
@[simp] theorem countUnmatched_rstHeld (s : State) : (countUnmatched s).rstHeld = s.rstHeld := rfl
@[simp] theorem countUnmatched_ct (s : State) : (countUnmatched s).ct = s.ct := rfl
@[simp] theorem countUnmatched_store (s : State) : (countUnmatched s).store = s.store := rfl
@[simp] theorem countUnmatched_plan (s : State) : (countUnmatched s).plan = s.plan := rfl
@[simp] theorem countUnmatched_map (s : State) : (countUnmatched s).map = s.map := rfl
@[simp] theorem countUnmatched_follower (s : State) : (countUnmatched s).follower = s.follower := rfl
@[simp] theorem countUnmatched_acoustic (s : State) : (countUnmatched s).acoustic = s.acoustic := rfl
@[simp] theorem countUnmatched_front (s : State) : (countUnmatched s).front = s.front := rfl
@[simp] theorem countUnmatched_expander (s : State) : (countUnmatched s).expander = s.expander := rfl
@[simp] theorem countUnmatched_queue (s : State) : (countUnmatched s).queue = s.queue := rfl
@[simp] theorem countUnmatched_drivers (s : State) : (countUnmatched s).drivers = s.drivers := rfl
@[simp] theorem countUnmatched_expression (s : State) : (countUnmatched s).expression = s.expression := rfl
@[simp] theorem countUnmatched_levelling (s : State) : (countUnmatched s).levelling = s.levelling := rfl
@[simp] theorem countUnmatched_yielding (s : State) : (countUnmatched s).yielding = s.yielding := rfl
@[simp] theorem countUnmatched_link (s : State) : (countUnmatched s).link = s.link := rfl
@[simp] theorem countUnmatched_counters (s : State) :
    (countUnmatched s).counters = { s.counters with unmatched := bump s.counters.unmatched } := rfl
@[simp] theorem countUnmatched_marks (s : State) : (countUnmatched s).marks = s.marks := rfl
@[simp] theorem countUnmatched_choices (s : State) : (countUnmatched s).choices = s.choices := rfl
@[simp] theorem countUnmatched_pending (s : State) : (countUnmatched s).pending = s.pending := rfl

/-! ### `countDuplicate` -/

@[simp] theorem countDuplicate_now (s : State) : (countDuplicate s).now = s.now := rfl
@[simp] theorem countDuplicate_rstHeld (s : State) : (countDuplicate s).rstHeld = s.rstHeld := rfl
@[simp] theorem countDuplicate_ct (s : State) : (countDuplicate s).ct = s.ct := rfl
@[simp] theorem countDuplicate_store (s : State) : (countDuplicate s).store = s.store := rfl
@[simp] theorem countDuplicate_plan (s : State) : (countDuplicate s).plan = s.plan := rfl
@[simp] theorem countDuplicate_map (s : State) : (countDuplicate s).map = s.map := rfl
@[simp] theorem countDuplicate_follower (s : State) : (countDuplicate s).follower = s.follower := rfl
@[simp] theorem countDuplicate_acoustic (s : State) : (countDuplicate s).acoustic = s.acoustic := rfl
@[simp] theorem countDuplicate_front (s : State) : (countDuplicate s).front = s.front := rfl
@[simp] theorem countDuplicate_expander (s : State) : (countDuplicate s).expander = s.expander := rfl
@[simp] theorem countDuplicate_queue (s : State) : (countDuplicate s).queue = s.queue := rfl
@[simp] theorem countDuplicate_drivers (s : State) : (countDuplicate s).drivers = s.drivers := rfl
@[simp] theorem countDuplicate_expression (s : State) : (countDuplicate s).expression = s.expression := rfl
@[simp] theorem countDuplicate_levelling (s : State) : (countDuplicate s).levelling = s.levelling := rfl
@[simp] theorem countDuplicate_yielding (s : State) : (countDuplicate s).yielding = s.yielding := rfl
@[simp] theorem countDuplicate_link (s : State) : (countDuplicate s).link = s.link := rfl
@[simp] theorem countDuplicate_counters (s : State) :
    (countDuplicate s).counters = { s.counters with duplicate := bump s.counters.duplicate } := rfl
@[simp] theorem countDuplicate_marks (s : State) : (countDuplicate s).marks = s.marks := rfl
@[simp] theorem countDuplicate_choices (s : State) : (countDuplicate s).choices = s.choices := rfl
@[simp] theorem countDuplicate_pending (s : State) : (countDuplicate s).pending = s.pending := rfl

/-! ### `countOnsetsDropped` -/

@[simp] theorem countOnsetsDropped_now (s : State) : (countOnsetsDropped s).now = s.now := rfl
@[simp] theorem countOnsetsDropped_rstHeld (s : State) : (countOnsetsDropped s).rstHeld = s.rstHeld := rfl
@[simp] theorem countOnsetsDropped_ct (s : State) : (countOnsetsDropped s).ct = s.ct := rfl
@[simp] theorem countOnsetsDropped_store (s : State) : (countOnsetsDropped s).store = s.store := rfl
@[simp] theorem countOnsetsDropped_plan (s : State) : (countOnsetsDropped s).plan = s.plan := rfl
@[simp] theorem countOnsetsDropped_map (s : State) : (countOnsetsDropped s).map = s.map := rfl
@[simp] theorem countOnsetsDropped_follower (s : State) : (countOnsetsDropped s).follower = s.follower := rfl
@[simp] theorem countOnsetsDropped_acoustic (s : State) : (countOnsetsDropped s).acoustic = s.acoustic := rfl
@[simp] theorem countOnsetsDropped_front (s : State) : (countOnsetsDropped s).front = s.front := rfl
@[simp] theorem countOnsetsDropped_expander (s : State) : (countOnsetsDropped s).expander = s.expander := rfl
@[simp] theorem countOnsetsDropped_queue (s : State) : (countOnsetsDropped s).queue = s.queue := rfl
@[simp] theorem countOnsetsDropped_drivers (s : State) : (countOnsetsDropped s).drivers = s.drivers := rfl
@[simp] theorem countOnsetsDropped_expression (s : State) : (countOnsetsDropped s).expression = s.expression := rfl
@[simp] theorem countOnsetsDropped_levelling (s : State) : (countOnsetsDropped s).levelling = s.levelling := rfl
@[simp] theorem countOnsetsDropped_yielding (s : State) : (countOnsetsDropped s).yielding = s.yielding := rfl
@[simp] theorem countOnsetsDropped_link (s : State) : (countOnsetsDropped s).link = s.link := rfl
@[simp] theorem countOnsetsDropped_counters (s : State) :
    (countOnsetsDropped s).counters = { s.counters with onsetsDropped := bump s.counters.onsetsDropped } := rfl
@[simp] theorem countOnsetsDropped_marks (s : State) : (countOnsetsDropped s).marks = s.marks := rfl
@[simp] theorem countOnsetsDropped_choices (s : State) : (countOnsetsDropped s).choices = s.choices := rfl
@[simp] theorem countOnsetsDropped_pending (s : State) : (countOnsetsDropped s).pending = s.pending := rfl

/-! ### `countLate` -/

@[simp] theorem countLate_now (n : Nat) (s : State) : (countLate n s).now = s.now := rfl
@[simp] theorem countLate_rstHeld (n : Nat) (s : State) : (countLate n s).rstHeld = s.rstHeld := rfl
@[simp] theorem countLate_ct (n : Nat) (s : State) : (countLate n s).ct = s.ct := rfl
@[simp] theorem countLate_store (n : Nat) (s : State) : (countLate n s).store = s.store := rfl
@[simp] theorem countLate_plan (n : Nat) (s : State) : (countLate n s).plan = s.plan := rfl
@[simp] theorem countLate_map (n : Nat) (s : State) : (countLate n s).map = s.map := rfl
@[simp] theorem countLate_follower (n : Nat) (s : State) : (countLate n s).follower = s.follower := rfl
@[simp] theorem countLate_acoustic (n : Nat) (s : State) : (countLate n s).acoustic = s.acoustic := rfl
@[simp] theorem countLate_front (n : Nat) (s : State) : (countLate n s).front = s.front := rfl
@[simp] theorem countLate_expander (n : Nat) (s : State) : (countLate n s).expander = s.expander := rfl
@[simp] theorem countLate_queue (n : Nat) (s : State) : (countLate n s).queue = s.queue := rfl
@[simp] theorem countLate_drivers (n : Nat) (s : State) : (countLate n s).drivers = s.drivers := rfl
@[simp] theorem countLate_expression (n : Nat) (s : State) : (countLate n s).expression = s.expression := rfl
@[simp] theorem countLate_levelling (n : Nat) (s : State) : (countLate n s).levelling = s.levelling := rfl
@[simp] theorem countLate_yielding (n : Nat) (s : State) : (countLate n s).yielding = s.yielding := rfl
@[simp] theorem countLate_link (n : Nat) (s : State) : (countLate n s).link = s.link := rfl
@[simp] theorem countLate_counters (n : Nat) (s : State) :
    (countLate n s).counters = { s.counters with late := bumpBy n s.counters.late } := rfl
@[simp] theorem countLate_marks (n : Nat) (s : State) : (countLate n s).marks = s.marks := rfl
@[simp] theorem countLate_choices (n : Nat) (s : State) : (countLate n s).choices = s.choices := rfl
@[simp] theorem countLate_pending (n : Nat) (s : State) : (countLate n s).pending = s.pending := rfl

/-! ### `countForced` -/

@[simp] theorem countForced_now (n : Nat) (s : State) : (countForced n s).now = s.now := rfl
@[simp] theorem countForced_rstHeld (n : Nat) (s : State) : (countForced n s).rstHeld = s.rstHeld := rfl
@[simp] theorem countForced_ct (n : Nat) (s : State) : (countForced n s).ct = s.ct := rfl
@[simp] theorem countForced_store (n : Nat) (s : State) : (countForced n s).store = s.store := rfl
@[simp] theorem countForced_plan (n : Nat) (s : State) : (countForced n s).plan = s.plan := rfl
@[simp] theorem countForced_map (n : Nat) (s : State) : (countForced n s).map = s.map := rfl
@[simp] theorem countForced_follower (n : Nat) (s : State) : (countForced n s).follower = s.follower := rfl
@[simp] theorem countForced_acoustic (n : Nat) (s : State) : (countForced n s).acoustic = s.acoustic := rfl
@[simp] theorem countForced_front (n : Nat) (s : State) : (countForced n s).front = s.front := rfl
@[simp] theorem countForced_expander (n : Nat) (s : State) : (countForced n s).expander = s.expander := rfl
@[simp] theorem countForced_queue (n : Nat) (s : State) : (countForced n s).queue = s.queue := rfl
@[simp] theorem countForced_drivers (n : Nat) (s : State) : (countForced n s).drivers = s.drivers := rfl
@[simp] theorem countForced_expression (n : Nat) (s : State) : (countForced n s).expression = s.expression := rfl
@[simp] theorem countForced_levelling (n : Nat) (s : State) : (countForced n s).levelling = s.levelling := rfl
@[simp] theorem countForced_yielding (n : Nat) (s : State) : (countForced n s).yielding = s.yielding := rfl
@[simp] theorem countForced_link (n : Nat) (s : State) : (countForced n s).link = s.link := rfl
@[simp] theorem countForced_counters (n : Nat) (s : State) :
    (countForced n s).counters = { s.counters with forced := bumpBy n s.counters.forced } := rfl
@[simp] theorem countForced_marks (n : Nat) (s : State) : (countForced n s).marks = s.marks := rfl
@[simp] theorem countForced_choices (n : Nat) (s : State) : (countForced n s).choices = s.choices := rfl
@[simp] theorem countForced_pending (n : Nat) (s : State) : (countForced n s).pending = s.pending := rfl

/-! ### `countNoDivision` -/

@[simp] theorem countNoDivision_now (n : Nat) (s : State) : (countNoDivision n s).now = s.now := rfl
@[simp] theorem countNoDivision_rstHeld (n : Nat) (s : State) : (countNoDivision n s).rstHeld = s.rstHeld := rfl
@[simp] theorem countNoDivision_ct (n : Nat) (s : State) : (countNoDivision n s).ct = s.ct := rfl
@[simp] theorem countNoDivision_store (n : Nat) (s : State) : (countNoDivision n s).store = s.store := rfl
@[simp] theorem countNoDivision_plan (n : Nat) (s : State) : (countNoDivision n s).plan = s.plan := rfl
@[simp] theorem countNoDivision_map (n : Nat) (s : State) : (countNoDivision n s).map = s.map := rfl
@[simp] theorem countNoDivision_follower (n : Nat) (s : State) : (countNoDivision n s).follower = s.follower := rfl
@[simp] theorem countNoDivision_acoustic (n : Nat) (s : State) : (countNoDivision n s).acoustic = s.acoustic := rfl
@[simp] theorem countNoDivision_front (n : Nat) (s : State) : (countNoDivision n s).front = s.front := rfl
@[simp] theorem countNoDivision_expander (n : Nat) (s : State) : (countNoDivision n s).expander = s.expander := rfl
@[simp] theorem countNoDivision_queue (n : Nat) (s : State) : (countNoDivision n s).queue = s.queue := rfl
@[simp] theorem countNoDivision_drivers (n : Nat) (s : State) : (countNoDivision n s).drivers = s.drivers := rfl
@[simp] theorem countNoDivision_expression (n : Nat) (s : State) : (countNoDivision n s).expression = s.expression := rfl
@[simp] theorem countNoDivision_levelling (n : Nat) (s : State) : (countNoDivision n s).levelling = s.levelling := rfl
@[simp] theorem countNoDivision_yielding (n : Nat) (s : State) : (countNoDivision n s).yielding = s.yielding := rfl
@[simp] theorem countNoDivision_link (n : Nat) (s : State) : (countNoDivision n s).link = s.link := rfl
@[simp] theorem countNoDivision_counters (n : Nat) (s : State) :
    (countNoDivision n s).counters = { s.counters with noDivision := bumpBy n s.counters.noDivision } := rfl
@[simp] theorem countNoDivision_marks (n : Nat) (s : State) : (countNoDivision n s).marks = s.marks := rfl
@[simp] theorem countNoDivision_choices (n : Nat) (s : State) : (countNoDivision n s).choices = s.choices := rfl
@[simp] theorem countNoDivision_pending (n : Nat) (s : State) : (countNoDivision n s).pending = s.pending := rfl

/-! ### `countMissed` -/

@[simp] theorem countMissed_now (n : Nat) (s : State) : (countMissed n s).now = s.now := rfl
@[simp] theorem countMissed_rstHeld (n : Nat) (s : State) : (countMissed n s).rstHeld = s.rstHeld := rfl
@[simp] theorem countMissed_ct (n : Nat) (s : State) : (countMissed n s).ct = s.ct := rfl
@[simp] theorem countMissed_store (n : Nat) (s : State) : (countMissed n s).store = s.store := rfl
@[simp] theorem countMissed_plan (n : Nat) (s : State) : (countMissed n s).plan = s.plan := rfl
@[simp] theorem countMissed_map (n : Nat) (s : State) : (countMissed n s).map = s.map := rfl
@[simp] theorem countMissed_follower (n : Nat) (s : State) : (countMissed n s).follower = s.follower := rfl
@[simp] theorem countMissed_acoustic (n : Nat) (s : State) : (countMissed n s).acoustic = s.acoustic := rfl
@[simp] theorem countMissed_front (n : Nat) (s : State) : (countMissed n s).front = s.front := rfl
@[simp] theorem countMissed_expander (n : Nat) (s : State) : (countMissed n s).expander = s.expander := rfl
@[simp] theorem countMissed_queue (n : Nat) (s : State) : (countMissed n s).queue = s.queue := rfl
@[simp] theorem countMissed_drivers (n : Nat) (s : State) : (countMissed n s).drivers = s.drivers := rfl
@[simp] theorem countMissed_expression (n : Nat) (s : State) : (countMissed n s).expression = s.expression := rfl
@[simp] theorem countMissed_levelling (n : Nat) (s : State) : (countMissed n s).levelling = s.levelling := rfl
@[simp] theorem countMissed_yielding (n : Nat) (s : State) : (countMissed n s).yielding = s.yielding := rfl
@[simp] theorem countMissed_link (n : Nat) (s : State) : (countMissed n s).link = s.link := rfl
@[simp] theorem countMissed_counters (n : Nat) (s : State) :
    (countMissed n s).counters = { s.counters with missed := bumpBy n s.counters.missed } := rfl
@[simp] theorem countMissed_marks (n : Nat) (s : State) : (countMissed n s).marks = s.marks := rfl
@[simp] theorem countMissed_choices (n : Nat) (s : State) : (countMissed n s).choices = s.choices := rfl
@[simp] theorem countMissed_pending (n : Nat) (s : State) : (countMissed n s).pending = s.pending := rfl

/-! ### Read after write -/

@[simp] theorem div_setDiv (d : DivNo) (x : Division) (s : State) : div (setDiv d x s) d = x := by simp [div]

theorem div_setDiv_ne {d e : DivNo} (x : Division) (s : State) (h : d ≠ e) : div (setDiv d x s) e = div s e := by
  have h' : d.val ≠ e.val := fun g => h (Fin.ext g)
  simp [div, Vector.getElem_set_ne, h']

@[simp] theorem mic_setMic (m : MicNo) (x : Mic) (s : State) : mic (setMic m x s) m = x := by simp [mic]

theorem mic_setMic_ne {m n : MicNo} (x : Mic) (s : State) (h : m ≠ n) : mic (setMic m x s) n = mic s n := by
  have h' : m.val ≠ n.val := fun g => h (Fin.ext g)
  simp [mic, Vector.getElem_set_ne, h']

@[simp] theorem shutter_setShutter (d : DivNo) (x : Shutter) (s : State) : shutter (setShutter d x s) d = x := by
  simp [shutter]

theorem shutter_setShutter_ne {d e : DivNo} (x : Shutter) (s : State) (h : d ≠ e) :
    shutter (setShutter d x s) e = shutter s e := by
  have h' : d.val ≠ e.val := fun g => h (Fin.ext g)
  simp [shutter, Vector.getElem_set_ne, h']

@[simp] theorem slot_setSlot (i : Fin 16) (x : Slot) (n : Nat) (s : State) : slot (setSlot i x n s) i = x := by simp [slot]

theorem slot_setSlot_ne {i j : Fin 16} (x : Slot) (n : Nat) (s : State) (h : i ≠ j) :
    slot (setSlot i x n s) j = slot s j := by
  have h' : i.val ≠ j.val := fun g => h (Fin.ext g)
  simp [slot, Vector.getElem_set_ne, h']

@[simp] theorem key_setKey (d : DivNo) (k : KeyNo) (x : KeyRecord) (s : State) : key (setKey d k x s) d k = x := by
  simp [key, setKey]

theorem key_setKey_ne {d e : DivNo} {k l : KeyNo} (x : KeyRecord) (s : State) (h : d ≠ e ∨ k ≠ l) :
    key (setKey d k x s) e l = key s e l := by
  unfold key setKey
  by_cases hd : d = e
  · subst hd
    have h' : k.val ≠ l.val := fun g => (h.resolve_left (· rfl)) (Fin.ext g)
    simp [Vector.getElem_set_ne, h']
  · rw [div_setDiv_ne _ _ hd]

/-- A value changed at every index reads as the change of the value there. -/
@[simp] theorem mapIdx_getElem {α β : Type} {n : Nat} (f : Fin n → α → β) (v : Vector α n) (i : Fin n) :
    (mapIdx f v)[i.val] = f i v[i.val] := by
  simp [mapIdx]

@[simp] theorem div_mapDivisions (f : DivNo → Division → Division) (s : State) (d : DivNo) :
    div (mapDivisions f s) d = f d (div s d) := by
  simp [div]

@[simp] theorem shutter_mapShutters (f : DivNo → Shutter → Shutter) (s : State) (d : DivNo) :
    shutter (mapShutters f s) d = f d (shutter s d) := by
  simp [shutter]

end Sys2Proof.Machine
end

