-- ==== Sys2Proof/Tests/Slice0.lean ====
section
/-! SUPPORT. The writer's own tests: what the checks of WellFormed refuse, small steps with results taken from the worked figures
of spec/, and, for every statement that has hypotheses, a state and operands that meet them (the theorems named witness). -/

namespace Sys2Proof.Tests

open Sys2Proof Sys2Proof.Machine

/-! ### Small states -/

/-- The state that an outcome gives. -/
def after : Machine.Outcome → State
  | .next s => s
  | _ => State.reset

/-- The part just released from reset, at rest. -/
def base : State := { State.reset with rstHeld := false }

theorem listens_of {s : State} (h : s.rstHeld = false) (g : s.link = .powerOn) : Listens s :=
  ⟨h, by rw [g]; rfl, by rw [g]; rfl⟩

/-- An event of one soprano note. -/
def note (pos len : Nat) (cue fermata lineEnd amen : Bool) : Event :=
  { pos := pos, len := len, pitch := ⟨some 60, none, none, none, none⟩, voiceId := 0, cue := cue, fermata := fermata,
    breath := false, lineEnd := lineEnd, amen := amen, tie := .all false }

/-- A tune of one line and an Amen. -/
def tune : Tune :=
  { header := ⟨412, 8000, 6000, 12000, 3⟩,
    events := [note 0 48 true false false false, note 48 48 true true true false, note 96 48 false false true true],
    lines := [⟨0, 96, 0, 1⟩], verseEnd := 96, amen := some ⟨96, 144, 2, 2⟩ }

/-- A verse record of all voices with no ramp. -/
def record (f : Follow) (rest : Nat) : VerseRecord :=
  { registration := 1, mask := .all true, override := none, follow := f, ramp := none, restAfter := rest }

/-- A plan of two verses and an Amen. -/
def plan : Plan :=
  { slot := 0, introKind := .none, introRegistration := 0, introMask := .all true, introPeriod := none, givingOut := 2,
    verseCount := 2, amen := true, amenRegistration := 3, amenRest := 1, factor := 16, breath := 6,
    verses := [record .follow 1] }

/-- The store with the tune READY in slot 0. -/
def ready : State :=
  { base with store := { slots := base.store.slots.set 0 (.ready tune), free := 4093 } }

/-- The hymn of `plan` in a play state, with the map anchored at position 0 and time 0 of a segment. -/
def hymn (play : PlayState) (current : Option Nat) (mode : FollowerMode) : State :=
  { ready with
    plan := { ready.plan with active := some plan, order := runningOrder plan tune, play := play }
    map := { current := current, anchor := current.map fun _ => ⟨0, 0⟩, period := 8000, pauses := [] }
    follower := { ready.follower with mode := mode, credit := 4 } }

/-- A division of 61 keys with three stops, 1800 cm from the choir and 2200 cm from microphone 0 (03, 3.7). -/
def great : Division :=
  { Division.powerOn with
    present := true, enclosed := true, choirDistance := 1800, micDistance := #v[2200, 0, 0, 0], speech := 450
    release := 150, stopAction := 1500, capacity := 600, reserve := 100, weights := [8, 6, 4] }

/-- The state with the Great as division 0, with some stops drawn. -/
def withGreat (drawn : StopSet) (s : State) : State := setDiv 0 { great with drawn := drawn } s

/-- Microphone 0 enabled, with a floor (04, 4.8). -/
def micOn (floor : Option Nat) : Mic :=
  { Mic.powerOn with
    settings := { MicSettings.powerOn with enable := true, choirDistance := 300 }
    floor := floor }

/-- Microphone 0 whose next block begins at a time. -/
def micFrom (floor : Option Nat) (t : Time) : Mic := { micOn floor with blockFrom := t, fresh := false }

/-- A key record with holders. -/
def held (n : Nat) : KeyRecord := { KeyRecord.powerOn with holders := n }

/-- A ramp from step 40 to step 100 (09, 9.6). -/
def ramp : Ramp := { fromStep := some 40, toStep := 100, stepLength := 6, delay := 48, hold := 96, curve := 0 }

/-- A block of eight samples with an envelope value. -/
def block (env : Nat) : List (BitVec 12) := List.replicate 8 (BitVec.ofNat 12 (2048 + env / 2))

/-! ### WellFormed refuses what the wires cannot bring -/

theorem test_wf_body : (Instr.status 0 0 (List.replicate 241 0)).wf = false ∧ (Instr.status 0 0 (List.replicate 240 0)).wf = true := by
  decide +kernel
theorem test_wf_badKind : (Instr.badKind 0 0x1B 0 []).wf = false ∧ (Instr.badKind 0 0x1C 0 []).wf = true := by decide
theorem test_wf_planStart : (Instr.planStartNext 0 0 [0]).wf = false ∧ (Instr.planStartNow 0 0 [1]).wf = false := by decide
theorem test_wf_stop : (Instr.stopNow 0 0 [1]).wf = false ∧ (Instr.stopNow 0 0 [2]).wf = false ∧
    (Instr.stopLine 0 0 [2]).wf = false ∧ (Instr.stopVerse 0 0 [0]).wf = false := by decide
theorem test_wf_express : (Instr.expressNow 0 0 [0, 1, 0, 0, 1, 0, 0, 0, 0, 0]).wf = false ∧
    (Instr.expressNext 0 0 [0, 0, 0, 0, 1, 0, 0, 0, 0, 0]).wf = false := by decide
theorem test_wf_block_length : (Instr.envelopeBlock 10 0 0 (List.replicate 5 0)).wf = false ∧
    (Instr.envelopeBlock 10 0 0 (List.replicate 8 0)).wf = true := by decide
theorem test_wf_block_time : (Instr.envelopeBlock 40 0 0 (block 0)).wf = false ∧ (Instr.envelopeBlock 0 0 1 (block 0)).wf = false := by
  decide

/-! ### Figures of the manual -/

/-- R205: the check of the nine digits by the rule's polynomial, as every CRC-16 of this form gives it. -/
theorem test_check : crcOf [0x31, 0x32, 0x33, 0x34, 0x35, 0x36, 0x37, 0x38, 0x39] = 0x29B1#16 := by decide +kernel
/-- 12, 12.7: the STATUS frame, and the row that takes it. -/
theorem test_status_frame : (Frame.bytes ⟨0x01, 0x21, []⟩).take 4 = [0xA5, 0x00, 0x01, 0x21] ∧
    rowOf 0 0x01 0x21 [] = .status 0 0x21 [] := ⟨by decide, rfl⟩
/-- 12, 12.7: the STATUS reply frame has 34 bytes. -/
theorem test_status_reply : (after (exec (.transmitMessage 0) (after (exec (.status 0 0x21 []) base)))).link.tx.length = 34 := by
  decide
/-- 01, 1.8: the tightest pairs and the verse end; event 8 without AMEN is the last of the verse and lacks LINE_END. -/
theorem test_tune_end : (after (exec (.tuneEnd 0 1 [2]) (setSlot 2 (.loading tune.header tune.events) 4093 base))).store.slots[2] =
    .ready tune := by decide
theorem test_tune_end_verse : (after (exec (.tuneEnd 0 1 [2])
    (setSlot 2 (.loading ⟨412, 8000, 6000, 12000, 2⟩ [note 0 48 true false true false, note 48 48 false false false false]) 4094
      base))).link.outgoing = [.reply 0x06 1 .badTune [3, 0, 1]] := by decide
/-- R4: the free count of the reply. -/
theorem test_tune_begin : (after (exec (.tuneBegin 0 1 [2, 0x01, 0x9C, 0x1F, 0x40, 0x17, 0x70, 0x2E, 0xE0, 0, 10]) base)).link.outgoing =
    [.reply 0x04 1 .ok [0x0F, 0xF6]] := by decide
/-- 02, 2.7: the start time 510 000 for a start at 500 000, and the number of segments. -/
theorem test_plan_start : (after (exec (.planStartNow 500000 3 [0])
    { ready with plan := { ready.plan with staged := some plan } })).link.outgoing =
    [.reply 0x0B 3 .ok [0, 0, 0x07, 0xC8, 0x30, 3]] := by decide
/-- 02, 2.7: the rests of the running order. -/
theorem test_order : (runningOrder plan tune).map (fun g => (g.verse, g.sFrom, g.sTo, g.restBefore)) =
    [(1, 0, 96, 0), (2, 0, 96, 1), (0, 96, 144, 1)] := by decide
/-- 02, 2.7: the extension of the pause, and the tempo report of 03, R53. -/
theorem test_extension : plannedExt 16 8000 96 = 16000 ∧ tempoReport 8108 = 740 ∧ tempoReport 9000 = 667 := by decide
/-- 03, 3.3: times around a pause. -/
theorem test_map : currentTime (setPauses [⟨0, 48, 48, .planned⟩] (hymn .segment (some 0) .follow)) 48 false = some 8000 ∧
    currentTime (setPauses [⟨0, 48, 48, .planned⟩] (hymn .segment (some 0) .follow)) 48 true = some 16000 := by decide
/-- 03, 3.7: the travel table and the leads at 20.0 degrees. -/
theorem test_travel : travel base 300 = 87 ∧ travel base 1800 = 524 ∧ travel base 4000 = 1165 ∧ travel base 2200 = 641 ∧
    leadOn (withGreat 0 base) 0 = 974 ∧ leadOff (withGreat 0 base) 0 = 674 := by decide
/-- 03, 3.8: the fourth good reading of 110 moves T_use, a reading of 4085 sets the flag. -/
theorem test_temp : (after (exec (.tempReading 130000 1632)
    { base with acoustic := { history := [100, 100, 100, 100, 100, 110, 110, 110], inUse := 100, sensorFault := true } })).acoustic =
    { history := [100, 100, 100, 100, 110, 110, 110, 110], inUse := 105, sensorFault := false } := by decide
theorem test_temp_fault : (after (exec (.tempReading 10000 4085) base)).link.outgoing = [.notice (.tempFault 4085)] := by decide
/-- 04, 4.8: the first firing, and the floor after it. -/
theorem test_block :
    let s := after (exec (.envelopeBlock 1016419 0 1016410 (block 520)) (setMic 0 (micFrom (some 120) 1016410) base))
    ((mic s 0).floor, s.front.onsets) = (some 126, [⟨1016410, 0, 400⟩]) := by decide +kernel
/-- R62: a block that leaves a gap, or that completes at another moment than its samples give, is none the sampler makes. -/
theorem test_block_gap :
    exec (.envelopeBlock 1016419 0 1016410 (block 520)) (setMic 0 (micFrom (some 120) 1016400) base) =
      .next (arrive 1016419 (setMic 0 (micFrom (some 120) 1016400) base)) ∧
    (mic (after (exec (.envelopeBlock 1016410 0 1016410 (block 520)) (setMic 0 (micFrom (some 120) 1016410) base))) 0).envelope =
      none := ⟨rfl, by decide +kernel⟩
/-- 04, 4.8: the windows of the Pedal and the Great merge. -/
theorem test_windows : enterWindow ⟨1016422, 1016842⟩ [⟨1016276, 1016696⟩] = [⟨1016276, 1016842⟩] := by decide
/-- 05, 5.11: the match at 192. -/
theorem test_match :
    let s := hymn .segment (some 0) .follow
    let s := { s with follower := { s.follower with lastMatch := some 144 } }
    matchedPeriod s .normal 192 433 = 8108 ∧ phaseStep s .normal 433 = 217 ∧ cueWindow s .normal = 2000 := by decide
/-- 06, 6.12: the keys of event 10 and the end of the soprano's note. -/
theorem test_keys : keyOf great 67 0 = 31 ∧ keyOf great 62 0 = 26 ∧ keyOf great 59 0 = 23 ∧
    keyOf { great with compass := 32, base := 24 } 43 (-1) = 7 ∧ noteEnd 16 6 { note 528 96 true false false false with breath := true } = 618 := by
  decide
/-- 08, 8.10: with w = 18 the twenty-seventh valve opens for a voice other than S, and the twenty-eighth does not. -/
theorem test_wind :
    let s := setDiv 0 { great with drawn := 7, keys := Vector.ofFn fun k => held (if k.val < 26 then 1 else 0) } base
    windAllows s 0 (windLimit (div s 0) .A) = true ∧ windAllows (setKey 0 26 (held 1) s) 0 (windLimit (div s 0) .A) = false ∧
    windAllows (setKey 0 26 (held 1) s) 0 (windLimit (div s 0) .S) = true := by decide
/-- 09, 9.6: the SQUARE curve at its steps, and the nearest step of position 100. -/
theorem test_curve : curveAt base.expression 1 112 = 99 ∧ curveAt base.expression 1 110 = 95 ∧ curveAt base.expression 1 102 = 82 ∧
    nearestStep base.expression 1 100 = 112 := by decide +kernel
/-- 10, 10.8: the result of the worked run. -/
theorem test_level : averageOf [1395, 1402, 1388, 1411] = 1399 ∧ spreadOf [1395, 1402, 1388, 1411] = 23 ∧
    spreadOf [1395, 1402, 1388, 1611] = 223 := by decide
/-- 11, 11.7: the CT line held active for 50 tu yields the part. -/
theorem test_touch : (after (exec (.ctTouchHeld 640150)
    { base with ct := true, yielding := { base.yielding with filter := .touching 640100 } })).yielding =
    ⟨.yielded, true, false, .held, none⟩ := by decide
/-- 11, 11.7: the position at the yield. -/
theorem test_position : positionAt (hymn .segment (some 0) .follow) 15999 = some 95 := by decide


/-! ### Witnesses: the step, the link and the handler -/

theorem idle_not_inUse {s : State} {i : Fin 16} (h : s.plan.active = none) (g : s.plan.queued = false) : ¬InUse s i := by
  simp [InUse, h, g]

/-- The state with a message list, and one with a queue. -/
def sending (ms : List Message) (s : State) : State := { s with link := { s.link with outgoing := ms } }
def queued (q : List Entry) (s : State) : State := { s with queue := q }

/-- The state with a receiver state and receive FIFO. -/
def receiving (r : Receiver) (rx : List (Byte × Time)) : State := { base with link := { base.link with receiver := r, rx := rx } }

theorem witness_StepOnEmptyQueue : State.reset.pending = [] ∧ State.reset.rstHeld = true ∧
    base.pending = [] ∧ base.rstHeld = false ∧ dueEvents base = [] ∧
    (sending [.notice (.ready 0)] base).pending = [] ∧ dueEvents (sending [.notice (.ready 0)] base) = [.transmitMessage 0] := by
  decide
theorem witness_NoticesAndWaits : noticeCount (sending (List.replicate 15 (.notice (.ready 0))) base).link < 16 ∧
    16 ≤ noticeCount (sending (List.replicate 16 (.notice (.ready 0))) base).link ∧ dueWaits base base = [] ∧
    (let s := queued [⟨.stopSet 0 0, 0, 0, 0⟩] base
     dueWaits s s = [.entry] ∧ dueWaits s (actOn .entry s) = []) := by decide
theorem witness_RetimeRecomputes :
    (let s := queued [⟨.keyOn 0 0 .S 1 none, 0, 48, 9⟩, ⟨.keyOff 0 0 .S 2 (some 1), 0, 48, 8⟩, ⟨.stopSet 0 0, 5, 0, 7⟩]
        (hymn .segment (some 0) .follow)
     (positionTime s 0 48 false).isSome = true ∧ positionTime s 5 0 true = none ∧ ∀ e ∈ s.queue, (diff e.issue s.now).natAbs < 2 ^ 30) := by
  decide
theorem witness_FrameRoundTrip : (List.replicate 240 (0 : Byte)).length ≤ 240 ∧ base.link.receiver = .hunt ∧
    (0x29 : Byte).toNat * 256 + (0xB2 : Byte).toNat ≠ (crcOf [0x31, 0x32, 0x33, 0x34, 0x35, 0x36, 0x37, 0x38, 0x39]).toNat := by
  decide +kernel
theorem witness_ResetReleaseStarts : State.reset.rstHeld = true := rfl
theorem witness_ReceiverTakesBytes :
    Runs base ∧ gapAt (receiving (.awaitLen 0) [(240, 200)]) 200 = false ∧ gapAt (receiving (.awaitLen 0) [(0xA5, 201)]) 201 = true ∧
    receiverMoves (.awaitLen 0) 240 200 (.awaitKind 200 240) false ∧ receiverMoves (.awaitLen 0) 241 200 .hunt true ∧
    receiverMoves .hunt 0xA5 5 (.awaitLen 5) false ∧ receiverMoves (.body 0 1 3 4 []) 9 5 (.checkHigh 5 3 4 [9]) false ∧
    (receiving (.checkLow 0 3 4 [] 0) []).link.receiver.last = some 0 ∧ 200 < diff 201 0 :=
  ⟨rfl, by decide, by decide, ⟨fun _ => ⟨rfl, rfl⟩, fun h => absurd h (by decide)⟩,
    ⟨fun h => absurd h (by decide), fun _ => ⟨rfl, rfl⟩⟩, ⟨rfl, rfl⟩, ⟨rfl, rfl⟩, rfl, by decide⟩
theorem witness_LinkFifosMove :
    (receiving .hunt (List.replicate 1023 (0, 0))).link.rx.length < 1024 ∧
    1024 ≤ (receiving .hunt (List.replicate 1024 (0, 0))).link.rx.length ∧
    (Message.notice (.ready 0)).frame.bytes.length = 10 ∧
    (List.replicate 1014 (0 : Byte)).length + (Message.notice (.ready 0)).frame.bytes.length ≤ 1024 ∧
    1024 < (List.replicate 1015 (0 : Byte)).length + (Message.notice (.ready 0)).frame.bytes.length := by
  have h : (Message.notice (.ready 0)).frame.bytes.length = 10 := by decide
  simp only [receiving, List.length_replicate, h]; decide
theorem witness_HandlerRefusesAndHolds : Listens base ∧ (List.replicate 240 (0 : Byte)).length ≤ 240 ∧ isRequestKind 0x1C = false ∧
    isRequestKind 0x1B = true ∧ lengthAllowed 0x1B [0, 0, 0, 0] = false ∧ Runs (sending [.reply 1 1 .ok []] base) ∧
    handlerFree (sending [.reply 1 1 .ok []] base).link = false ∧
    (let s := { base with link := { base.link with waiting := some ⟨0x01, 5, []⟩ } }
     Runs s ∧ handlerFree s.link = true ∧ rowOf 0 0x01 5 [] = .status 0 5 []) :=
  ⟨listens_of rfl rfl, by simp only [List.length_replicate]; decide, rfl, rfl, rfl, rfl, rfl, rfl, rfl, rfl⟩
theorem witness_Listens : Listens base ∧ Listens ready ∧ ∀ p c m, Listens (hymn p c m) :=
  ⟨listens_of rfl rfl, listens_of rfl rfl, fun _ _ _ => listens_of rfl rfl⟩
theorem witness_ReadRequestsReply_tables : slot ready 0 = .ready tune ∧ tune.events[2]?.isSome = true ∧ tune.events[3]? = none ∧
    (mic base 3).settings.enable = false ∧ (queued [⟨.keyOn 0 0 .S 1 none, 0, 48, 9⟩] base).queue[1]? = none ∧
    (queued (List.replicate 256 ⟨.stopSet 0 1, 0, 0, 0⟩) base).queue[255]? = some ⟨.stopSet 0 1, 0, 0, 0⟩ ∧
    (shutter base 5).running = .idle ∧ (shutter base 5).queued = none := by
  refine ⟨rfl, by decide, by decide, by decide, by decide, ?_, by decide, by decide⟩
  exact List.getElem?_replicate_of_lt (by decide)
theorem witness_ReadRequestsReply : tableInRange 0 15 511 = true ∧ tableInRange 0 15 512 = false ∧ tableInRange 15 2 0 = false ∧
    tableInRange 17 0 0 = true ∧ tableInRange 18 0 0 = false := by decide

/-! ### Witnesses: the Score Store -/

/-- The body of TUNE_BEGIN with a default, a minimum, a maximum and a count. -/
def beginBody (sl d lo hi n : Nat) : List Byte := e8 sl ++ e16 1 ++ e16 d ++ e16 lo ++ e16 hi ++ e16 n

/-- The header that such a body spells. -/
def bodyHeader (b : List Byte) : TuneHeader := ⟨wordAt b 1, wordAt b 3, wordAt b 5, wordAt b 7, wordAt b 9⟩

theorem witness_TuneBeginReserves : (beginBody 16 2000 2000 20000 1).length = 11 ∧ 15 < byteAt (beginBody 16 2000 2000 20000 1) 0 ∧
    bodyHeader (beginBody 15 2000 2000 20000 512) = ⟨1, 2000, 2000, 20000, 512⟩ ∧ Reserves (slot base 15) 0 ∧
    ¬InUse base 15 ∧ InUse (hymn .closing none .lead) 0 ∧ Reserves (slot (hymn .closing none .lead) 0) 3 ∧
    (setSlot 0 (.ready tune) 9 base).store.free + 3 < 13 ∧ Reserves (slot (setSlot 0 (.ready tune) 9 base) 0) 3 :=
  ⟨by decide, by decide, by decide, rfl, idle_not_inUse rfl rfl, .inl ⟨plan, rfl, rfl⟩, rfl, by decide, rfl⟩

/-- The body of TUNE_DATA with n events, one unit long. -/
def dataBody (sl first n : Nat) : List Byte :=
  e8 sl ++ e16 first ++ (List.range n).flatMap fun i => e16 (2 * i) ++ e16 1 ++ [60, 255, 255, 255, 255, 0, 1, 0]

/-- Slot 1 loading, with two events of 21. -/
def loading : State := setSlot 1 (.loading ⟨1, 8000, 6000, 12000, 21⟩ [note 0 1 true false false false, note 1 1 true false false false])
  4075 base

theorem witness_TuneDataStores : (dataBody 1 2 19).length = 3 + 12 * 19 ∧ 15 < byteAt (dataBody 16 0 1) 0 ∧
    byteAt (dataBody 1 2 19) 0 = 1 ∧ (∀ h es, slot base 1 ≠ .loading h es) ∧
    slot loading 1 = .loading ⟨1, 8000, 6000, 12000, 21⟩ [note 0 1 true false false false, note 1 1 true false false false] ∧
    wordAt (dataBody 1 3 19) 1 ≠ 2 ∧ wordAt (dataBody 1 2 19) 1 = 2 :=
  ⟨by decide +kernel, by decide, by decide +kernel, fun _ _ h => (nomatch h), by decide, by decide +kernel, by decide +kernel⟩
theorem witness_TuneDataStores_events : (∀ j, j < 19 → ¬eventFails (dataBody 1 2 19) (3 + 12 * j)) ∧
    eventFails ((dataBody 1 2 1).set 13 32) (3 + 12 * 0) ∧ eventFails (((dataBody 1 2 1).set 5 6).set 6 1) 3 := by
  unfold eventFails; decide
theorem witness_TuneEndValidates : (15 : Byte).toNat = (15 : Fin 16).val ∧ (∀ h es, slot base 1 ≠ .loading h es) ∧
    ∀ code, code < 7 → tunePasses tune.header tune.events code := by
  refine ⟨rfl, fun _ _ h => (nomatch h), ?_⟩
  rintro (_ | _ | _ | _ | _ | _ | _ | n) hn
  · rfl
  · rintro (_ | _ | _ | j) e f h g
    · cases (h : some _ = some e); cases (g : some _ = some f); decide
    · cases (h : some _ = some e); cases (g : some _ = some f); decide
    · exact (nomatch (g : none = some f))
    · exact (nomatch (h : none = some e))
  · refine ⟨by decide, ?_⟩
    rintro (_ | _ | _ | j) k e f h g l m
    · cases (g : some _ = some e); exact absurd m (by decide)
    · cases (g : some _ = some e); exact absurd m (by decide)
    · obtain ⟨_ | n, rfl⟩ : ∃ n, k = 3 + n := ⟨k - 3, by omega⟩
      · exact (nomatch (l : none = some f))
      · rw [List.getElem?_eq_none (by simp [tune])] at l; cases l
    · exact (nomatch (g : none = some e))
  · intro e h; cases h; rfl
  · exact ⟨by decide, by decide⟩
  · exact ⟨_, .tail _ (.head _), rfl, rfl⟩
  · intro _ e h; cases h; rfl
  · omega
theorem witness_TuneEndValidates_fails :
    (let es := [note 0 48 true false true false, note 40 8 true false true false]
     tunePasses ⟨1, 8000, 6000, 9000, 2⟩ es 0 ∧ ¬tunePasses ⟨1, 8000, 6000, 9000, 2⟩ es 1 ∧ tuneReports es 1 1) := by
  refine ⟨rfl, fun h => absurd (h 0 _ _ rfl rfl) (by decide), ⟨0, _, _, rfl, rfl, rfl, by decide, fun j _ _ h => ?_⟩⟩
  omega
theorem witness_TuneEraseFrees : InUse (hymn .closing none .lead) 0 ∧ ¬InUse ready 0 ∧ Reserves (slot ready 0) 3 ∧
    Reserves (slot loading 1) 21 ∧ Reserves (slot base 15) 0 := ⟨.inl ⟨plan, rfl, rfl⟩, idle_not_inUse rfl rfl, rfl, rfl, rfl⟩
/-- Without an Amen tail its range is all-ones; the carried voices are a mask and five pitches (R207; log 34, log 46). -/
theorem test_absent_records : (Slot.ready { tune with amen := none }).readFields.drop 17 = [0, 0xFF, 0xFF, 0xFF, 0xFF] ∧
    carriedFields ⟨some 67, none, none, none, some 60⟩ = [0x11, 67, 0xFF, 0xFF, 0xFF, 60] := by decide
theorem witness_TuneReadReports : slot ready 0 = .ready tune ∧ slot base 15 = .empty ∧
    slot loading 1 = .loading ⟨1, 8000, 6000, 12000, 21⟩ [note 0 1 true false false false, note 1 1 true false false false] := by
  decide

/-! ### Witnesses: the Plan Unit -/

/-- A PLAN_SET body of n verse records, with a slot number. -/
def planBody (sl n : Nat) : List Byte :=
  e8 sl ++ [3, 7, 31] ++ e16 20000 ++ [8, 12, 1, 7, 4, 32, 24] ++
    (List.replicate n ([7, 31, 15, 1, 1, 127, 127, 96] ++ e16 1536 ++ e16 1536 ++ [7, 16])).flatten

/-- A hymn whose plan is also queued. -/
def queuedHymn (s : State) : State := { s with plan := { s.plan with staged := some plan, queued := true } }

/-- The tune ready and the plan staged. -/
def staged : State := { ready with plan := { ready.plan with staged := some plan } }

theorem witness_PlanSetStages : (planBody 15 12).length = 13 + 14 * 12 ∧ (queuedHymn (hymn .segment (some 0) .lead)).plan.queued = true ∧
    ready.plan.queued = false ∧ FirstFails (planRanges (planBody 16 1)) 0 ∧ AllHold (planRanges (planBody 15 12)) := by
  refine ⟨by decide +kernel, rfl, rfl, ?_, ?_⟩ <;> simp only [planRanges, AllHold, FirstFails] <;> decide +kernel
theorem witness_PlanSetStages_verses : (∀ j, j < 12 → AllHold (verseRanges (planBody 15 12) (13 + 14 * j))) ∧
    FirstFails (verseRanges ((planBody 15 12).set 40 17) 27) 11 := by
  constructor <;>
    simp only [verseRanges, rampRanges, List.map_cons, List.map_nil, List.cons_append, List.nil_append, AllHold, FirstFails] <;>
    decide +kernel
theorem witness_PlanCancelUndoes : (queuedHymn ready).plan.queued = true ∧ staged.plan.queued = false ∧
    staged.plan.staged.isSome = true ∧ ready.plan.staged = none := ⟨rfl, rfl, rfl, rfl⟩
theorem witness_RunningOrderFollowsPlan :
    let p := { plan with introKind := .firstLast, verseCount := 12, amen := true }
    1 ≤ p.verses.length ∧ p.verseCount ≤ 12 ∧ (tune.lines.length ≤ 1) ∧ tune.amen = some ⟨96, 144, 2, 2⟩ ∧
    tune.lines.getLast?.isSome = true := by decide
theorem witness_RunningOrderFollowsPlan_lines :
    let x := { tune with lines := [⟨0, 48, 0, 0⟩, ⟨48, 96, 1, 1⟩] }
    ¬x.lines.length ≤ 1 ∧ (runningOrder { plan with introKind := .firstLast, verseCount := 12 } x).length = 15 := by decide
theorem witness_PlanStartBegins : Listens staged ∧ runActive staged = false ∧ yielded staged = false ∧
    staged.plan.staged = some plan ∧ slot staged plan.slot = .ready tune ∧ staged.plan.play = .idle ∧
    (queuedHymn (hymn .segment (some 0) .lead)).plan.play ≠ .idle :=
  ⟨listens_of rfl rfl, rfl, rfl, rfl, rfl, rfl, by decide⟩
theorem witness_PlanStartRefusesOrQueues : (2 : Byte).toNat = 2 ∧ runActive base = false ∧ yielded base = false ∧
    (∀ p x, base.plan.staged = some p → slot base p.slot ≠ .ready x) ∧
    (∀ p x, ({ base with plan := { base.plan with staged := some plan } } : State).plan.staged = some p → slot base p.slot ≠ .ready x) ∧
    slot (queuedHymn (hymn .closing none .lead)) plan.slot = .ready tune :=
  ⟨rfl, rfl, rfl, fun _ _ h => (nomatch h), fun _ _ h => by cases h; exact fun g => (nomatch g), rfl⟩

/-- A levelling run in a phase, with a retry number and values. -/
def run (phase : LevelPhase) (retry : Nat) (measured : List Nat) : LevelRun :=
  { division := 0, stop := 0, key := 0, mic := 0, trials := 4, spacing := 3000, saved := 0, phase := phase, listening := false
    good := false, trial := 1, retry := retry, measured := measured, quietStart := none, opening := none, deadline := some 0 }

/-- The state with a run. -/
def level (r : LevelRun) (s : State) : State := { s with levelling := { s.levelling with run := some r } }

theorem witness_StopNowEnds : (3 : Byte).toNat = 3 ∧ base.plan.play = .idle ∧ base.levelling.run = none ∧
    (level (run .done 0 []) base).levelling.run = some (run .done 0 []) ∧ (run .sounding 0 []).phase ≠ .done ∧
    (hymn .starting none .lead).plan.play ≠ .idle := by decide
theorem witness_StopPartCuts : (hymn .segment (some 0) .follow).map.current = some 0 ∧
    (currentSegment (hymn .segment (some 2) .follow)).isSome = true ∧
    (currentLine (syncRamps (hymn .segment (some 0) .follow))).isSome = true ∧
    currentLine (syncRamps (hymn .segment (some 2) .follow)) ≠ none ∧
    (currentSegment (hymn .rest (some 1) .lead)).isSome = true ∧ (hymn .starting none .lead).plan.play = .starting ∧
    (hymn .closing none .lead).plan.play = .closing := by decide
theorem witness_VersesRebuilds : (¬((hymn .segment (some 1) .follow).plan.play = .closing ∨
      (hymn .segment (some 1) .follow).plan.stopped = true ∨
      ∃ g, currentSegment (hymn .segment (some 1) .follow) = some g ∧ g.kind = .amen)) ∧
    (∃ g, currentSegment (hymn .segment (some 2) .follow) = some g ∧ g.kind = .amen) ∧
    (hymn .segment (some 1) .follow).plan.active = some plan ∧ slot (hymn .segment (some 1) .follow) plan.slot = .ready tune ∧
    (currentSegment (hymn .segment (some 1) .follow)).map (·.verse) = some 2 :=
  ⟨by
    rintro (h | h | ⟨g, h, k⟩)
    · cases h
    · cases h
    · cases h; exact absurd k (by decide), ⟨_, rfl, rfl⟩, rfl, rfl, rfl⟩
/-- The second verse replaced by the Amen, with the part on its way back to that verse. -/
theorem witness_VersesRebuilds_rejoin :
    (let s := hymn .segment (some 0) .follow
     let s := { s with yielding := { s.yielding with state := .rejoining, rejoin := some ⟨1, 0, 0⟩ } }
     let order := s.plan.order.take 1 ++ amenSegments { plan with verseCount := 1 } tune 1
     s.plan.order[1]? ≠ order[1]? ∧ s.map.current = some 0 ∧ (order[0]?).map (·.sTo) = some 96 ∧ ¬order.length ≤ 1 ∧
     s.yielding.rejoin = some ⟨1, 0, 0⟩) := by decide
theorem witness_VersesRebuilds_orders :
    (let s := hymn .segment (some 0) .follow
     let order (n : Nat) := s.plan.order.take 1 ++ (List.range (n - 1)).map (fun j => verseSegment { plan with verseCount := n } tune false (2 + j)) ++
       amenSegments { plan with verseCount := n } tune n
     s.plan.order[1]? = (order 12)[1]? ∧ s.plan.order[1]? ≠ (order 1)[1]? ∧ (order 12).length = 13) := by decide
theorem witness_TempoMovesPeriod : (0x07 : Byte).toNat * 256 + (0xCF : Byte).toNat = 1999 ∧
    (0x4E : Byte).toNat * 256 + (0x20 : Byte).toNat = 20000 ∧ activeTune (hymn .segment (some 0) .follow) = some tune ∧
    runningPause (hymn .segment (some 0) .follow) = none ∧ positionNow (hymn .segment (some 0) .follow) = some 0 ∧
    positionNow (hymn .rest (some 0) .follow) = some 0 := by
  decide

/-! ### Witnesses: the settings -/

/-- A FOLLOW_SET body, and a MIC_SET body with a fall threshold. -/
def followBody (win : Nat) : List Byte := e8 win ++ [16, 128, 8, 4] ++ e16 40000 ++ e16 1000 ++ e8 8 ++ e16 50000
def micBody (fall : Nat) : List Byte :=
  [3, 1] ++ e16 3000 ++ [32] ++ e16 2048 ++ e16 fall ++ e16 5000 ++ [10, 1] ++ e16 2000 ++ e16 400

/-- A DIVISION_SET body of a kind, with a compass. -/
def divisionBody (kind compass : Nat) : List Byte :=
  [5, 1] ++ e8 kind ++ e8 compass ++ [127, 1] ++ e16 12000 ++ e16 12000 ++ e16 12000 ++ e16 12000 ++ e16 12000 ++ e16 3000 ++
    e16 1000 ++ e16 4000 ++ e16 4095 ++ e16 4095

theorem witness_FollowAndMicSet : (followBody 24).length = 12 ∧ byteAt (followBody 24) 0 = 24 ∧ byteAt (followBody 25) 0 = 25 ∧
    wordAt (followBody 24) 5 = 40000 ∧ wordAt (followBody 24) 7 = 1000 ∧ wordAt (followBody 24) 10 = 50000 ∧
    (micBody 2047).length = 17 ∧ wordAt (micBody 2047) 7 < wordAt (micBody 2047) 5 ∧ ¬wordAt (micBody 2048) 7 < wordAt (micBody 2048) 5 ∧
    wordAt (micBody 0) 15 = 400 ∧ runActive base = false ∧ runActive (level (run .done 0 []) base) = true ∧
    FirstFails [3 ≤ byteAt (followBody 25) 0 ∧ byteAt (followBody 25) 0 ≤ 24, byteAt (followBody 25) 1 ≤ 16] 0 ∧
    FirstFails [byteAt (micBody 2048) 0 ≤ 3, wordAt (micBody 2048) 7 < wordAt (micBody 2048) 5] 1 := by
  simp only [FirstFails]; decide
theorem witness_DivisionSetWrites : (divisionBody 1 32).length = 26 ∧ byteAt (divisionBody 1 32) 3 ≤ 32 ∧
    ¬byteAt (divisionBody 1 33) 3 ≤ 32 ∧ byteAt (divisionBody 0 61) 3 ≤ 61 ∧ wordAt (divisionBody 0 61) 24 ≤ wordAt (divisionBody 0 61) 22 ∧
    (5 : DivNo).val = byteAt (divisionBody 0 61) 0 ∧ wordAt ((divisionBody 0 61).set 8 255) 8 = 65504 ∧
    FirstFails [byteAt (divisionBody 1 33) 2 ≤ 1, 1 ≤ byteAt (divisionBody 1 33) 3 ∧
      byteAt (divisionBody 1 33) 3 ≤ (if byteAt (divisionBody 1 33) 2 = 1 then 32 else 61)] 1 := by
  simp only [FirstFails]; decide
theorem witness_StopsAndRegistrationSet :
    (let b : List Byte := [5, 16] ++ List.replicate 16 64
     b.length = 2 + 16 ∧ byteAt b 1 = 16 ∧ (∀ i, i < 16 → 1 ≤ byteAt b (2 + i) ∧ byteAt b (2 + i) ≤ 64)) ∧
    (let b : List Byte := [0, 1, 0]
     byteAt b 1 = 1 ∧ ¬(1 ≤ byteAt b 2)) ∧ 16 < byteAt [0, 17] 1 ∧
    ([6, 17] : List Byte).length = 2 ∧ ¬byteAt [6, 17] 0 ≤ 5 ∧ (8 :: List.replicate 12 (0 : Byte)).length = 13 ∧ (7 : Fin 8).val = byteAt (7 :: List.replicate 12 0) 0 := by decide
theorem witness_VoicingAndCurveSet :
    (let b : List Byte := 15 :: (List.replicate 10 ([1, 5, 0xFE] : List Byte)).flatten
     b.length = 31 ∧ (∀ j, j < 10 → byteAt b (1 + 3 * j) = 1 ∧ byteAt b (2 + 3 * j) ≤ 5 ∧ (byteAt b (3 + 3 * j) : Int) - 256 = -2)) ∧
    (let b : List Byte := 7 :: List.replicate 9 127
     b.length = 10 ∧ (∀ i, i < 9 → byteAt b (1 + i) ≤ 127)) ∧ ¬(3 ≤ byteAt (2 :: List.replicate 9 127) 0) := by decide

/-- An EXPRESS body of a form, from step 40 to step 100, with a delay. -/
def expressBody (form delay : Nat) : List Byte := e8 0 ++ e8 form ++ [40, 100, 6] ++ e16 delay ++ e16 96 ++ [7]

/-- The state with a ramp running on division 0, with su that it has not counted. -/
def ramped (phase : RampPhase) (count uncounted : Nat) (s : State) : State :=
  setShutter 0 ⟨64, .active ramp phase count, none, uncounted⟩ s

theorem witness_ExpressPlaces : (expressBody 1 1536).length = 10 ∧ AllHold (rampRanges (expressBody 1 1536) 2) ∧
    ¬AllHold (rampRanges (expressBody 0 1537) 2) ∧ AllHold (rampRanges (expressBody 0 0) 2) ∧ (div base 0).present = false ∧
    (div (withGreat 0 base) 0).present = true ∧ (div (withGreat 0 base) 0).enclosed = true ∧ yielded (withGreat 0 base) = false ∧
    (shutter (syncRamps (withGreat 0 base)) 0).running = .idle ∧
    (shutter (syncRamps (ramped .delay 0 0 (withGreat 0 base))) 0).running ≠ .idle := by
  simp only [rampRanges, AllHold]; decide

/-! ### Witnesses: levelling, yield and faults -/

/-- The state with a yield unit, and with a microphone. -/
def yieldingAs (y : YieldUnit) (s : State) : State := { s with yielding := y }
def withMic (floor : Option Nat) (s : State) : State := setMic 0 (micOn floor) s

/-- The state at a time of the counter, with no reading, scan or tick taken. -/
def at_ (t : Time) (s : State) : State := { s with now := t, marks := .fresh }

theorem witness_LevelBegins : ([0, 2, 60, 0, 16] ++ e16 20000 : List Byte).length = 7 ∧ wordAt ([0, 2, 60, 0, 4] ++ e16 3000) 5 = 3000 ∧
    ¬(3000 ≤ wordAt ([0, 2, 60, 0, 4] ++ e16 2999) 5) ∧
    (let s := withMic none (withGreat 0 base)
     s.plan.play = .idle ∧ yielded s = false ∧ runActive s = false ∧ (div s 0).present = true ∧ 2 < (div s 0).weights.length ∧
     ¬3 < (div s 0).weights.length ∧ 60 < (div s 0).compass ∧ (mic s 0).settings.enable = true ∧
     FirstFails [(div s 0).present = true, 2 < (div s 0).weights.length, 60 < (div s 0).compass, (mic s 1).settings.enable = true] 3) := by
  simp only [FirstFails]; decide
theorem witness_SourceTakesOrgan : Listens base ∧ yielded base = false ∧
    (let s := at_ 50 { yieldingAs ⟨.yielded, false, true, .touching 0, none⟩ base with ct := true }
     Runs s ∧ s.yielding.filter = .touching 0 ∧ s.ct = true ∧ atOrBefore (0 + 50) s.now = true ∧ yielded s = true) ∧
    closingHolds { base with plan := { base.plan with play := .closing } } = true := by
  exact ⟨listens_of rfl rfl, rfl, ⟨rfl, rfl, rfl, by decide, rfl⟩, by decide⟩
theorem witness_SourceGivesBack :
    (let s := yieldingAs ⟨.yielded, false, true, .quiet, none⟩ base
     Listens s ∧ yielded s = true ∧ s.yielding.link = true ∧ s.yielding.pin = false ∧ s.plan.play = .idle ∧ s.plan.queued = false) ∧
    (let s := at_ 20000 (yieldingAs ⟨.yielded, true, false, .leaving 0 20000, none⟩ (queuedHymn ready))
     Runs s ∧ s.yielding.filter = .leaving 0 20000 ∧ s.ct = false ∧ atOrBefore (0 + BitVec.ofNat 32 20000) s.now = true ∧
     s.yielding.pin = true ∧ s.plan.queued = true ∧ s.plan.staged = some plan ∧ slot s plan.slot = .ready tune) :=
  ⟨⟨listens_of rfl rfl, rfl, rfl, rfl, rfl, rfl⟩, ⟨rfl, rfl, rfl, by decide, rfl, rfl, rfl, rfl⟩⟩
theorem witness_SourceGivesBack_rejoin :
    (let s := yieldingAs ⟨.yielded, false, false, .quiet, none⟩ (hymn .segment (some 0) .follow)
     rejoinPoints s = [] ++ ⟨1, 0, 0⟩ :: [] ∧ farEnough s ⟨1, 0, 0⟩ ∧ currentSegment s ≠ none ∧
     farEnough (at_ 17310 s) ⟨1, 0, 0⟩ ∧ ¬farEnough (at_ 17311 s) ⟨1, 0, 0⟩) ∧
    rejoinPoints (yieldingAs ⟨.yielded, false, false, .quiet, none⟩ (hymn .segment (some 2) .follow)) = [] := by
  refine ⟨⟨by decide, ⟨24000, 0, by decide, by decide, .inl rfl, by decide⟩, by decide,
    ⟨24000, 0, by decide, by decide, .inl rfl, by decide⟩, ?_⟩, by decide⟩
  have n : ∀ d : DivNo, (div base d).present = false := by decide
  rintro ⟨time, most, h, _, rfl | ⟨d, p, _⟩, l⟩
  · cases (h : some (24000 : Time) = some time); exact absurd l (by decide)
  · exact absurd ((n d).symm.trans p) (by decide)
theorem witness_FilterAndRejoin : Runs base ∧ base.ct = !true ∧ ({ base with ct := true } : State).ct = !false ∧
    (let s := yieldingAs ⟨.rejoining, false, false, .quiet, some ⟨0, 1, 48⟩⟩ (at_ 8000 (hymn .segment (some 0) .follow))
     s.yielding.state = .rejoining ∧ positionTime s 0 48 false = some 8000 ∧ atOrBefore 8000 s.now = true) ∧
    (let s := yieldingAs ⟨.rejoining, false, false, .quiet, some ⟨0, 1, 48⟩⟩ (hymn .segment (some 1) .follow)
     s.yielding.rejoin = some ⟨0, 1, 48⟩ ∧ positionTime s 0 48 false = none ∧ s.map.current = some 1) :=
  ⟨rfl, rfl, rfl, by decide, by decide⟩
theorem witness_FaultClearResets : 5 < (6 : Byte).toNat ∧ (5 : DivNo).val = (5 : Byte).toNat ∧
    ((255 : Byte).toNat = 255 ∧ (8 : Byte).toNat ≤ 8 ∧ ¬(9 : Byte).toNat ≤ 8) ∧
    (60 : Byte).toNat < (div (withGreat 0 base) 0).compass ∧ ¬(61 : Byte).toNat < (div (withGreat 0 base) 0).compass := by decide

/-! ### Witnesses: the temperature, the microphones and the follower -/

theorem witness_TempReadingTaken : Runs (at_ 10000 base) ∧ (at_ 10000 base).now.toNat % 10000 = 0 ∧
    (at_ 10000 base).marks.temp = false ∧ 16 ≤ (16 : BitVec 12).toNat ∧ (4079 : BitVec 12).toNat ≤ 4079 ∧ (15 : BitVec 12).toNat ≤ 15 ∧
    4080 ≤ (4080 : BitVec 12).toNat ∧ base.acoustic.sensorFault = false := ⟨rfl, by decide⟩
theorem witness_EnvelopeBlockHeard :
    (let s := at_ 2019 (setMic 0 (micFrom (some 100) 2010) base)
     Runs s ∧ (mic s 0).settings.enable = true ∧ (block 356).length = (mic s 0).settings.averaging ∧
     blockOk s.now 2010 (block 356) = true ∧ s.levelling.run = none ∧
     (mic s 0).floor = some 100 ∧ 100 + (mic s 0).settings.rise ≤ 356 ∧ ¬100 + (mic s 0).settings.rise ≤ 354 ∧
     (mic s 0).lastFiring = none ∧ s.front.onsets.length < 16) ∧ (mic (withMic none base) 0).floor = none :=
  ⟨⟨rfl, by decide⟩, rfl⟩
theorem witness_EnvelopeBlockHeard_turn :
    (let x := mic (at_ 2019 (setMic 0 (micFrom (some 100) 2010) base)) 0
     blockInTurn x 2019 2010 8 ∧ blockInTurn x 2018 2010 8 ∧ ¬blockInTurn x 2019 2011 8 ∧ ¬blockInTurn x 2017 2010 8) ∧
    (let x : Mic := { micOn none with blockFrom := 2010 }
     blockInTurn x 2021 2012 8 ∧ ¬blockInTurn x 2022 2013 8 ∧ ¬blockInTurn x 2018 2009 8) := by
  simp only [blockInTurn]; refine ⟨⟨?_, ?_, ?_, ?_⟩, ?_, ?_, ?_⟩ <;> decide
theorem witness_EnvelopeBlockHeard_times :
    (let s := at_ 2019 (setMic 0 { micOn (some 100) with lastFiring := some 510, gates := [⟨2010, 2410⟩] } base)
     diff s.now 510 < 2 ^ 30 ∧ (mic s 0).settings.minimumGap ≤ diff 2010 510 ∧ diff 2009 510 < (mic s 0).settings.minimumGap ∧
     (mic s 0).settings.policy = .gate ∧ atOrBefore 2010 2010 = true) ∧
    2 ^ 30 ≤ diff (BitVec.ofNat 32 (2 ^ 30)) 0 ∧
    16 ≤ ({ base with front := { base.front with onsets := List.replicate 16 ⟨0, 0, 300⟩ } } : State).front.onsets.length := by decide

/-- The first verse under way in FOLLOW or STEADY, with a cue at 48 and one at 96, and an onset observed at a time. -/
def heard (mode : FollowerMode) (tObs : Time) (cues : List Cue) : State :=
  let s := at_ 9000 (hymn .segment (some 0) mode)
  { s with front := { s.front with onsets := [⟨tObs, 0, 300⟩] }, follower := { s.follower with cues := cues, rejoinRun := 1 } }

/-- A cue of the first segment at position 48. -/
def cue (kind : CueKind) (state : CueState) : Cue := ⟨0, 1, 48, kind, state⟩

theorem witness_OnsetTaken :
    (let s := heard .follow 8000 [cue .normal .pending]
     Runs s ∧ s.front.onsets = [⟨8000, 0, 300⟩] ∧ runningPause s = none ∧ yielded s = false ∧ s.follower.mode = .follow ∧
     currentTime s 48 true = some 8000 ∧ (diff (addTu 8000 (-(travel s (mic s 0).settings.choirDistance : Int))) 8000).natAbs ≤
       windowFor s.follower.settings.win s.map.period .normal ∧ s.map.pauses = []) ∧
    (heard .lead 8000 []).follower.mode = .lead ∧
    windowFor 12 8000 .normal = 2000 ∧ (diff 10000 8000).natAbs ≤ 2000 ∧ ¬(diff 10001 8000).natAbs ≤ 2000 :=
  ⟨⟨rfl, by decide⟩, by decide⟩
theorem witness_OnsetTaken_cues :
    IsAwaited (heard .follow 8000 [cue .normal .pending]) (cue .normal .pending) ∧
    (cue .normal (.matched 7000 9500)).state ≠ .pending ∧
    (heard .steady 8000 []).follower.rejoinRun + 1 = (heard .steady 8000 []).follower.settings.rejoinCount ∧
    matchedCues (cue .normal .pending) 4000 8001 12 8000 [cue .normal .pending] = [cue .normal (.matched 4000 8000)].take 0 ∧
    matchedCues (cue .normal .pending) 4000 7999 12 8000 [cue .normal .pending] = [cue .normal (.matched 4000 8000)] :=
  ⟨⟨rfl, rfl⟩, by decide, rfl, by decide, by decide⟩
theorem witness_CuesLeave :
    (let s := at_ 10000 (heard .follow 0 [cue .reEntry .pending, ⟨0, 2, 60, .normal, .pending⟩])
     Runs s ∧ IsAwaited s (cue .reEntry .pending) ∧ currentTime s 48 true = some 8000 ∧
     atOrBefore (8000 + BitVec.ofNat 32 (windowFor s.follower.settings.win s.map.period .normal)) s.now = true ∧
     atOrBefore (8000 + BitVec.ofNat 32 (windowFor s.follower.settings.win s.map.period .reEntry)) s.now = false) ∧
    atOrBefore 9500 9500 = true := ⟨⟨rfl, ⟨rfl, rfl⟩, by decide⟩, rfl⟩

/-- The first verse with a pause at 48, in a state of the pause, at a time. -/
def paused (state : PauseState) (t : Time) : State := at_ t (setPauses [⟨0, 48, 48, state⟩] (hymn .segment (some 0) .follow))

theorem witness_PausesHold : Runs (paused .planned 8000) ∧ runningPause (paused .planned 8000) = none ∧
    currentTime (paused .planned 8000) 48 false = some 8000 ∧ atOrBefore 8000 (paused .planned 8000).now = true ∧
    currentTime (paused (.running 8000) 16000) 48 true = some 16000 ∧ atOrBefore 16000 (paused (.running 8000) 16000).now = true ∧
    (∃ g, currentSegment (paused (.running 8000) 16000) = some g ∧ g.follow = .follow) ∧
    IsAwaited (heard .fermata 0 []) (cue .normal .pending) :=
  ⟨rfl, by decide, by decide, by decide, by decide, by decide, ⟨_, rfl, rfl⟩, ⟨rfl, rfl⟩⟩

/-! ### Witnesses: segments, lines and the end of a hymn -/

/-- The hymn of `plan` in STARTING, to start at 10000. -/
def starting : State := { at_ 10000 (hymn .starting none .lead) with plan := { (hymn .starting none .lead).plan with startTime := some 10000 } }

theorem witness_SegmentStarts : Runs starting ∧ starting.plan.play = .starting ∧ nextIndex starting = some 0 ∧
    (nextSegment starting).isSome = true ∧ nextStart starting = some 10000 ∧ atOrBefore 10000 starting.now = true ∧
    (let s := at_ 24000 { hymn .rest (some 0) .lead with map := { (hymn .rest (some 0) .lead).map with anchor := some ⟨16000, 96⟩ } }
     nextIndex s = some 1 ∧ (nextSegment s).isSome = true ∧ nextStart s = some 24000 ∧ currentSegment s ≠ none ∧
     atOrBefore 24000 s.now = true) ∧ ({ ramp with delay := 0 } : Ramp).fromStep.getD 0 ≠ ramp.toStep :=
  ⟨rfl, by decide, by decide, by decide, by decide, by decide, by decide, by decide⟩
/-- A TEMPO that comes as the first segment's start time is reached does not move that time, so the start is no part of it and
stays an event of its own (R25, R206; log 8). In REST a TEMPO that moves T_next to the present starts the segment at once, before
its reply (R101). -/
theorem test_tempo_at_start :
    (let s := after (exec (.tempo 10000 7 (e16 6000)) starting)
     s.plan.play = .starting ∧ segmentStartDue s = true ∧ s.link.outgoing = [.reply 0x0E 7 .ok (e16 6000 ++ e16 1000)] ∧
     (after (exec (.segmentStart 10000) s)).plan.play = .segment) := by decide +kernel
theorem test_tempo_in_rest :
    (let r := hymn .rest (some 0) .lead
     let s := after (exec (.tempo 22000 7 (e16 6000)) { r with map := { r.map with anchor := some ⟨16000, 96⟩ } })
     s.plan.play = .segment ∧ s.link.outgoing.getLast? = some (.reply 0x0E 7 .ok (e16 6000 ++ e16 1000))) := by
  decide +kernel
theorem witness_SegmentStarts_cursor :
    (let s := { hymn .segment (some 0) .follow with expander := { (hymn .segment (some 0) .follow).expander with cursor := .after 0 } }
     (segmentAt s 1).isSome = true ∧ nextIndex s = some 1 ∧ ((segmentAt s 1).bind (firstEventOf s)).isSome = true ∧
     (cursorSegmentStart 0 s).expander.cursor = cursorAtStart s 1) ∧
    (let s := { hymn .segment (some 2) .follow with expander := { (hymn .segment (some 2) .follow).expander with cursor := .after 0 } }
     0 + 1 < 2 ∧ (cursorSegmentStart 2 s).expander.cursor = cursorAtStart s 2) := by decide
theorem witness_SegmentEnds :
    (let s := at_ 16000 (hymn .segment (some 0) .follow)
     Runs s ∧ s.map.pauses = [] ∧ (currentSegment s).map (·.sTo) = some 96 ∧ currentTime s 96 true = some 16000 ∧
     atOrBefore 16000 s.now = true ∧ (nextSegment s).map (·.restBefore) = some 1) ∧
    (nextSegment (hymn .segment (some 2) .follow)) = none ∧
    (let s := at_ 16000 { hymn .segment (some 0) .follow with
      plan := { (hymn .segment (some 0) .follow).plan with order := runningOrder { plan with verses := [record .follow 0] } tune } }
     (nextSegment s).map (·.restBefore) = some 0) ∧
    (let s := paused (.running 8000) 16000
     runningPause s = some ⟨0, 48, 48, .running 8000⟩ ∧ (∀ q ∈ s.map.pauses, q = ⟨0, 48, 48, .running 8000⟩) ∧
     currentTime s 48 true = some 16000 ∧ ∃ u, currentTime s 96 true = some u ∧ atOrBefore u 24000 = true) :=
  ⟨⟨rfl, by decide⟩, by decide, by decide, by decide, by decide, by decide, _, rfl, by decide⟩
theorem witness_LineAheadNotifies :
    (let s := hymn .segment (some 0) .follow
     (currentSegment s).map (fun g => (segmentLines s g).map (·.line.stop)) = some [96] ∧ s.plan.linesSent = [] ∧
     currentTime s 96 true = some 16000 ∧ addTu 16000 (-(s.follower.settings.lineLead * s.map.period : Nat)) = 0 ∧
     atOrBefore 0 s.now = true) ∧
    (let s := hymn .segment (some 2) .follow
     (currentSegment s).map (fun g => (g.kind, (segmentLines s g).map fun m => (m.number, m.line))) =
       some (.amen, [(1, ⟨96, 144, 2, 2⟩)]) ∧ tune.amen = some ⟨96, 144, 2, 2⟩) ∧
    (activeTune (hymn .segment (some 0) .follow) = some tune ∧ positionNow (at_ 16000 (hymn .segment (some 0) .follow)) = some 96 ∧
     currentLine (at_ 16000 (hymn .segment (some 0) .follow)) = some ⟨1, ⟨0, 96, 0, 1⟩⟩) := by decide
theorem witness_HymnCloses :
    (let s := { hymn .closing (some 2) .lead with expander := { base.expander with cursor := .after 2 } }
     Runs s ∧ s.plan.play = .closing ∧ s.queue = [] ∧ (∀ d k, (key s d k).holders = 0) ∧ s.plan.order.length ≤ 2 + 1 ∧
     s.plan.queued = false ∧ (queuedHymn s).plan.queued = true ∧ slot s plan.slot = .ready tune) :=
  ⟨rfl, rfl, rfl, by decide, by decide, rfl, rfl, rfl⟩

/-! ### Witnesses: ramps, expansion and the Dispatch Queue -/

theorem witness_RampsCount :
    (let s := at_ 200 (ramped .delay 47 0 base)
     Runs s ∧ s.plan.play = .idle ∧ s.now.toNat % 200 = 0 ∧ s.marks.idle = false ∧ (shutter s 1).running = .idle ∧
     47 + 1 = rampCount ramp .delay ∧ 0 < ramp.stepLength) ∧
    (shutter (readClock (ramped .delay 0 48 base)) 0).running = .active ramp .delay 0 ∧
    rampCount ramp .delay - 0 ≤ (shutter (readClock (ramped .delay 0 48 base)) 0).uncounted ∧
    (shutter (readClock (ramped (.run 99) 0 6 base)) 0).running = .active ramp (.run 99) 0 ∧ 99 ≠ ramp.toStep ∧
    (shutter (readClock (ramped .hold 95 1 base)) 0).running = .active ramp .hold 95 := ⟨⟨rfl, by decide⟩, by decide⟩

/-- A ramp that has ended with a hold of 0 leaves its slot at once to a queued ramp, which with a delay of 0 is at its own start
step (R171). -/
theorem test_queued_ramp_moves_up :
    rampAct 0 (setShutter 0 { position := 99, running := .active { ramp with hold := 0 } (.run 99) 5, queued := some { ramp with delay := 0 }
                              uncounted := 3 } base) =
      setShutter 0 { position := 40, running := .active { ramp with delay := 0 } (.run 40) 0, queued := none, uncounted := 2 } base := by
  decide +kernel

/-- The first verse under way with the Great, voice S of mode 0 on it, the cursor on an event and stops drawn. -/
def expanding (cursor : Cursor) (drawn : StopSet) : State :=
  let s := withGreat drawn (hymn .segment (some 0) .follow)
  { s with expander := { s.expander with
      cursor := cursor, voicing := s.expander.voicing.set 0 ⟨⟨some ⟨0, 0⟩, none⟩, ⟨none, none⟩, ⟨none, none⟩, ⟨none, none⟩, ⟨none, none⟩⟩ } }

theorem witness_ExpansionWrites :
    (let s := expanding (.at_ 0 1) 0
     Runs s ∧ s.expander.cursor = .at_ 0 1 ∧ (segmentAt s 0).isSome = true ∧
     (activeEvents s).drop 1 = note 48 48 true true true false :: [note 96 48 false false true true] ∧ yielded s = false ∧
     positionTime s 0 48 false = some 8000 ∧
     atOrBefore 8000 (s.now + BitVec.ofNat 32 s.follower.settings.horizon) = true ∧ s.queue.length + 26 ≤ 256 ∧
     s.follower.cues.length < 32 ∧ 8 < activeFactor s ∧ s.map.pauses.length < 4) ∧
    (List.replicate 230 (Entry.mk (.stopSet 0 0) 0 0 0)).length + 26 ≤ 256 ∧
    (let s := expanding (.at_ 1 0) 0
     (segmentAt s 0).isSome = true ∧ s.expander.firstDone = false ∧ (div s 0).present = true ∧
     positionTime s 1 0 false = some 24000) :=
  ⟨⟨rfl, by decide⟩, by simp only [List.length_replicate]; decide, by decide⟩

theorem witness_ExpansionWrites_late :
    (let s := at_ 8001 (expanding (.at_ 0 1) 0)
     Runs s ∧ positionTime s 0 48 false = some 8000 ∧ atOrBefore 8000 s.now = true ∧ (syncRamps s).plan.clockShown = 48) :=
  ⟨rfl, by decide⟩

/-- A KEY_ON of a voice and the KEY_OFF of its pair, on key 7 of the Great. -/
def on (voice : Voice) (issue : Time) : Entry := ⟨.keyOn 0 7 voice 3 none, 0, 0, issue⟩
def off (issue : Time) : Entry := ⟨.keyOff 0 7 .S 3 none, 0, 0, issue⟩

/-- The Great with key 7 as given, the stop of weight 8 drawn, and a queue. -/
def delivering (k : KeyRecord) (q : List Entry) : State := queued q (setKey 0 7 k (withGreat 1 base))

theorem no_defer {s : State} {rest : List Entry} {d : DivNo} {g : Nat} (h : (div s d).stopState = .settled)
    (q : ∀ y ∈ rest, ∀ r, y.action ≠ .stopSet d r) : ∀ x, ¬DeferBound s rest d g x := by
  rintro x (⟨k, -⟩ | ⟨y, m, ⟨r, k⟩, -⟩)
  · rw [h] at k; cases k
  · exact q y m r k

theorem witness_KeyOnDelivered :
    Runs (delivering (held 0) [on .S 0, off 1]) ∧ (delivering (held 0) [on .S 0, off 1]).queue = on .S 0 :: [off 1] ∧
    atOrBefore (on .S 0).issue (delivering (held 0) [on .S 0, off 1]).now = true ∧ atOrBefore (off 1).issue (on .S 0).issue = false ∧
    (∀ x, ¬DeferBound (delivering (held 0) [on .S 0, off 1]) [off 1] 0 0 x) ∧
    (let s := delivering (held 0) [on .A 0, off 1]
     (drivenCount s 0 + 1) * drawnWeight (div s 0) ≤ (div s 0).capacity - (div s 0).reserve) ∧
    isSound (held 0) ∧ isSound (held 9) ∧ ¬isSound { held 0 with fault := .shorted } ∧ 10 ≤ (held 10).holders ∧ (held 9).holders < 10 :=
  ⟨rfl, rfl, by decide, by decide, no_defer rfl (by rintro y (_ | ⟨_, ⟨⟩⟩) r h; cases h), by decide, .inl rfl, .inl rfl,
    (by rintro (h | h) <;> cases h), by decide, by decide⟩
theorem witness_KeyOnDelivered_wind :
    (let s := setDiv 0 { div (delivering (held 0) [on .S 0]) 0 with capacity := 7 } (delivering (held 0) [on .S 0])
     ¬(drivenCount s 0 + 1) * drawnWeight (div s 0) ≤ (div s 0).capacity ∧ (drivenCount s 0 + 1) * drawnWeight (div s 0) ≤ 8) := by
  decide
theorem witness_KeyOffDelivered :
    (let s := delivering (held 1) [off 0, on .S 1]
     Runs s ∧ s.queue = off 0 :: [on .S 1] ∧ atOrBefore (off 0).issue s.now = true ∧ atOrBefore (off 0).issue (on .S 0).issue = true ∧
     atOrBefore (off 1).issue (on .S 0).issue = false ∧ testDriven s 0 7 = false ∧ (key s 0 7).holders = 1) ∧
    (key (delivering (held 2) []) 0 7).holders = 2 ∧ (key (delivering (held 0) []) 0 7).holders = 0 := ⟨⟨rfl, by decide⟩, by decide⟩
theorem witness_KeyOffDelivered_pair : ∀ y ∈ ([] : List Entry), y.action.onPair = some 3 → atOrBefore (off 0).issue y.issue = false :=
  fun _ h => (nomatch h)
theorem witness_StopSetDelivered :
    (let s := delivering (held 1) [⟨.stopSet 0 2, 0, 0, 0⟩, off 5]
     Runs s ∧ s.queue = ⟨.stopSet 0 2, 0, 0, 0⟩ :: [off 5] ∧ (div s 0).drawn ≠ 2 ∧ (div s 0).drawn = 1 ∧
     (div s 0).stopState = .settled ∧ 1 ≤ (key s 0 7).holders) ∧ (∀ k, (key (withGreat 1 base) 0 k).holders = 0) ∧
    (let s := level (run .setup 0 []) (setDiv 0 { great with stopState := .changing 0 } base)
     Runs s ∧ (div s 0).stopState = .changing 0 ∧ atOrBefore 0 s.now = true ∧ s.levelling.run = some (run .setup 0 []) ∧
     (run .setup 0 []).division = 0 ∧ (run .done 0 []).phase = .done) := ⟨⟨rfl, by decide⟩, by decide, ⟨rfl, by decide⟩⟩
theorem witness_PairsClippedAndDeferred :
    (let s := delivering (held 0) [off 0, on .S 0]
     Runs s ∧ s.queue = off 0 :: [on .S 0] ∧ (on .S 0).action.onPair = some 3 ∧ (off 0).action.offPair = some 3 ∧
     atOrBefore (off 0).issue (on .S 0).issue = true) ∧
    DeferBound (setDiv 0 { great with stopState := .changing 1 } base) [] 0 0 1 ∧
    ¬DeferBound (setDiv 0 { great with stopState := .changing 0 } base) [] 0 0 0 ∧
    DeferBound (withGreat 0 base) [⟨.stopSet 0 2, 0, 0, 90⟩] 0 1 (90 + 1500) ∧ (diff (90 + 1500) base.now).natAbs < 2 ^ 30 :=
  ⟨⟨rfl, by decide⟩, .inl ⟨rfl, by decide⟩, (by
    rintro (⟨-, k⟩ | ⟨y, m, -⟩)
    · exact absurd k (by decide)
    · cases m), .inr ⟨_, .head _, ⟨_, rfl⟩, by decide, rfl⟩, by decide⟩

theorem witness_PairsClippedAndDeferred_place :
    (let s := queued [on .S 0, off 2, off 3, off 4] (setDiv 0 { great with stopState := .changing 3 } base)
     DeferBound s [off 2, off 3, off 4] 0 0 3 ∧ isBefore s.now 3 = true ∧ positionTime s 0 0 false = none ∧
     [off 2, off 3, off 4] = [off 2, off 3] ++ [off 4] ∧ (∀ y ∈ [off 2, off 3], isBefore 3 y.issue = false) ∧
     isBefore 3 (off 4).issue = true ∧ (∀ y ∈ s.queue.drop 1, atOrBefore y.issue (on .S 0).issue = false)) :=
  ⟨.inl ⟨rfl, by decide⟩, by decide⟩

/-- The Great changes stops until 3: a KEY_ON that falls due waits until then, after the entry of the same time, and is not
counted LATE (R133, R126; log 39). -/
theorem test_deferred_place :
    (let s := actOnHead (queued [on .S 0, off 2, off 3, off 4] (setDiv 0 { great with stopState := .changing 3 } base))
     s.queue = [off 2, off 3, ⟨.keyOn 0 7 .S 3 (some 3), 0, 0, 3⟩, off 4] ∧ s.counters.deferred = 1 ∧ s.counters.late = 0) := by
  decide +kernel

/-- An entry placed at or before the present by an insertion is counted LATE; one placed after it is not (R136). -/
theorem test_insertion_late :
    (let s := insertEntries [⟨.keyOn 0 7 .S 3 none, 0, 0, 9000⟩, ⟨.keyOff 0 7 .S 3 none, 0, 96, 9000⟩]
        (at_ 9000 (withGreat 1 (hymn .segment (some 0) .follow)))
     s.counters.late = 1 ∧ s.queue.map (fun e => atOrBefore e.issue s.now) = [true, false]) := by decide +kernel

/-! ### Witnesses: the coil monitor, levelling and the invariants -/

theorem witness_CoilScanFinds :
    (let s := at_ 10 (delivering { held 1 with openCount := 2 } [])
     Runs s ∧ s.now.toNat % 10 = 0 ∧ s.marks.scan = false ∧ driven s 0 7 = true ∧ driven s 0 8 = false ∧ (div s 0).present = true ∧
     min ((key s 0 7).openCount + 1) 8 = s.drivers.debounce ∧ (div s 1).present = false) ∧
    isSound { held 1 with fault := .openCoil } ∧
    (level (run .sounding 0 []) (withGreat 0 base)).levelling.run = some (run .sounding 0 []) :=
  ⟨⟨rfl, by decide⟩, .inr rfl, rfl⟩
theorem witness_LevelDeadlinesPass :
    (∀ p n, Runs (level (run p n []) base) ∧ (level (run p n []) base).levelling.run = some (run p n []) ∧
      (run p n []).deadline = some 0 ∧ atOrBefore 0 (level (run p n []) base).now = true) ∧
    (run .quietCheck 2 []).retry < 3 ∧ 3 ≤ (run .quietCheck 3 []).retry ∧ ({ run .sounding 3 [] with listening := true } : LevelRun).retry = 3 ∧
    ({ run .release 0 [1, 2, 3] with good := true } : LevelRun).measured.length < 4 :=
  ⟨fun _ _ => ⟨rfl, rfl, rfl, rfl⟩, by decide⟩

/-- The end of the last trial's release, with four values, on the Great. -/
def measured (xs : List Nat) : State := level { run .release 0 xs with good := true } (withGreat 1 base)

theorem witness_LevellingMeasures :
    Runs (measured [1395, 1402, 1388, 1588]) ∧ (run .release 0 [1395, 1402, 1388, 1588]).trials ≤ 4 ∧
    (∀ x ∈ [1395, 1402, 1388, 1588], 1388 ≤ x) ∧ (∀ x ∈ [1395, 1402, 1388, 1588], x ≤ 1588) ∧ 1588 - 1388 ≤ 200 ∧
    200 < 1589 - 1388 ∧ travel (measured []) (div (measured []) 0).micDistance[(0 : MicNo)] = 641 ∧
    641 ≤ roundNat [641, 641, 641, 641].sum 4 ∧ roundNat [3641, 3641, 3641, 3641].sum 4 ≤ 641 + 3000 ∧
    641 + 3000 < roundNat [3642, 3642, 3642, 3642].sum 4 := by
  exact ⟨rfl, by decide⟩
theorem witness_LevellingMeasures_blocks :
    (let s := at_ 1019 (level { run .quietCheck 0 [] with quietStart := some 10, deadline := some 20000 }
        (setMic 0 (micFrom (some 100) 1010) (withGreat 1 base)))
     Runs s ∧ (mic s 0).settings.enable = true ∧ (block 164).length = (mic s 0).settings.averaging ∧
     blockOk s.now 1010 (block 164) = true ∧ blockInTurn (mic s 0) s.now 1010 8 ∧
     (mic s 0).settings.fall < (mic s 0).settings.rise ∧ isBefore 1010 (addTu 20000 (-20000)) = false ∧
     164 ≤ 100 + (mic s 0).settings.fall ∧ 1000 ≤ diff 1010 10 ∧ diff 1009 10 < 1000 ∧
     (drivenCount s 0 + 1) * drawnWeight (div s 0) ≤ (div s 0).capacity) ∧
    isSound (key (withGreat 1 base) 0 0) ∧
    (∃ f : Nat, some 100 = some f ∧ f + 64 < 165) ∧ 100 + 256 ≤ 356 ∧ atOrBefore 1010 1010 = true :=
  ⟨⟨rfl, by decide, by decide, by decide, ⟨fun _ => rfl, fun h => (nomatch h), .inr (by decide)⟩, by decide⟩, .inl (by decide),
    ⟨100, rfl, by decide⟩, by decide⟩

theorem witness_LevellingMeasures_discarded :
    (let x := micFrom (some 100) 1010
     MakesOnset x 1019 1010 356 ∧ ¬MakesOnset x 1019 1010 355 ∧ atOrBefore 1011 1010 = false) ∧
    (run .release 0 []).phase ≠ .quietCheck ∧ isBefore 1010 (addTu 21011 (-20000)) = true := by
  refine ⟨⟨⟨100, rfl, rfl, by decide, fun _ h => (nomatch h)⟩, ?_, by decide⟩, by decide, by decide⟩
  rintro ⟨f, h, -, k, -⟩
  cases h
  exact absurd k (by decide)

/-- An onset that began before the opening is discarded, and listening goes on; the floor takes the value in (R183, R63). -/
theorem test_early_onset_discarded :
    (let r := { run .sounding 0 [] with listening := true, opening := some 1011 }
     let s := takeBlock 0 1010 (block 356) (at_ 1019 (level r (setMic 0 (micFrom (some 100) 1010) (withGreat 1 base))))
     s.levelling.run = some r ∧ s.front.onsets = [] ∧ (mic s 0).fired = true ∧ (mic s 0).lastFiring = some 1010) := by
  decide +kernel

/-- The part at reset, with a release of the reset in front: the state from which the invariants take a step. -/
def released : State := { State.reset with pending := [.resetRelease false false] }

theorem witness_step : ∃ s', step released = .next s' ∧ s'.rstHeld = false := ⟨_, rfl, rfl⟩
theorem witness_StepKeepsBounds : Bounded released := by constructor <;> decide
theorem witness_StepKeepsStore : StoreSound released :=
  have e : ∀ i, slot released i = .empty := by decide
  ⟨by decide, fun i _ _ k => (by rw [e i] at k; cases k), fun i _ k => (by rw [e i] at k; cases k)⟩
theorem witness_StepKeepsPlan : PlanSound released :=
  ⟨by decide, fun _ h => (nomatch h), fun h => (nomatch h)⟩
theorem witness_StepKeepsFollower : FollowSound released := by constructor <;> decide
theorem witness_StepKeepsOrgan : OrganSound released :=
  ⟨by decide, fun _ => by decide, fun h => (nomatch h), fun h => (nomatch h)⟩

end Sys2Proof.Tests
end

/-! PROOFS. TUNE_BEGIN, TUNE_DATA and TUNE_ERASE (chapter 1, R4 to R8 and R14): the store's tests read as the manual's
conditions, one equation for each branch of a handler, and the three statements assembled from them. -/

namespace Sys2Proof.Machine

/-! ### Fields of a body -/

theorem byteAt_lt (b : List Byte) (i : Nat) : byteAt b i < 256 := (b.getD i 0).isLt

theorem inRange_iff (x lo hi : Nat) : inRange x lo hi = true ↔ lo ≤ x ∧ x ≤ hi := by simp [inRange]

@[simp] theorem toFin_val {n : Nat} [NeZero n] (i : Fin n) : toFin n i.val = i := Fin.ofNat_val_eq_self i

theorem toFin_of_eq_val {n x : Nat} [NeZero n] {i : Fin n} (h : x = i.val) : toFin n x = i := by rw [h, toFin_val]

/-- A byte that equals a slot number passes the handlers' own check of the slot number. -/
theorem not_badSlot {x : Nat} {i : Fin 16} (h : x = i.val) : ¬15 < x := by have := i.isLt; omega

/-! ### Slots -/

/-- The store's own test of a slot says what R16 says. -/
theorem slotInUse_iff (s : State) (i : Fin 16) : slotInUse s i = true ↔ InUse s i := by
  simp [slotInUse, InUse, Option.any_eq_true]

theorem slotInUse_eq_false {s : State} {i : Fin 16} (h : ¬InUse s i) : slotInUse s i = false :=
  Bool.eq_false_iff.mpr fun k => h ((slotInUse_iff s i).mp k)

/-- The records that a slot reserves are the ones the store returns for it (R3). -/
theorem reserves_iff (x : Slot) (n : Nat) : Reserves x n ↔ n = x.reserved := by cases x <;> rfl

/-! ### Requests -/

/-- What a listening part answers, read off the handler's result for the state on arrival. -/
theorem request_of_handler {s u : State} {t : Time} {f : Frame} {lengthOk : Bool} {h : Handler} {x : Answer} (hs : Listens s)
    (hb : bodyFits f.body = true) (hl : lengthOk = true) (hx : h (arrive t s) = (u, x)) :
    request t f true lengthOk h s = .next (answer f.kind f.tag x.status x.fields u) := by
  rw [request_taken h hs hb rfl hl, hx]

theorem exec_tuneBegin {s u : State} {t : Time} {tag : Byte} {b : List Byte} {x : Answer} (hs : Listens s)
    (hb : b.length = 11) (hx : doTuneBegin b (arrive t s) = (u, x)) :
    exec (.tuneBegin t tag b) s = .next (answer 0x04 tag x.status x.fields u) :=
  request_of_handler (f := ⟨0x04, tag, b⟩) hs (by simp [bodyFits, hb, Config.maxBody]) (by simp [lengthAllowed, hb]) hx

theorem exec_tuneData {s u : State} {t : Time} {tag : Byte} {b : List Byte} {n : Nat} {x : Answer} (hs : Listens s)
    (h1 : 1 ≤ n) (h19 : n ≤ 19) (hb : b.length = 3 + 12 * n) (hx : doTuneData b (arrive t s) = (u, x)) :
    exec (.tuneData t tag b) s = .next (answer 0x05 tag x.status x.fields u) := by
  have fits : bodyFits b = true := by simp [bodyFits, hb, Config.maxBody]; omega
  have allowed : lengthAllowed 0x05 b = true := by simp [lengthAllowed, hb]; omega
  exact request_of_handler (f := ⟨0x05, tag, b⟩) hs fits allowed hx

theorem exec_tuneErase {s u : State} {t : Time} {tag sl : Byte} {x : Answer} (hs : Listens s)
    (hx : doTuneErase [sl] (arrive t s) = (u, x)) :
    exec (.tuneErase t tag [sl]) s = .next (answer 0x07 tag x.status x.fields u) :=
  request_of_handler (f := ⟨0x07, tag, [sl]⟩) hs rfl rfl hx

/-! ### TUNE_ERASE -/

theorem doTuneErase_badSlot {b : List Byte} (s : State) (h : 15 < byteAt b 0) :
    doTuneErase b s = (s, refuse .badField) := by simp [doTuneErase, h]

theorem doTuneErase_inUse {b : List Byte} {s : State} {i : Fin 16} (hi : byteAt b 0 = i.val) (hu : InUse s i) :
    doTuneErase b s = (s, refuse .inUse) := by
  simp [doTuneErase, not_badSlot hi, toFin_of_eq_val hi, (slotInUse_iff s i).mpr hu]

theorem doTuneErase_erased {b : List Byte} {s : State} {i : Fin 16} (hi : byteAt b 0 = i.val) (hu : ¬InUse s i) :
    doTuneErase b s =
      (setSlot i .empty (s.store.free + (slot s i).reserved) s, ok (e16 (s.store.free + (slot s i).reserved))) := by
  simp [doTuneErase, not_badSlot hi, toFin_of_eq_val hi, slotInUse_eq_false hu]

/-- Settles O16: one equation of TUNE_ERASE for each of R14's cases. -/
theorem tuneEraseFrees : Obligations.TuneEraseFrees := by
  rintro t tag sl s hs a rfl
  refine ⟨fun bad => exec_tuneErase hs (doTuneErase_badSlot _ bad), fun i own hi hown => ?_⟩
  obtain rfl := (reserves_iff _ _).mp hown
  exact ⟨fun used => exec_tuneErase hs (doTuneErase_inUse hi used), fun free => exec_tuneErase hs (doTuneErase_erased hi free)⟩

/-! ### TUNE_BEGIN -/

theorem TuneHeader.valid_iff (h : TuneHeader) : h.valid = true ↔
    2000 ≤ h.default ∧ h.default ≤ 20000 ∧ 2000 ≤ h.minimum ∧ h.minimum ≤ 20000 ∧ 2000 ≤ h.maximum ∧ h.maximum ≤ 20000 ∧
      h.minimum ≤ h.default ∧ h.default ≤ h.maximum ∧ 1 ≤ h.declared ∧ h.declared ≤ 512 := by
  simp [TuneHeader.valid, inRange_iff, and_assoc]

theorem doTuneBegin_badSlot {b : List Byte} (s : State) (h : 15 < byteAt b 0) :
    doTuneBegin b s = (s, refuse .badField) := by simp [doTuneBegin, h]

theorem doTuneBegin_badHeader {b : List Byte} (s : State) (h : ¬(headerOf b).valid = true) :
    doTuneBegin b s = (s, refuse .badField) := by simp [doTuneBegin, h]

section
variable {b : List Byte} {s : State} {i : Fin 16} (hi : byteAt b 0 = i.val) (hv : (headerOf b).valid = true)
include hi hv

theorem doTuneBegin_inUse (hu : InUse s i) : doTuneBegin b s = (s, refuse .inUse) := by
  simp [doTuneBegin, not_badSlot hi, toFin_of_eq_val hi, hv, (slotInUse_iff s i).mpr hu]

theorem doTuneBegin_noRoom (hu : ¬InUse s i) (hr : s.store.free + (slot s i).reserved < (headerOf b).declared) :
    doTuneBegin b s = (s, ⟨.noRoom, e16 (s.store.free + (slot s i).reserved)⟩) := by
  simp [doTuneBegin, not_badSlot hi, toFin_of_eq_val hi, hv, slotInUse_eq_false hu, hr]

theorem doTuneBegin_accepted (hu : ¬InUse s i) (hr : (headerOf b).declared ≤ s.store.free + (slot s i).reserved) :
    doTuneBegin b s =
      (setSlot i (.loading (headerOf b) []) (s.store.free + (slot s i).reserved - (headerOf b).declared) s,
        ok (e16 (s.store.free + (slot s i).reserved - (headerOf b).declared))) := by
  simp [doTuneBegin, not_badSlot hi, toFin_of_eq_val hi, hv, slotInUse_eq_false hu, Nat.not_lt.mpr hr]

end

/-- Settles O13: the header's ranges are those of R4, and each of R4's and R5's cases is one equation of TUNE_BEGIN. -/
theorem tuneBeginReserves : Obligations.TuneBeginReserves := by
  rintro t tag b s hs hb a rfl
  refine ⟨fun bad => exec_tuneBegin hs hb (doTuneBegin_badSlot _ bad), ?_⟩
  rintro i h own hi rfl hown ranges hranges
  obtain rfl := (reserves_iff _ _).mp hown
  have valid : (headerOf b).valid = true ↔ ranges := hranges ▸ TuneHeader.valid_iff (headerOf b)
  refine ⟨fun out => ?_, fun hin used => ?_, fun hin free small => ?_, fun hin free room => ?_⟩
  · exact exec_tuneBegin hs hb (doTuneBegin_badHeader _ (mt valid.mp out))
  · exact exec_tuneBegin hs hb (doTuneBegin_inUse hi (valid.mpr hin) used)
  · exact exec_tuneBegin hs hb (doTuneBegin_noRoom hi (valid.mpr hin) free small)
  · exact exec_tuneBegin hs hb (doTuneBegin_accepted hi (valid.mpr hin) free room)

/-! ### The events of a TUNE_DATA body -/

theorem pitchOk_iff (b : List Byte) (i : Nat) : pitchOk b i = true ↔ ¬(128 ≤ byteAt b i ∧ byteAt b i ≤ 254) := by
  have := byteAt_lt b i
  simp only [pitchOk, Bool.or_eq_true, decide_eq_true_eq, beq_iff_eq]
  omega

/-- The five pitch bytes of a record pass one by one. -/
theorem pitches_ok_iff (b : List Byte) (i : Nat) :
    (∀ v < 5, pitchOk b (i + 4 + v) = true) ↔ pitchOk b (i + 4) = true ∧ pitchOk b (i + 5) = true ∧
      pitchOk b (i + 6) = true ∧ pitchOk b (i + 7) = true ∧ pitchOk b (i + 8) = true := by
  refine ⟨fun h => ⟨h 0 (by decide), h 1 (by decide), h 2 (by decide), h 3 (by decide), h 4 (by decide)⟩, ?_⟩
  rintro ⟨h0, h1, h2, h3, h4⟩ v hv
  match v, hv with
  | 0, _ => exact h0
  | 1, _ => exact h1
  | 2, _ => exact h2
  | 3, _ => exact h3
  | 4, _ => exact h4

/-- The store's own test of an event record says what R7 says. -/
theorem eventOk_iff (b : List Byte) (i : Nat) : eventOk b i = true ↔ ¬eventFails b i := by
  have pitches : (∃ v, v < 5 ∧ 128 ≤ byteAt b (i + 4 + v) ∧ byteAt b (i + 4 + v) ≤ 254) ↔
      ¬∀ v < 5, pitchOk b (i + 4 + v) = true := by simp [pitchOk_iff]
  rw [eventFails, pitches, pitches_ok_iff]
  simp only [eventOk, Bool.and_eq_true, inRange_iff, decide_eq_true_eq]
  grind

theorem not_eventOk_iff (b : List Byte) (i : Nat) : (!eventOk b i) = true ↔ eventFails b i := by
  rw [Bool.not_eq_true', ← Bool.not_eq_true, eventOk_iff, Classical.not_not]

/-- A record that passes is read as the event it spells; the check matters for the voice number alone. -/
theorem eventAt_spells {b : List Byte} {i : Nat} (h : ¬eventFails b i) : spellsEvent b i (eventAt b i) := by
  have voice : byteAt b (i + 9) < 16 := by unfold eventFails at h; omega
  refine ⟨rfl, rfl, fun v => ?_, Nat.mod_eq_of_lt voice, rfl, rfl, rfl, rfl, rfl, fun v => ?_⟩
  · cases v <;> rfl
  · cases v <;> rfl

/-- The events of the first n records of a TUNE_DATA body. -/
def bodyEvents (b : List Byte) (n : Nat) : List Event := (List.range n).map fun j => eventAt b (3 + 12 * j)

@[simp] theorem bodyEvents_length (b : List Byte) (n : Nat) : (bodyEvents b n).length = n := by simp [bodyEvents]

theorem bodyEvents_spells {b : List Byte} {n j : Nat} {e : Event} (good : ∀ j, j < n → ¬eventFails b (3 + 12 * j))
    (h : (bodyEvents b n)[j]? = some e) : spellsEvent b (3 + 12 * j) e := by
  obtain ⟨hj, rfl⟩ := List.getElem?_eq_some_iff.mp h
  simpa [bodyEvents] using eventAt_spells (good j (by simpa using hj))

theorem eventCount_of_length {b : List Byte} {n : Nat} (h : b.length = 3 + 12 * n) : eventCount b = n := by
  unfold eventCount; omega

/-! ### TUNE_DATA -/

theorem doTuneData_badSlot {b : List Byte} (s : State) (h : 15 < byteAt b 0) :
    doTuneData b s = (s, refuse .badField) := by simp [doTuneData, h]

theorem doTuneData_notLoading {b : List Byte} {s : State} {i : Fin 16} (hi : byteAt b 0 = i.val)
    (hl : ∀ h es, slot s i ≠ .loading h es) : doTuneData b s = (s, refuse .notLoading) := by
  simp only [doTuneData, not_badSlot hi, toFin_of_eq_val hi, if_false]
  cases hx : slot s i with
  | empty => rfl
  | loading h es => exact absurd hx (hl h es)
  | ready x => rfl

section
variable {b : List Byte} {s : State} {i : Fin 16} {h : TuneHeader} {es : List Event} {n : Nat}
  (hi : byteAt b 0 = i.val) (hl : slot s i = .loading h es)
include hi hl

theorem doTuneData_sequence (hx : wordAt b 1 ≠ es.length) : doTuneData b s = (s, ⟨.sequence, e16 es.length⟩) := by
  simp [doTuneData, not_badSlot hi, toFin_of_eq_val hi, hl, hx]

variable (hb : b.length = 3 + 12 * n) (hx : wordAt b 1 = es.length)
include hb hx

/-- The records are examined in order, and the lowest failing one is reported (R7). -/
theorem doTuneData_badEvent {j : Nat} (hj : j < n) (bad : eventFails b (3 + 12 * j))
    (least : ∀ k, k < j → ¬eventFails b (3 + 12 * k)) : doTuneData b s = (s, ⟨.badField, e16 (wordAt b 1 + j)⟩) := by
  have found : ((List.range n).find? fun j => !eventOk b (3 + 12 * j)) = some j := by
    rw [List.find?_range_eq_some]
    exact ⟨(not_eventOk_iff b _).mpr bad, List.mem_range.mpr hj, fun k hk => by simpa [eventOk_iff] using least k hk⟩
  simp [doTuneData, not_badSlot hi, toFin_of_eq_val hi, hl, hx, eventCount_of_length hb, found]

variable (good : ∀ j, j < n → ¬eventFails b (3 + 12 * j))
include good

/-- With every record good, the declared count alone decides (R6, R8). -/
theorem doTuneData_good : doTuneData b s =
    if h.declared < es.length + n then (s, ⟨.noRoom, e16 es.length⟩)
    else (setSlot i (.loading h (es ++ bodyEvents b n)) s.store.free s, ok (e16 (es.length + n))) := by
  have none_found : ((List.range n).find? fun j => !eventOk b (3 + 12 * j)) = none := by
    rw [List.find?_range_eq_none]
    exact fun k hk => by simpa [eventOk_iff] using good k hk
  simp [doTuneData, not_badSlot hi, toFin_of_eq_val hi, hl, hx, eventCount_of_length hb, none_found, bodyEvents]

end

/-- Settles O14: one equation of TUNE_DATA for each check of R6 and R7, and the stored events are those the records spell. -/
theorem tuneDataStores : Obligations.TuneDataStores := by
  rintro t tag b n s hs h1 h19 hb a rfl
  refine ⟨fun bad => exec_tuneData hs h1 h19 hb (doTuneData_badSlot _ bad), fun i hi => ⟨fun hl => ?_, fun h es hl => ?_⟩⟩
  · exact exec_tuneData hs h1 h19 hb (doTuneData_notLoading hi hl)
  refine ⟨fun hx => ?_, fun j hx hj bad least => ?_, fun hx good full => ?_, fun hx good room => ?_⟩
  · exact exec_tuneData hs h1 h19 hb (doTuneData_sequence hi hl hx)
  · exact exec_tuneData hs h1 h19 hb (doTuneData_badEvent hi hl hb hx hj bad least)
  · exact exec_tuneData hs h1 h19 hb ((doTuneData_good hi hl hb hx good).trans (if_pos full))
  · exact ⟨bodyEvents b n, bodyEvents_length b n, fun _ _ => bodyEvents_spells good,
      exec_tuneData hs h1 h19 hb ((doTuneData_good hi hl hb hx good).trans (if_neg (Nat.not_lt.mpr room)))⟩

end Sys2Proof.Machine

/-! PROOFS. What each operation of the part can touch (the frame of the operation), said once for every operation, and the
way in which a property is carried from an operation to a step. -/

namespace Sys2Proof.Machine

-- The proofs are elaborated one after another, which keeps the whole text within its memory.
set_option Elab.async false

/-! ### The parts of the state -/

/-- The parts of the state, as finely as the invariants tell them apart. -/
inductive Part where
  | clock | outside | store | plan | order | current | pauses | map | mode | cues | follower | history | acoustic
  | mics | onsets | fallback | expander | queue | divisions | drivers | shutters | curves | run | last
  | yieldState | yielding | outgoing | lines | link | counters
deriving DecidableEq

/-- What a part holds. -/
def Part.View : Part → Type
  | .clock => Time × Marks
  | .outside => Bool × Bool × Nat × List Instr
  | .store => Store
  | .plan => Option Plan × Option Plan × Bool × PlayState
  | .order => List Segment × Option Time × Nat × Nat × List Nat × Bool
  | .current => Option Nat
  | .pauses => List Pause
  | .map => Option Anchor × Nat
  | .mode => FollowerMode × Nat × FollowSettings
  | .cues => List Cue
  | .follower => Nat × Option Nat × Bool × Option Nat
  | .history => List Int
  | .acoustic => Int × Bool
  | .mics => Vector Mic 4
  | .onsets => List Onset
  | .fallback => Int
  | .expander => Expander
  | .queue => List Entry
  | .divisions => Vector Division 6
  | .drivers => Vector (Vector StopSet 6) 8 × Nat
  | .shutters => Vector Shutter 6
  | .curves => Vector (Vector Nat 9) 5
  | .run => Option LevelRun
  | .last => Option LevelDone
  | .yieldState => YieldState
  | .yielding => Bool × Bool × CtFilter × Option RejoinPoint
  | .outgoing => List Message
  | .lines => List (Byte × Time) × List Byte
  | .link => BitVec 2 × Receiver × Option Frame × Bool
  | .counters => Counters

/-- A part of a state. -/
def Part.view (s : State) : (p : Part) → p.View
  | .clock => (s.now, s.marks)
  | .outside => (s.rstHeld, s.ct, s.choices, s.pending)
  | .store => s.store
  | .plan => (s.plan.staged, s.plan.active, s.plan.queued, s.plan.play)
  | .order => (s.plan.order, s.plan.startTime, s.plan.clockBase, s.plan.clockShown, s.plan.linesSent, s.plan.stopped)
  | .current => s.map.current
  | .pauses => s.map.pauses
  | .map => (s.map.anchor, s.map.period)
  | .mode => (s.follower.mode, s.follower.credit, s.follower.settings)
  | .cues => s.follower.cues
  | .follower => (s.follower.rejoinRun, s.follower.lastMatch, s.follower.owed, s.follower.lastPosted)
  | .history => s.acoustic.history
  | .acoustic => (s.acoustic.inUse, s.acoustic.sensorFault)
  | .mics => s.front.mics
  | .onsets => s.front.onsets
  | .fallback => s.front.fallback
  | .expander => s.expander
  | .queue => s.queue
  | .divisions => s.drivers.divisions
  | .drivers => (s.drivers.registrations, s.drivers.debounce)
  | .shutters => s.expression.shutters
  | .curves => s.expression.curves
  | .run => s.levelling.run
  | .last => s.levelling.last
  | .yieldState => s.yielding.state
  | .yielding => (s.yielding.pin, s.yielding.link, s.yielding.filter, s.yielding.rejoin)
  | .outgoing => s.link.outgoing
  | .lines => (s.link.rx, s.link.tx)
  | .link => (s.link.rate, s.link.receiver, s.link.waiting, s.link.lost)
  | .counters => s.counters

/-- From one state to the other nothing changes but some parts. -/
def Touches (ps : List Part) (s s' : State) : Prop := ∀ p, p ∉ ps → p.view s' = p.view s

/-- The state that holds given parts. -/
def ofViews (f : (p : Part) → p.View) : State :=
  { now := (f .clock).1
    rstHeld := (f .outside).1
    ct := (f .outside).2.1
    store := f .store
    plan := ⟨(f .plan).1, (f .plan).2.1, (f .plan).2.2.1, (f .order).1, (f .plan).2.2.2, (f .order).2.1, (f .order).2.2.1,
      (f .order).2.2.2.1, (f .order).2.2.2.2.1, (f .order).2.2.2.2.2⟩
    map := ⟨f .current, (f .map).1, (f .map).2, f .pauses⟩
    follower := ⟨(f .mode).1, (f .mode).2.1, (f .follower).1, (f .follower).2.1, (f .follower).2.2.1, (f .follower).2.2.2,
      f .cues, (f .mode).2.2⟩
    acoustic := ⟨f .history, (f .acoustic).1, (f .acoustic).2⟩
    front := ⟨f .mics, f .fallback, f .onsets⟩
    expander := f .expander
    queue := f .queue
    drivers := ⟨f .divisions, (f .drivers).1, (f .drivers).2⟩
    expression := ⟨f .shutters, f .curves⟩
    levelling := ⟨f .run, f .last⟩
    yielding := ⟨f .yieldState, (f .yielding).1, (f .yielding).2.1, (f .yielding).2.2.1, (f .yielding).2.2.2⟩
    link := ⟨(f .link).1, (f .lines).1, (f .link).2.1, (f .link).2.2.1, f .outgoing, (f .lines).2, (f .link).2.2.2⟩
    counters := f .counters
    marks := (f .clock).2
    choices := (f .outside).2.2.1
    pending := (f .outside).2.2.2 }

theorem ofViews_view (s : State) : ofViews (fun p => p.view s) = s := rfl

theorem view_ofViews (f : (p : Part) → p.View) (p : Part) : p.view (ofViews f) = f p := by cases p <;> rfl

/-- A state is what its parts hold. -/
theorem eq_of_views {s s' : State} (h : ∀ p : Part, p.view s' = p.view s) : s' = s := congrArg ofViews (funext h)

/-- The state that takes some parts from a second state and the others from a first one. -/
def merge (ps : List Part) (s s' : State) : State := ofViews fun p => if p ∈ ps then p.view s' else p.view s

/-- What an operation touches, as an equation: the later state is the earlier one with the touched parts taken over. -/
theorem touches_iff_merge {ps : List Part} {s s' : State} : Touches ps s s' ↔ s' = merge ps s s' := by
  constructor
  · intro h
    refine eq_of_views fun p => ?_
    rw [merge, view_ofViews]
    split
    · rfl
    · exact h p ‹_›
  · intro h p hp
    refine (congrArg p.view h).trans ?_
    rw [merge, view_ofViews, if_neg hp]

theorem Touches.of_merge {ps : List Part} {s s' : State} (h : s' = merge ps s s') : Touches ps s s' := touches_iff_merge.2 h

theorem Touches.refl (ps : List Part) (s : State) : Touches ps s s := fun _ _ => rfl

/-- What a first operation touches and what a second one touches, together. -/
theorem Touches.trans {ps qs rs : List Part} {s t u : State} (h : Touches ps s t) (k : Touches qs t u)
    (hp : ∀ p ∈ ps, p ∈ rs := by decide) (hq : ∀ q ∈ qs, q ∈ rs := by decide) : Touches rs s u :=
  fun p hn => (k p fun m => hn (hq p m)).trans (h p fun m => hn (hp p m))

/-- What a second operation touches after a first one. -/
theorem Touches.after {ps qs rs : List Part} {s t u : State} (k : Touches qs t u) (h : Touches ps s t)
    (hp : ∀ p ∈ ps, p ∈ rs := by decide) (hq : ∀ q ∈ qs, q ∈ rs := by decide) : Touches rs s u := h.trans k hp hq

theorem Touches.mono {ps qs : List Part} {s t : State} (h : Touches ps s t) (hp : ∀ p ∈ ps, p ∈ qs := by decide) :
    Touches qs s t := fun p hn => h p fun m => hn (hp p m)

theorem Touches.foldl {α : Type} {ps : List Part} {f : State → α → State} (h : ∀ s x, Touches ps s (f s x)) (xs : List α)
    (s : State) : Touches ps s (xs.foldl f s) := by
  induction xs generalizing s with
  | nil => exact .refl _ _
  | cons x xs ih => exact (h s x).trans (ih _) (fun _ m => m) (fun _ m => m)

/-- A choice between two outcomes touches what either touches. -/
theorem Touches.ite {ps : List Part} {s a b : State} {c : Prop} [Decidable c] (h : Touches ps s a) (k : Touches ps s b) :
    Touches ps s (if c then a else b) := by split <;> assumption

section
variable {ps : List Part} {s s' : State} (h : Touches ps s s')
include h

theorem Touches.store (k : Part.store ∉ ps := by decide) : s'.store = s.store :=
  h _ k
theorem Touches.staged (k : Part.plan ∉ ps := by decide) : s'.plan.staged = s.plan.staged :=
  congrArg (fun x : Part.View .plan => x.1) (h _ k)
theorem Touches.active (k : Part.plan ∉ ps := by decide) : s'.plan.active = s.plan.active :=
  congrArg (fun x : Part.View .plan => x.2.1) (h _ k)
theorem Touches.queued (k : Part.plan ∉ ps := by decide) : s'.plan.queued = s.plan.queued :=
  congrArg (fun x : Part.View .plan => x.2.2.1) (h _ k)
theorem Touches.play (k : Part.plan ∉ ps := by decide) : s'.plan.play = s.plan.play :=
  congrArg (fun x : Part.View .plan => x.2.2.2) (h _ k)
theorem Touches.current (k : Part.current ∉ ps := by decide) : s'.map.current = s.map.current :=
  h _ k
theorem Touches.pauses (k : Part.pauses ∉ ps := by decide) : s'.map.pauses = s.map.pauses :=
  h _ k
theorem Touches.mode (k : Part.mode ∉ ps := by decide) : s'.follower.mode = s.follower.mode :=
  congrArg (fun x : Part.View .mode => x.1) (h _ k)
theorem Touches.credit (k : Part.mode ∉ ps := by decide) : s'.follower.credit = s.follower.credit :=
  congrArg (fun x : Part.View .mode => x.2.1) (h _ k)
theorem Touches.settings (k : Part.mode ∉ ps := by decide) : s'.follower.settings = s.follower.settings :=
  congrArg (fun x : Part.View .mode => x.2.2) (h _ k)
theorem Touches.cues (k : Part.cues ∉ ps := by decide) : s'.follower.cues = s.follower.cues :=
  h _ k
theorem Touches.history (k : Part.history ∉ ps := by decide) : s'.acoustic.history = s.acoustic.history :=
  h _ k
theorem Touches.mics (k : Part.mics ∉ ps := by decide) : s'.front.mics = s.front.mics :=
  h _ k
theorem Touches.onsets (k : Part.onsets ∉ ps := by decide) : s'.front.onsets = s.front.onsets :=
  h _ k
theorem Touches.queue (k : Part.queue ∉ ps := by decide) : s'.queue = s.queue :=
  h _ k
theorem Touches.divisions (k : Part.divisions ∉ ps := by decide) : s'.drivers.divisions = s.drivers.divisions :=
  h _ k
theorem Touches.shutters (k : Part.shutters ∉ ps := by decide) : s'.expression.shutters = s.expression.shutters :=
  h _ k
theorem Touches.run (k : Part.run ∉ ps := by decide) : s'.levelling.run = s.levelling.run :=
  h _ k
theorem Touches.yieldState (k : Part.yieldState ∉ ps := by decide) : s'.yielding.state = s.yielding.state :=
  h _ k
theorem Touches.outgoing (k : Part.outgoing ∉ ps := by decide) : s'.link.outgoing = s.link.outgoing :=
  h _ k
theorem Touches.rx (k : Part.lines ∉ ps := by decide) : s'.link.rx = s.link.rx :=
  congrArg (fun x : Part.View .lines => x.1) (h _ k)
theorem Touches.tx (k : Part.lines ∉ ps := by decide) : s'.link.tx = s.link.tx :=
  congrArg (fun x : Part.View .lines => x.2) (h _ k)

end

end Sys2Proof.Machine

/-! PROOFS. The parts of the state that each operation touches, one lemma for each operation of the model. -/

namespace Sys2Proof.Machine

-- The proofs are elaborated one after another, which keeps the whole text within its memory.
set_option Elab.async false

/-! ### What each operation touches -/

theorem arrive_touches (t : Time) (s : State) : Touches [.clock] s (arrive t s) := by
  unfold arrive
  exact .ite (.of_merge rfl) (.refl _ _)

theorem notice_touches (n : Notice) (s : State) : Touches [.outgoing, .link] s (notice n s) := by
  unfold notice
  exact .ite (.of_merge rfl) (.of_merge rfl)

theorem foldl_notice_touches (ns : List Notice) (s : State) :
    Touches [.outgoing, .link] s (ns.foldl (fun s n => notice n s) s) := .foldl (fun s n => notice_touches n s) ns s

/-- The Acoustic Table. -/
theorem updateInUse_touches (s : State) : Touches [.acoustic] s (updateInUse s) := by
  unfold updateInUse
  exact .ite (.of_merge rfl) (.refl _ _)

theorem takeReading_touches (r : BitVec 12) (s : State) :
    Touches [.history, .acoustic, .outgoing, .link] s (takeReading r s) := by
  unfold takeReading
  refine .ite ((updateInUse_touches _).after (ps := [.history, .acoustic]) (.of_merge rfl)) (.ite (.refl _ _) ?_)
  exact (notice_touches _ _).after (ps := [.acoustic]) (.of_merge rfl)

/-- The Expression Unit. -/
theorem mapShutters_touches (f : DivNo → Shutter → Shutter) (s : State) : Touches [.shutters] s (mapShutters f s) := .of_merge rfl

theorem raiseClock_touches (v : Nat) (s : State) : Touches [.order, .shutters] s (raiseClock v s) := .of_merge rfl

theorem readClock_touches (s : State) : Touches [.order, .shutters] s (readClock s) := by
  unfold readClock
  exact .ite (.refl _ _) (raiseClock_touches _ _)

theorem countAll_touches (s : State) : Touches [.shutters] s (countAll s) := .of_merge rfl

theorem syncRamps_touches (s : State) : Touches [.order, .shutters] s (syncRamps s) :=
  (readClock_touches s).trans (countAll_touches _)

theorem startSegmentRamp_touches (g : Segment) (s : State) : Touches [.shutters] s (startSegmentRamp g s) := by
  unfold startSegmentRamp
  split
  · exact .refl _ _
  · exact .ite (.refl _ _) (mapShutters_touches _ _)

theorem rampAct_touches (d : DivNo) (s : State) : Touches [.order, .shutters] s (rampAct d s) := by
  unfold rampAct
  dsimp only
  split
  · exact (readClock_touches s).trans (qs := [.shutters]) (.of_merge rfl)
  · exact readClock_touches s

/-- The Listening Front End. -/
theorem reportOpening_touches (d : DivNo) (s : State) : Touches [.mics] s (reportOpening d s) := .of_merge rfl

theorem queueOnset_touches (o : Onset) (s : State) : Touches [.onsets, .counters] s (queueOnset o s) := by
  unfold queueOnset
  exact .ite (.of_merge rfl) (.of_merge rfl)

theorem routeOnset_touches (o : Onset) (s : State) : Touches [.onsets, .counters] s (routeOnset o s) := by
  unfold routeOnset
  exact .ite (.of_merge rfl) (queueOnset_touches o s)

/-- The Division Drivers. -/
theorem setDiv_touches (d : DivNo) (x : Division) (s : State) : Touches [.divisions] s (setDiv d x s) := .of_merge rfl

theorem mapDivisions_touches (f : DivNo → Division → Division) (s : State) :
    Touches [.divisions] s (mapDivisions f s) := .of_merge rfl

theorem releaseAll_touches (s : State) : Touches [.divisions] s (releaseAll s) := .of_merge rfl

theorem deliverKeyOn_touches (d : DivNo) (k : KeyNo) (v : Voice) (s : State) :
    Touches [.divisions, .mics, .counters] s (deliverKeyOn d k v s).1 := by
  unfold deliverKeyOn
  split <;> exact .of_merge rfl

theorem deliverKeyOff_touches (d : DivNo) (k : KeyNo) (s : State) : Touches [.divisions] s (deliverKeyOff d k s) := by
  unfold deliverKeyOff
  exact .ite (.refl _ _) (.ite (.of_merge rfl) (.of_merge rfl))

theorem stopChange_touches (d : DivNo) (r : StopSet) (s : State) : Touches [.divisions] s (stopChange d r s) := .of_merge rfl

theorem stopChanges_touches (want : DivNo → Option StopSet) (s : State) :
    Touches [.divisions] s (stopChanges want s) := by
  refine .foldl (fun s d => ?_) _ s
  split
  · exact stopChange_touches _ _ _
  · exact .refl _ _

/-- The Dispatch Queue. -/
theorem retime_touches (s : State) : Touches [.queue, .counters] s (retime s) := .of_merge rfl

theorem insertEntries_touches (new : List Entry) (s : State) : Touches [.queue, .counters] s (insertEntries new s) := .of_merge rfl

theorem removeReleases_touches (d : DivNo) (s : State) : Touches [.queue, .counters] s (removeReleases d s) := .of_merge rfl

theorem clipPair_touches (n : BitVec 16) (s : State) : Touches [.queue, .counters] s (clipPair n s) := by
  unfold clipPair
  exact .ite (.of_merge rfl) (.of_merge rfl)

theorem defer_touches (e : Entry) (d : DivNo) (k : KeyNo) (v : Voice) (n : BitVec 16) (nb : Time) (s : State) :
    Touches [.queue, .counters] s (defer e d k v n nb s) := .of_merge rfl

theorem deliverStopSet_touches (d : DivNo) (r : StopSet) (s : State) :
    Touches [.divisions, .queue, .counters] s (deliverStopSet d r s) := by
  unfold deliverStopSet
  exact .ite (.refl _ _) (.ite (.of_merge rfl) (.of_merge rfl))

theorem deliver_touches (e : Entry) (s : State) : Touches [.divisions, .mics, .queue, .counters] s (deliver e s) := by
  unfold deliver
  split
  · exact .ite ((deliverKeyOn_touches _ _ _ s).trans (qs := [.queue]) (.of_merge rfl)) (deliverKeyOn_touches _ _ _ s).mono
  · exact (deliverKeyOff_touches _ _ s).mono
  · exact (deliverStopSet_touches _ _ s).mono

theorem actOnHead_touches (s : State) : Touches [.divisions, .mics, .queue, .counters] s (actOnHead s) := by
  unfold actOnHead
  split
  · exact .refl _ _
  next e rest _ =>
  have popped : Touches [.queue] s { s with queue := rest } := .of_merge rfl
  dsimp only
  split
  · refine .ite (popped.trans (clipPair_touches _ _)) ?_
    split
    · exact popped.trans (defer_touches _ _ _ _ _ _ _)
    · exact popped.trans (deliver_touches _ _)
  · exact .ite (popped.trans (clipPair_touches _ _)) (popped.trans (deliver_touches _ _))
  · exact popped.trans (deliver_touches _ _)

/-- The Tempo Follower. -/
theorem setCues_touches (cs : List Cue) (s : State) : Touches [.cues] s (setCues cs s) := .of_merge rfl

theorem enterMode_touches (m : FollowerMode) (s : State) : Touches [.mode, .follower] s (enterMode m s) := .of_merge rfl

theorem removeMatched_touches (s : State) : Touches [.cues] s (removeMatched s) := by
  unfold removeMatched
  split
  · exact .of_merge rfl
  · exact .refl _ _

theorem postCue_touches (seg event pos : Nat) (mark : Bool) (s : State) :
    Touches [.cues, .follower] s (postCue seg event pos mark s) := .of_merge rfl

theorem reAnchor_touches (t : Time) (pos : Nat) (s : State) : Touches [.map, .pauses] s (reAnchor t pos s) := .of_merge rfl

theorem followStateNotice_touches (pos : Nat) (s : State) : Touches [.outgoing, .link] s (followStateNotice pos s) :=
  notice_touches _ _

theorem missCost_touches (c : Cue) (s : State) : Touches [.mode, .follower, .outgoing, .link] s (missCost c s) := by
  unfold missCost
  split
  · exact .ite ((followStateNotice_touches _ _).after (ps := [.mode, .follower]) (.of_merge rfl)) (.of_merge rfl)
  · exact .of_merge rfl
  · exact .refl _ _

theorem passKindOn_touches (a b : List Cue) (s : State) : Touches [.cues, .follower] s (passKindOn a b s) := by
  unfold passKindOn
  split <;> exact .of_merge rfl

theorem missCue_touches (p : Cue → Bool) (s : State) :
    Touches [.cues, .mode, .follower, .counters, .outgoing, .link] s (missCue p s) := by
  unfold missCue
  split
  · exact .refl _ _
  next a c b _ =>
  have missed : Touches [.cues, .mode, .follower, .counters, .outgoing, .link] s
      (missCost c (countMissed 1 (setCues (a ++ b) s))) :=
    (missCost_touches _ _).after (ps := [.cues, .counters]) (.of_merge rfl)
  dsimp only
  split
  · exact missed
  · exact missed.trans (passKindOn_touches _ _ _)

theorem passOver_touches (a b : List Cue) (s : State) :
    Touches [.cues, .mode, .follower, .counters, .outgoing, .link] s (passOver a b s) := by
  refine (setCues_touches _ s).trans (Touches.foldl (ps := [.mode, .follower, .counters, .outgoing, .link]) (fun s c => ?_) _ _)
  exact (missCost_touches _ _).after (ps := [.counters]) (.of_merge rfl)

theorem markMatched_touches (c : Cue) (tOn : Time) (s : State) : Touches [.cues] s (markMatched c tOn s) := by
  unfold markMatched
  exact .ite (.of_merge rfl) (.of_merge rfl)

theorem applyMatch_touches (c : Cue) (tOn : Time) (e : Int) (s : State) :
    Touches [.map, .pauses, .follower, .cues] s (applyMatch c tOn e s) :=
  (markMatched_touches _ _ _).after (ps := [.map, .pauses, .follower]) (.of_merge rfl)

theorem rejoinFollow_touches (pos : Nat) (s : State) :
    Touches [.mode, .follower, .outgoing, .link] s (rejoinFollow pos s) :=
  (followStateNotice_touches _ _).after (ps := [.mode, .follower]) (.of_merge rfl)

theorem takeMatch_touches (c : Cue) (tOn : Time) (e : Int) (s : State) :
    Touches [.map, .pauses, .mode, .follower, .cues, .outgoing, .link] s (takeMatch c tOn e s) := by
  unfold takeMatch
  split
  · exact .ite ((markMatched_touches _ _ _).after (ps := [.follower]) (.of_merge rfl))
      ((rejoinFollow_touches _ s).trans (applyMatch_touches _ _ _ _))
  · exact .refl _ _
  · exact .refl _ _
  · exact .refl _ _
  · exact (applyMatch_touches _ _ _ s).trans (qs := [.mode]) (.of_merge rfl)

theorem meetOnset_touches (tOn : Time) (s : State) :
    Touches [.map, .pauses, .mode, .follower, .cues, .counters, .outgoing, .link] s (meetOnset tOn s) := by
  unfold meetOnset
  refine .ite (.of_merge rfl) (.ite (.of_merge rfl) ?_)
  split
  · exact .of_merge rfl
  · exact (passOver_touches _ _ s).trans (takeMatch_touches _ _ _ _)

theorem takeOnset_touches (s : State) :
    Touches [.onsets, .map, .pauses, .mode, .follower, .cues, .counters, .outgoing, .link] s (takeOnset s) := by
  unfold takeOnset
  split
  · exact .refl _ _
  · exact (meetOnset_touches _ _).after (ps := [.onsets]) (.of_merge rfl)

theorem startPause_touches (p : Pause) (s : State) : Touches [.map, .pauses, .cues, .mode] s (startPause p s) := .of_merge rfl

theorem reEnterAfter_touches (pos : Nat) (s : State) : Touches [.cues, .follower] s (reEnterAfter pos s) := by
  unfold reEnterAfter
  split <;> exact .of_merge rfl

theorem endPause_touches (s : State) : Touches [.map, .pauses, .cues, .follower, .mode] s (endPause s) := by
  unfold endPause
  split
  · refine .ite (Touches.trans (ps := [.map, .pauses, .cues, .follower]) ?_ (qs := [.mode]) (.of_merge rfl)) ?_ <;>
      exact .ite ((reEnterAfter_touches _ _).after (ps := [.map, .pauses]) (.of_merge rfl)) (.of_merge rfl)
  · exact .refl _ _

theorem followerSegmentEnd_touches (g : Segment) (s : State) :
    Touches [.map, .pauses, .cues, .follower, .mode, .counters] s (followerSegmentEnd g s) := by
  unfold followerSegmentEnd
  dsimp only
  have left (v : State) : Touches [.cues, .follower, .mode, .counters] v
      (enterMode .lead (countMissed (pendingCount (v.follower.cues.filter (ofCurrent v)))
        (setCues (v.follower.cues.filter fun c => !ofCurrent v c) v))) := .of_merge rfl
  refine (left _).after (ps := [.map, .pauses, .cues, .follower, .mode]) ?_
  split
  · exact (endPause_touches s).trans (qs := [.map, .pauses]) (.of_merge rfl)
  · exact endPause_touches s

theorem followerSegmentStart_touches (i : Nat) (g : Segment) (t : Time) (s : State) :
    Touches [.current, .map, .pauses, .cues, .follower, .mode, .counters] s (followerSegmentStart i g t s) := .of_merge rfl

theorem followerOff_touches (s : State) : Touches [.current, .map, .pauses, .cues, .follower, .mode] s (followerOff s) :=
  .of_merge rfl

/-- The Key Expander. -/
theorem setCursor_touches (c : Cursor) (s : State) : Touches [.expander] s (setCursor c s) := .of_merge rfl

theorem advanceCursor_touches (s : State) : Touches [.expander] s (advanceCursor s) := by
  unfold advanceCursor
  split
  · exact .ite (.of_merge rfl) (.refl _ _)
  · exact .refl _ _
  · exact .refl _ _

theorem cursorSegmentStart_touches (i : Nat) (s : State) : Touches [.expander] s (cursorSegmentStart i s) :=
  (advanceCursor_touches _).after (ps := [.expander]) (.ite (setCursor_touches _ s) (.refl _ _))

theorem addPause_touches (r : Reading) (s : State) : Touches [.pauses] s (addPause r s) := by
  unfold addPause
  exact .ite (.refl _ _) (.of_merge rfl)

theorem expand_touches (r : Reading) (s : State) :
    Touches [.pauses, .cues, .follower, .counters, .queue, .expander] s (expand r s) := by
  have paused : Touches [.pauses] s (if makesPause s r then addPause r s else s) :=
    .ite (addPause_touches r s) (.refl _ _)
  have posted (s : State) (x : State → Bool) :
      Touches [.cues, .follower] s (if makesCue r then postCue r.index r.eventIndex r.event.pos (x s) s else s) :=
    .ite (postCue_touches _ _ _ _ s) (.refl _ _)
  have entered (s : State) (n : Nat) (new : List Entry) (q : List Entry) :
      Touches [.counters, .queue] s (insertEntries new { countNoDivision n s with queue := q }) := .of_merge rfl
  have moved (s : State) (x : Expander) : Touches [.expander] s { s with expander := x } := .of_merge rfl
  unfold expand
  dsimp only
  refine Touches.trans (ps := [.pauses, .cues, .follower, .counters, .queue, .expander]) ?_ (advanceCursor_touches _)
  refine (paused.trans (posted _ fun s => isRejoinEvent s r) (rs := [.pauses, .cues, .follower])).trans ?_
    (qs := [.counters, .queue, .expander])
  exact (moved _ _).after (entered _ _ _ _)

/-- The Levelling Unit. -/
theorem setRun_touches (r : Option LevelRun) (s : State) : Touches [.run] s (setRun r s) := .of_merge rfl

theorem reportLevel_touches (r : LevelRun) (o : LevelOutcome) (s : State) :
    Touches [.last, .outgoing, .link] s (reportLevel r o s) :=
  (notice_touches _ _).after (ps := [.last]) (.of_merge rfl)

theorem enterDone_touches (r : LevelRun) (o : LevelOutcome) (s : State) :
    Touches [.run, .last, .divisions, .outgoing, .link] s (enterDone r o s) :=
  (reportLevel_touches r o s).trans (qs := [.run, .divisions]) (.of_merge rfl)

theorem abortRun_touches (r : LevelRun) (c : AbortCause) (s : State) :
    Touches [.run, .last, .divisions, .outgoing, .link] s (abortRun r c s) := enterDone_touches _ _ _

theorem enterQuietCheck_touches (r : LevelRun) (s : State) : Touches [.run] s (enterQuietCheck r s) := .of_merge rfl

theorem enterSounding_touches (r : LevelRun) (s : State) :
    Touches [.run, .last, .divisions, .mics, .outgoing, .link] s (enterSounding r s) := by
  unfold enterSounding
  exact .ite (abortRun_touches _ _ s).mono (.ite (abortRun_touches _ _ s).mono (.of_merge rfl))

theorem quietValue_touches (x : Option Int) (t : Time) (n : Nat) (r : LevelRun) (s : State) :
    Touches [.run, .last, .divisions, .mics, .outgoing, .link] s (quietValue x t n r s) := by
  unfold quietValue
  refine .ite (.refl _ _) (.ite (.of_merge rfl) ?_)
  split
  · exact .of_merge rfl
  · exact .ite (enterSounding_touches r s) (.refl _ _)

theorem pipeOnset_touches (t : Time) (r : LevelRun) (s : State) : Touches [.run] s (pipeOnset t r s) := by
  unfold pipeOnset
  split
  · exact .refl _ _
  · exact .ite (.of_merge rfl) (.refl _ _)

theorem failNoisy_touches (r : LevelRun) (s : State) :
    Touches [.run, .last, .divisions, .outgoing, .link] s (failNoisy r s) := by
  unfold failNoisy
  exact .ite (.of_merge rfl) (enterDone_touches _ _ s)

theorem failNoSound_touches (r : LevelRun) (s : State) :
    Touches [.run, .last, .divisions, .outgoing, .link] s (failNoSound r s) := by
  unfold failNoSound
  exact .ite (.of_merge rfl) (enterDone_touches _ _ s)

theorem finishRun_touches (r : LevelRun) (s : State) :
    Touches [.run, .last, .divisions, .outgoing, .link, .queue, .counters] s (finishRun r s) := by
  refine Touches.trans (ps := [.divisions, .queue, .counters]) ?_ (enterDone_touches _ _ _)
  split
  · exact .refl _ _
  · exact .of_merge rfl
  · exact .of_merge rfl

theorem endRelease_touches (r : LevelRun) (s : State) :
    Touches [.run, .last, .divisions, .outgoing, .link, .queue, .counters] s (endRelease r s) := by
  unfold endRelease
  exact .ite (finishRun_touches r s) (.of_merge rfl)

/-- What acting on the run touches, where there is one. -/
theorem onRun_touches {ps : List Part} {f : LevelRun → State → State} (h : ∀ r s, Touches ps s (f r s)) (s : State) :
    Touches ps s (onRun f s) := by
  unfold onRun
  split
  · exact h _ s
  · exact .refl _ _

theorem levelChangeEnd_touches (d : DivNo) (s : State) : Touches [.run] s (levelChangeEnd d s) := by
  refine onRun_touches (fun r s => ?_) s
  split
  · split
    · exact enterQuietCheck_touches r s
    · exact setRun_touches none s
    all_goals exact .refl _ _
  · exact .refl _ _

theorem levelShorted_touches (s : State) : Touches [.run, .last, .divisions, .outgoing, .link] s (levelShorted s) :=
  onRun_touches (fun r s => .ite (abortRun_touches r .shorted s) (.refl _ _)) s

theorem levelYield_touches (s : State) : Touches [.run, .last, .outgoing, .link] s (levelYield s) :=
  onRun_touches (fun r s => Touches.trans (ps := [.last, .outgoing, .link])
    (.ite (.refl _ _) (reportLevel_touches r _ s)) (setRun_touches none _)) s

/-- The Console Yield Unit. -/
theorem setSource_touches (src : YieldSource) (b : Bool) (s : State) : Touches [.yielding] s (setSource src b s) := by
  unfold setSource
  split <;> exact .of_merge rfl

theorem grant_touches (src : YieldSource) (s : State) :
    Touches [.order, .shutters, .queue, .divisions, .cues, .follower, .yieldState, .yielding, .run, .last, .outgoing, .link] s
      (grant src s) := by
  have given (v : State) (y : YieldUnit) : Touches [.shutters, .queue, .divisions, .cues, .follower, .yieldState, .yielding] v
      (setYielding y (followerYield (idleRamps (mapDivisions (fun _ x => yieldDivision x) (flush v))))) := .of_merge rfl
  refine ((levelYield_touches _).trans (notice_touches _ _) (rs := [.run, .last, .outgoing, .link])).after ?_
    (ps := [.order, .shutters, .queue, .divisions, .cues, .follower, .yieldState, .yielding])
  exact (given _ _).after (syncRamps_touches s)

theorem sourcePresent_touches (src : YieldSource) (s : State) :
    Touches [.order, .shutters, .queue, .divisions, .cues, .follower, .yieldState, .yielding, .run, .last, .outgoing, .link] s
      (sourcePresent src s) := by
  unfold sourcePresent
  exact .ite (setSource_touches src true s).mono ((setSource_touches src true s).trans (grant_touches src _))

theorem enterRejoining_touches (p : RejoinPoint) (s : State) :
    Touches [.divisions, .yieldState, .yielding, .expander, .follower] s (enterRejoining p s) := by
  unfold enterRejoining
  refine .ite ?_ ?_ <;> exact (stopChanges_touches _ s).trans (qs := [.yieldState, .yielding, .expander, .follower]) (.of_merge rfl)

theorem awaitTest_touches (s : State) : Touches [.divisions, .yieldState, .yielding, .expander, .follower] s (awaitTest s) := by
  unfold awaitTest
  refine .ite ?_ (.refl _ _)
  split
  · exact enterRejoining_touches _ s
  · exact .refl _ _

theorem releaseYield_touches (s : State) : Touches [.yieldState, .yielding, .outgoing, .link] s (releaseYield s) :=
  (notice_touches _ _).after (ps := [.yieldState, .yielding]) (.of_merge rfl)

theorem rejoined_touches (s : State) : Touches [.yieldState, .yielding, .outgoing, .link] s (rejoined s) := by
  unfold rejoined
  split
  · exact (notice_touches _ _).after (ps := [.yieldState, .yielding]) (.of_merge rfl)
  · exact .refl _ _

/-- The Plan Unit. -/
theorem mapChanged_touches (s : State) :
    Touches [.queue, .counters, .divisions, .yieldState, .yielding, .expander, .follower] s (mapChanged s) :=
  (retime_touches s).trans (awaitTest_touches _)

theorem hymnStart_touches (p : Plan) (t : Tune) (s : State) :
    Touches [.plan, .order, .mode, .follower, .map, .divisions, .expander] s (hymnStart p t s) := by
  unfold hymnStart
  dsimp only
  refine Touches.trans (ps := [.plan, .order, .mode, .follower, .map, .divisions]) ?_ (setCursor_touches _ _)
  refine Touches.trans (ps := [.plan, .order, .mode, .follower, .map])
    (t := enterMode .lead (setMap { (startPlan p t s).map with period := initialPeriod p t } (startPlan p t s)))
    (.of_merge rfl) (qs := [.divisions]) ?_
  split
  · exact stopChanges_touches _ _
  · exact .refl _ _

theorem startQueued_touches (s : State) :
    Touches [.plan, .order, .mode, .follower, .map, .divisions, .expander] s (startQueued s) := by
  unfold startQueued
  refine .ite ?_ (.refl _ _)
  split
  · exact hymnStart_touches _ _ s
  · exact .refl _ _

theorem hymnOver_touches (reason : HymnEndReason) (s : State) :
    Touches [.plan, .order, .shutters, .queue, .current, .map, .pauses, .cues, .follower, .mode, .expander, .outgoing, .link] s
      (hymnOver reason s) := by
  have ended (v : State) (x : PlanUnit) :
      Touches [.plan, .order, .shutters, .queue, .current, .map, .pauses, .cues, .follower, .mode, .expander] v
        (setPlan x (setCursor .none (followerOff (idleRamps (flush v))))) := .of_merge rfl
  exact ((syncRamps_touches s).trans (ended _ _)
    (rs := [.plan, .order, .shutters, .queue, .current, .map, .pauses, .cues, .follower, .mode, .expander])).trans
    (notice_touches _ _)

theorem idleYield_touches (s : State) : Touches [.yieldState, .yielding, .outgoing, .link] s (idleYield s) := by
  unfold idleYield
  exact .ite (releaseYield_touches s) (.refl _ _)

theorem tearDown_touches (reason : HymnEndReason) (s : State) :
    Touches [.plan, .order, .shutters, .queue, .current, .map, .pauses, .cues, .follower, .mode, .expander, .divisions,
      .yieldState, .yielding, .outgoing, .link] s (tearDown reason s) :=
  ((releaseAll_touches s).trans (hymnOver_touches reason _)
    (rs := [.plan, .order, .shutters, .queue, .current, .map, .pauses, .cues, .follower, .mode, .expander, .divisions,
      .outgoing, .link])).trans (idleYield_touches _)

theorem closeHymn_touches (s : State) :
    Touches [.plan, .order, .shutters, .queue, .current, .map, .pauses, .cues, .follower, .mode, .expander, .divisions,
      .yieldState, .yielding, .outgoing, .link] s (closeHymn s) :=
  ((hymnOver_touches _ s).trans (idleYield_touches _)
    (rs := [.plan, .order, .shutters, .queue, .current, .map, .pauses, .cues, .follower, .mode, .expander, .yieldState,
      .yielding, .outgoing, .link])).trans (startQueued_touches _)

theorem sendLine_touches (s : State) (l : NumberedLine) : Touches [.order, .outgoing, .link] s (sendLine s l) :=
  (notice_touches _ _).after (ps := [.order]) (.of_merge rfl)

theorem sendNextLine_touches (s : State) : Touches [.order, .outgoing, .link] s (sendNextLine s) := by
  unfold sendNextLine
  split
  · exact sendLine_touches s _
  · exact .refl _ _

/-- What starts of segments touch. -/
def startParts : List Part :=
  [.plan, .order, .shutters, .current, .map, .pauses, .cues, .follower, .mode, .counters, .queue, .divisions, .yieldState,
    .yielding, .expander, .outgoing, .link]

theorem beginSegment_touches (i : Nat) (g : Segment) (t : Time) (s : State) : Touches startParts s (beginSegment i g t s) := by
  have counted : Touches [.order, .shutters] s (countAll (raiseClock (clockAtStart g s) s)) :=
    (raiseClock_touches _ s).trans (countAll_touches _)
  have placed (v : State) : Touches [.plan, .order, .current, .map, .pauses, .cues, .follower, .mode, .counters] v
      (setPlan { (followerSegmentStart i g t v).plan with
        play := .segment, startTime := none, clockBase := clockAtStart g s, linesSent := [] } (followerSegmentStart i g t v)) :=
    .of_merge rfl
  have told (v : State) : Touches [.order, .outgoing, .link] v ((dueLines v).foldl sendLine v) :=
    .foldl sendLine_touches _ v
  have moved (v : State) : Touches [.queue, .counters, .divisions, .yieldState, .yielding, .expander, .follower] v
      (mapChanged (cursorSegmentStart i v)) := (cursorSegmentStart_touches i v).trans (mapChanged_touches _)
  unfold beginSegment
  dsimp only
  refine Touches.trans (ps := startParts) ?_ (moved _) (rs := startParts)
  refine Touches.trans (ps := startParts) ?_ (told _)
  refine Touches.trans (ps := startParts) ?_ (notice_touches _ _)
  refine Touches.trans (ps := startParts) ?_ (startSegmentRamp_touches g _)
  exact counted.trans (placed _)

theorem startSegment_touches (s : State) : Touches startParts s (startSegment s) := by
  unfold startSegment
  split
  · exact beginSegment_touches _ _ _ s
  · exact .refl _ _

theorem afterSegment_touches (s : State) : Touches startParts s (afterSegment s) := by
  unfold afterSegment
  split
  · exact (mapChanged_touches _).after (ps := [.plan]) (.of_merge rfl)
  · exact .ite ((retime_touches s).trans (startSegment_touches _))
      ((mapChanged_touches _).after (ps := [.plan]) (.of_merge rfl))

theorem endSegment_touches (s : State) : Touches startParts s (endSegment s) := by
  unfold endSegment
  split
  · refine Touches.trans (ps := [.order, .shutters, .map, .pauses, .cues, .follower, .mode, .counters]) ?_ (afterSegment_touches _)
    exact ((raiseClock_touches _ s).trans (countAll_touches _) (rs := [.order, .shutters])).trans
      (followerSegmentEnd_touches _ _)
  · exact .refl _ _

theorem cutAt_touches (c e : Nat) (s : State) : Touches [.queue, .cues, .follower, .pauses, .expander] s (cutAt c e s) := by
  unfold cutAt
  exact .ite (.of_merge rfl) (.of_merge rfl)

theorem cutStarting_touches (s : State) : Touches [.queue, .cues, .follower, .pauses, .expander] s (cutStarting s) := .of_merge rfl

theorem leaveRejoining_touches (gone : RejoinPoint → Bool) (s : State) :
    Touches [.yieldState, .yielding, .outgoing, .link] s (leaveRejoining gone s) := by
  unfold leaveRejoining
  exact .ite (releaseYield_touches s) (.refl _ _)

theorem cutAway_touches (c e : Nat) (s : State) :
    Touches [.queue, .cues, .follower, .pauses, .expander, .yieldState, .yielding, .outgoing, .link] s (cutAway c e s) :=
  (cutAt_touches c e s).trans (leaveRejoining_touches _ _)

theorem stopAt_touches (c e : Nat) (s : State) :
    Touches [.order, .queue, .cues, .follower, .pauses, .expander, .yieldState, .yielding, .outgoing, .link] s (stopAt c e s) :=
  (cutAway_touches _ _ _).after (ps := [.order]) (.of_merge rfl)

theorem stopStarting_touches (s : State) :
    Touches [.plan, .order, .queue, .cues, .follower, .pauses, .expander, .yieldState, .yielding, .outgoing, .link] s
      (stopStarting s) :=
  Touches.trans (ps := [.plan, .order, .queue, .cues, .follower, .pauses, .expander])
    ((cutStarting_touches _).after (ps := [.plan, .order]) (.of_merge rfl)) (leaveRejoining_touches _ _)

/-- What cuts of the running order touch, with the map change that follows. -/
def cutParts : List Part :=
  [.plan, .order, .shutters, .queue, .counters, .cues, .follower, .pauses, .expander, .divisions, .yieldState, .yielding,
    .outgoing, .link]

theorem stopPart_touches (line : Bool) (s : State) : Touches cutParts s (stopPart line s) := by
  unfold stopPart
  dsimp only
  split
  · exact (syncRamps_touches s).trans ((stopAt_touches _ _ _).trans (mapChanged_touches _) (rs := cutParts))
  · refine (syncRamps_touches s).trans (Touches.trans (ps := cutParts) ?_ (mapChanged_touches _) (rs := cutParts))
    exact (stopAt_touches _ _ _).trans (qs := [.plan]) (.of_merge rfl)
  · exact (syncRamps_touches s).trans ((stopStarting_touches _).trans (mapChanged_touches _) (rs := cutParts))
  · exact (syncRamps_touches s).mono

theorem setVerses_touches (p : Plan) (order : List Segment) (s : State) : Touches cutParts s (setVerses p order s) := by
  have ordered (v : State) : Touches [.plan, .order] v (setPlan { v.plan with active := some p, order := order } v) :=
    .of_merge rfl
  have cut (b : Bool) (v : State) : Touches cutParts v (match b, v.map.current, currentSegment v with
      | true, some c, some g => cutAway c g.sTo v
      | _, _, _ => v) := by
    split
    · exact (cutAway_touches _ _ v).mono
    · exact .refl _ _
  have closed (v : State) (c : Prop) [Decidable c] : Touches [.plan] v (if c then setPlay .closing v else v) :=
    .ite (.of_merge rfl) (.refl _ _)
  unfold setVerses
  dsimp only
  refine Touches.trans (ps := cutParts) ?_ ((advanceCursor_touches _).trans (mapChanged_touches _)
    (rs := [.queue, .counters, .divisions, .yieldState, .yielding, .expander, .follower]))
  refine Touches.trans (ps := cutParts) ?_ (closed _ _)
  refine Touches.trans (ps := cutParts) ?_ (leaveRejoining_touches _ _)
  refine Touches.trans (ps := cutParts) ?_ (cut _ _)
  exact (syncRamps_touches s).trans (ordered _)

/-- What a hymn's end, its start and both touch. -/
def hymnParts : List Part :=
  [.plan, .order, .shutters, .queue, .current, .map, .pauses, .cues, .follower, .mode, .expander, .divisions, .yieldState,
    .yielding, .outgoing, .link]

theorem startStaged_touches (s : State) : Touches hymnParts s (startStaged s) := by
  unfold startStaged
  split
  · exact Touches.trans (ps := hymnParts) (.ite (.refl _ _) (tearDown_touches _ s)) (hymnStart_touches _ _ _)
  · exact .refl _ _

/-! ### What falls due at once -/

/-- What the waits of a moment can touch. -/
def waitParts : List Part :=
  [.plan, .order, .shutters, .current, .map, .pauses, .cues, .follower, .mode, .counters, .queue, .divisions, .mics,
    .yieldState, .yielding, .expander, .outgoing, .link]

theorem actPauseStart_touches (s : State) : Touches waitParts s (actPauseStart s) := by
  unfold actPauseStart
  split
  · exact ((syncRamps_touches s).trans (startPause_touches _ _) (rs := waitParts)).trans (mapChanged_touches _)
  · exact .refl _ _

theorem actPauseEnd_touches (s : State) : Touches waitParts s (actPauseEnd s) :=
  ((syncRamps_touches s).trans (endPause_touches _) (rs := waitParts)).trans (mapChanged_touches _)

theorem actOn_touches (w : Wait) (s : State) : Touches waitParts s (actOn w s) := by
  cases w with
  | entry => exact (actOnHead_touches s).mono
  | pauseEnd => exact actPauseEnd_touches s
  | pauseStart => exact actPauseStart_touches s
  | segmentEnd => exact (endSegment_touches s).mono
  | segmentStart => exact (startSegment_touches s).mono
  | cue c => exact (missCue_touches _ s).mono
  | rejoin => exact (rejoined_touches s).mono
  | line => exact (sendLine_touches s _).mono
  | close => exact (closeHymn_touches s).mono

/-- What `settle` can touch: what its waits touch, and the count of choices. -/
def settleParts : List Part := .outside :: waitParts

theorem settle_touches (before s : State) : Touches settleParts s (settle before s) :=
  settle_keeps (P := Touches settleParts s) (fun u h => h.trans (qs := [.outside]) (.of_merge rfl) (rs := settleParts))
    (fun w u h => h.trans (actOn_touches w u)) before (.refl _ _)

end Sys2Proof.Machine

/-! PROOFS. The parts of the state that each event, each request and each step touches. -/

namespace Sys2Proof.Machine

-- The proofs are elaborated one after another, which keeps the whole text within its memory.
set_option Elab.async false

/-! ### What each event and each request touches -/

theorem retime_settle_touches (before s : State) : Touches settleParts s (settle before (retime s)) :=
  (settle_touches before _).after (retime_touches s)

theorem afterLeads_touches (before s : State) : Touches settleParts s (afterLeads before s) := by
  unfold afterLeads
  exact .ite (retime_settle_touches before s) (.refl _ _)

theorem closeIfHeld_touches (s : State) : Touches hymnParts s (closeIfHeld s) := by
  unfold closeIfHeld
  exact .ite (closeHymn_touches s).mono (.refl _ _)

/-- What a change of a yield source touches. -/
def sourceParts : List Part := [.run, .last] ++ hymnParts

theorem claim_touches (src : YieldSource) (s : State) : Touches sourceParts s (claim src s) :=
  (closeIfHeld_touches _).after (sourcePresent_touches src s)

theorem sourceAbsent_touches (src : YieldSource) (s : State) : Touches sourceParts s (sourceAbsent src s) := by
  unfold sourceAbsent
  have gone := setSource_touches src false s
  refine .ite (.ite ?_ ((awaitTest_touches _).after gone)) gone.mono
  exact ((startQueued_touches _).after (releaseYield_touches _) (rs := sourceParts)).after gone

theorem headAtOnce_touches (s : State) : Touches settleParts s (headAtOnce s) := by
  unfold headAtOnce
  exact .ite ((settle_touches s _).after (actOnHead_touches s))
    ((closeIfHeld_touches _).after (actOnHead_touches s))

theorem onsetAtOnce_touches (s : State) : Touches (.onsets :: settleParts) s (onsetAtOnce s) := by
  have taken : Touches (.onsets :: settleParts) s (takeOnset (syncRamps s)) :=
    (takeOnset_touches _).after (syncRamps_touches s)
  unfold onsetAtOnce
  refine .ite taken (Touches.after (qs := settleParts) ?_ taken)
  exact (settle_touches s _).after (mapChanged_touches _)

theorem expandAtOnce_touches (s : State) : Touches settleParts s (expandAtOnce s) := by
  unfold expandAtOnce
  split
  · exact ((settle_touches s _).after (expand_touches _ _) (rs := settleParts)).after (syncRamps_touches s)
  · exact .refl _ _

theorem takeBlock_touches (m : MicNo) (first : Time) (samples : List (BitVec 12)) (s : State) :
    Touches [.mics, .onsets, .counters, .run, .last, .divisions, .outgoing, .link] s (takeBlock m first samples s) := by
  unfold takeBlock
  dsimp only
  have heard (x : Mic) : Touches [.mics] s (setMic m x s) := .of_merge rfl
  refine .ite ?_ ?_
  · cases onsetOf s.now m (envelopeOf samples) first (mic s m) with
    | none => exact (onRun_touches (fun r u => quietValue_touches _ _ _ r u) _).after (heard _)
    | some o =>
      have piped (v : State) : Touches [.run] v (onRun (pipeOnset o.tObs) v) := onRun_touches (pipeOnset_touches _) v
      exact (piped _).after ((onRun_touches (fun r u => quietValue_touches _ _ _ r u) _).after (heard _)
        (rs := [.mics, .run, .last, .divisions, .outgoing, .link]))
  · cases onsetOf s.now m (envelopeOf samples) first (mic s m) with
    | none => exact (heard _).mono
    | some o => exact (routeOnset_touches o _).after (heard _)

theorem scanCoils_touches (r : CoilReadings) (s : State) :
    Touches [.clock, .divisions, .run, .last, .outgoing, .link] s (scanCoils r s) := by
  have scanned : Touches [.clock, .divisions] s (scanAll r { s with marks := { s.marks with scan := true } }) := .of_merge rfl
  exact (levelShorted_touches _).after ((foldl_notice_touches (faultNotices r s) _).after scanned
    (rs := [.clock, .divisions, .outgoing, .link]))

theorem receiverStep_touches (b : Byte) (t : Time) (s : State) : Touches [.link, .counters] s (receiverStep b t s) := by
  unfold receiverStep
  split
  · exact .ite (.of_merge rfl) (.refl _ _)
  · exact .ite (.of_merge rfl) (.of_merge rfl)
  · exact .of_merge rfl
  · exact .of_merge rfl
  · exact .of_merge rfl
  · exact .of_merge rfl
  · exact .ite (.of_merge rfl) (.of_merge rfl)

theorem takeByte_touches (s : State) : Touches [.lines, .link, .counters] s (takeByte s) := by
  unfold takeByte
  split
  · exact .refl _ _
  · exact (receiverStep_touches _ _ _).after (ps := [.lines, .link, .counters]) (.ite (.of_merge rfl) (.of_merge rfl))

theorem receive_touches (b : Byte) (s : State) : Touches [.lines, .counters] s (receive b s) := by
  unfold receive
  exact .ite (.of_merge rfl) (.of_merge rfl)

theorem sendMessage_touches (s : State) : Touches [.lines, .outgoing] s (sendMessage s) := by
  unfold sendMessage
  split
  · exact .of_merge rfl
  · exact .refl _ _

/-- Every handler of a tune request touches the store alone. -/
theorem doTuneBegin_touches (b : List Byte) (s : State) : Touches [.store] s (doTuneBegin b s).1 := by
  unfold doTuneBegin
  dsimp only
  split
  · exact .refl _ _
  · split
    · exact .refl _ _
    · split
      · exact .refl _ _
      · split
        · exact .refl _ _
        · exact .of_merge rfl

theorem doTuneData_touches (b : List Byte) (s : State) : Touches [.store] s (doTuneData b s).1 := by
  unfold doTuneData
  dsimp only
  split
  · exact .refl _ _
  split
  · split
    · exact .refl _ _
    · split
      · exact .refl _ _
      · split
        · exact .refl _ _
        · exact .of_merge rfl
  · exact .refl _ _
  · exact .refl _ _

theorem doTuneEnd_touches (b : List Byte) (s : State) : Touches [.store] s (doTuneEnd b s).1 := by
  unfold doTuneEnd
  dsimp only
  split
  · exact .refl _ _
  split
  · split <;> exact .of_merge rfl
  · exact .refl _ _
  · exact .refl _ _

theorem doTuneErase_touches (b : List Byte) (s : State) : Touches [.store] s (doTuneErase b s).1 := by
  unfold doTuneErase
  dsimp only
  split
  · exact .refl _ _
  · split
    · exact .refl _ _
    · exact .of_merge rfl

theorem doTuneRead_touches (b : List Byte) (s : State) : Touches [] s (doTuneRead b s).1 := by
  unfold doTuneRead
  dsimp only
  split <;> exact .refl _ _

theorem doPlanSet_touches (b : List Byte) (s : State) : Touches [.plan] s (doPlanSet b s).1 := by
  unfold doPlanSet
  split
  · exact .refl _ _
  · split
    · exact .refl _ _
    · exact .of_merge rfl

theorem doPlanCancel_touches (s : State) : Touches [.plan] s (doPlanCancel s).1 := by
  unfold doPlanCancel
  split
  · exact .of_merge rfl
  · split
    · exact .of_merge rfl
    · exact .refl _ _

theorem doPlanStartNow_touches (b : List Byte) (s : State) : Touches hymnParts s (doPlanStartNow b s).1 := by
  unfold doPlanStartNow
  split
  · exact .refl _ _
  · split
    · exact .refl _ _
    · exact startStaged_touches s

theorem doPlanStartNext_touches (s : State) : Touches hymnParts s (doPlanStartNext s).1 := by
  unfold doPlanStartNext
  split
  · exact .refl _ _
  · split
    · exact startStaged_touches s
    · exact .of_merge rfl

theorem doStopNow_touches (b : List Byte) (s : State) : Touches sourceParts s (doStopNow b s).1 := by
  have idled : Touches [.shutters] s (idleRamps s) := .of_merge rfl
  unfold doStopNow
  split
  · exact .refl _ _
  · split
    · split
      · exact .refl _ _
      · exact .ite idled.mono ((abortRun_touches _ _ _).after idled)
    · exact (tearDown_touches _ _).after (ps := [.plan]) (.of_merge rfl)

theorem doStopPart_touches (line : Bool) (s : State) : Touches cutParts s (doStopPart line s).1 := by
  unfold doStopPart
  split
  · exact .refl _ _
  · exact .refl _ _
  all_goals exact stopPart_touches line s

theorem stopPartAtOnce_touches (line : Bool) (s : State) : Touches settleParts s (stopPartAtOnce line s).1 := by
  unfold stopPartAtOnce
  split
  · exact (doStopPart_touches line s).mono
  · exact (settle_touches s _).after (doStopPart_touches line s)

theorem doVerses_touches (b : List Byte) (s : State) : Touches cutParts s (doVerses b s).1 := by
  unfold doVerses
  dsimp only
  split
  · exact .refl _ _
  · split
    · exact .refl _ _
    · split
      · exact .refl _ _
      · split
        · exact setVerses_touches _ _ s
        · exact .refl _ _

theorem versesAtOnce_touches (b : List Byte) (s : State) : Touches settleParts s (versesAtOnce b s).1 := by
  unfold versesAtOnce
  split
  · exact (settle_touches s _).after (doVerses_touches b s)
  · exact (doVerses_touches b s).mono

theorem tempoAnchor_touches (s : State) : Touches [.map, .pauses] s (tempoAnchor s) := by
  unfold tempoAnchor
  refine .ite ?_ (.refl _ _)
  split
  · exact reAnchor_touches _ _ s
  · exact .refl _ _

theorem setTempo_touches (period : Nat) (s : State) :
    Touches [.order, .shutters, .map, .pauses, .follower] s (setTempo period s) := by
  have written (v : State) (n : Nat) : Touches [.map, .follower] v
      { v with map := { v.map with period := n }, follower := { v.follower with lastMatch := none } } := .of_merge rfl
  exact (written _ _).after ((tempoAnchor_touches _).after (syncRamps_touches s) (rs := [.order, .shutters, .map, .pauses]))

theorem doTempo_touches (b : List Byte) (s : State) : Touches settleParts s (doTempo b s).1 := by
  unfold doTempo
  split
  · exact .refl _ _
  · split
    · exact .refl _ _
    · exact ((settle_touches s _).after (mapChanged_touches _) (rs := settleParts)).after (setTempo_touches _ s)

/-- A request that may be refused with nothing changed touches what its acceptance touches. -/
theorem guarded_touches {ps : List Part} {accept : Handler} (checks : List (Nat × Bool)) (s : State)
    (h : Touches ps s (accept s).1) : Touches ps s (guarded checks accept s).1 := by
  unfold guarded
  split
  · exact .refl _ _
  · split
    · exact .refl _ _
    · exact h

theorem checked_touches {ps : List Part} {accept : Handler} (checks : List (Nat × Bool)) (s : State)
    (h : Touches ps s (accept s).1) : Touches ps s (checked checks accept s).1 := by
  unfold checked
  split
  · exact .refl _ _
  · exact h

theorem doFollowSet_touches (b : List Byte) (s : State) : Touches [.mode] s (doFollowSet b s).1 :=
  guarded_touches _ s (.of_merge rfl)

theorem doMicSet_touches (b : List Byte) (s : State) :
    Touches ([.fallback, .acoustic] ++ settleParts) s (doMicSet b s).1 :=
  guarded_touches _ s ((afterLeads_touches s _).after
    ((updateInUse_touches _).after (ps := [.mics, .fallback]) (.of_merge rfl) (rs := [.mics, .fallback, .acoustic])))

theorem writeDivision_touches (d : DivNo) (x : Division) (s : State) :
    Touches [.divisions, .shutters] s (writeDivision d x s) := by
  unfold writeDivision
  exact .ite (.of_merge rfl) (.of_merge rfl)

theorem doDivisionSet_touches (b : List Byte) (s : State) : Touches settleParts s (doDivisionSet b s).1 :=
  guarded_touches _ s ((afterLeads_touches s _).after (writeDivision_touches _ _ s))

theorem doStopsSet_touches (b : List Byte) (s : State) : Touches [.divisions] s (doStopsSet b s).1 :=
  guarded_touches _ s (.of_merge rfl)

theorem doRegistrationSet_touches (b : List Byte) (s : State) : Touches [.drivers] s (doRegistrationSet b s).1 := by
  unfold doRegistrationSet
  split
  · exact .refl _ _
  · exact .of_merge rfl

theorem doVoicingSet_touches (b : List Byte) (s : State) : Touches [.expander] s (doVoicingSet b s).1 :=
  checked_touches _ s (.of_merge rfl)

theorem doCurveSet_touches (b : List Byte) (s : State) : Touches [.order, .shutters, .curves] s (doCurveSet b s).1 :=
  checked_touches _ s ((syncRamps_touches s).trans (qs := [.curves]) (.of_merge rfl))

theorem doExpress_touches (b : List Byte) (place : Expression → Ramp → Shutter → Shutter) (s : State) :
    Touches [.order, .shutters] s (doExpress b place s).1 := by
  unfold doExpress
  split
  · exact .refl _ _
  · exact (syncRamps_touches s).trans (qs := [.shutters]) (.of_merge rfl)

theorem doFaultClear_touches (b : List Byte) (s : State) : Touches [.divisions, .drivers] s (doFaultClear b s).1 := by
  unfold doFaultClear
  split
  · exact .refl _ _
  · exact .of_merge rfl

theorem doLevel_touches (b : List Byte) (s : State) : Touches [.run, .divisions] s (doLevel b s).1 := by
  unfold doLevel
  split
  · exact .refl _ _
  · split
    · exact .refl _ _
    · split
      · exact .refl _ _
      · exact .of_merge rfl

theorem doTableRead_touches (b : List Byte) (s : State) : Touches [] s (doTableRead b s).1 := by
  unfold doTableRead
  split <;> exact .refl _ _

/-- What a quiet reset touches. -/
def quietParts : List Part :=
  [.order, .shutters, .store, .current, .map, .pauses, .cues, .follower, .mode, .divisions, .plan, .mics, .onsets, .expander,
    .queue, .run, .yieldState, .yielding, .counters]

theorem quietReset_touches (s : State) : Touches quietParts s (quietReset s) := by
  have stored (v : State) : Touches [.store] v (quietStore v) := .of_merge rfl
  have followed (v : State) : Touches [.current, .map, .pauses, .cues, .follower, .mode] v (quietFollower v) := .of_merge rfl
  have cleared (v : State) : Touches quietParts v { v with
      plan := .powerOn, front := quietFront v.now v.front, expander := quietExpander v.expander, queue := []
      levelling := { v.levelling with run := none }, yielding := { YieldUnit.powerOn with filter := filterStart v }
      counters := v.counters.playCleared } := .of_merge rfl
  refine (cleared _).after (ps := quietParts) ?_
  refine ((mapDivisions_touches _ _).after (followed _) (rs := quietParts)).after (ps := quietParts) ?_
  exact (stored _).after ((mapShutters_touches _ _).after (syncRamps_touches s) (rs := [.order, .shutters]))

/-! ### What a command touches -/

/-- What a request touches beside what its block touches: the counter as it arrives, the waiting frame and the reply. -/
def requestParts : List Part := [.clock, .link, .outgoing]

/-- The parts that a command can touch; a reset touches every part. -/
def partsOf : Instr → List Part
  | .resetAssert | .resetRelease _ _ =>
    [.clock, .outside, .store, .plan, .order, .current, .pauses, .map, .mode, .cues, .follower, .history, .acoustic, .mics,
      .onsets, .fallback, .expander, .queue, .divisions, .drivers, .shutters, .curves, .run, .last, .yieldState, .yielding,
      .outgoing, .lines, .link, .counters]
  | .rxdByte _ _ => [.clock, .lines, .counters]
  | .receiverByte _ => [.clock, .lines, .link, .counters]
  | .frameGap _ => [.clock, .link, .counters]
  | .transmitMessage _ => [.clock, .lines, .outgoing]
  | .transmitByteEnd _ => [.clock, .lines]
  | .badKind _ _ _ _ | .status _ _ _ | .tuneRead _ _ _ | .tableRead _ _ _ => requestParts
  | .counters _ _ _ => .counters :: requestParts
  | .quietReset _ _ _ => quietParts ++ requestParts
  | .tuneBegin _ _ _ | .tuneData _ _ _ | .tuneEnd _ _ _ | .tuneErase _ _ _ => .store :: requestParts
  | .planSet _ _ _ | .planCancel _ _ _ => .plan :: requestParts
  | .planStartNow _ _ _ | .planStartNext _ _ _ => hymnParts ++ requestParts
  | .stopNow _ _ _ | .yield _ _ _ | .resume _ _ _ => sourceParts ++ requestParts
  | .stopLine _ _ _ | .stopVerse _ _ _ | .verses _ _ _ | .tempo _ _ _ | .divisionSet _ _ _ => settleParts ++ requestParts
  | .followSet _ _ _ => .mode :: requestParts
  | .micSet _ _ _ => [.fallback, .acoustic] ++ settleParts ++ requestParts
  | .stopsSet _ _ _ => .divisions :: requestParts
  | .registrationSet _ _ _ => .drivers :: requestParts
  | .voicingSet _ _ _ => .expander :: requestParts
  | .curveSet _ _ _ => [.order, .shutters, .curves] ++ requestParts
  | .expressNow _ _ _ | .expressNext _ _ _ => [.order, .shutters] ++ requestParts
  | .level _ _ _ => [.run, .divisions] ++ requestParts
  | .faultClear _ _ _ => [.divisions, .drivers] ++ requestParts
  | .tempReading _ _ => [.clock, .history, .acoustic] ++ settleParts
  | .envelopeBlock _ _ _ _ => [.clock, .mics, .onsets, .counters, .run, .last, .divisions, .outgoing, .link]
  | .onsetTaken _ => [.clock, .onsets] ++ settleParts
  | .cueExpiry _ => [.clock, .cues, .mode, .follower, .counters, .outgoing, .link]
  | .matchedRecordRemoval _ => [.clock, .cues]
  | .pauseStart _ | .pauseEnd _ | .segmentStart _ | .segmentEnd _ | .expansion _ | .entryFallsDue _ => .clock :: settleParts
  | .lineAhead _ => [.clock, .order, .outgoing, .link]
  | .hymnClose _ => .clock :: hymnParts
  | .idleClockTick _ => [.clock, .shutters]
  | .rampDelayEnd _ _ | .rampStep _ _ | .rampHoldEnd _ _ => [.clock, .order, .shutters]
  | .stopChangeEnd _ _ => [.clock, .divisions, .run]
  | .coilScan _ _ => [.clock, .divisions, .run, .last, .outgoing, .link]
  | .quietCheckDeadline _ | .listenDeadline _ | .releaseEnd _ =>
    [.clock, .run, .last, .divisions, .outgoing, .link, .queue, .counters]
  | .pipeHoldEnd _ | .spacingEnd _ => [.clock, .run]
  | .ctChange _ _ => [.clock, .outside, .yielding]
  | .ctTouchHeld _ | .ctReleaseDelayEnd _ => .clock :: sourceParts
  | .rejoinTime _ => [.clock, .yieldState, .yielding, .outgoing, .link]
  | .timeStale _ _ => [.clock, .mics]

theorem event_touches {s s' : State} {t : Time} {p : State → Bool} {act : State → State} {ps rs : List Part}
    (h : event t p act s = .next s') (act_touches : ∀ u, Touches ps u (act u)) (hc : Part.clock ∈ rs := by decide)
    (hp : ∀ p ∈ ps, p ∈ rs := by decide) : Touches rs s s' := by
  have arrived : Touches rs s (arrive t s) := (arrive_touches t s).mono (by simpa using hc)
  rcases event_cases h with ⟨-, rfl⟩ | ⟨-, -, rfl⟩ | ⟨-, -, rfl⟩
  · exact .refl _ _
  · exact arrived
  · exact arrived.trans (act_touches _) (fun _ m => m) hp

theorem waiting_touches (t : Time) (f : Frame) (s : State) :
    Touches requestParts s { arrive t s with link := { s.link with waiting := some f } } := by
  have held (u : State) : Touches requestParts u { u with link := { u.link with waiting := some f } } := .of_merge rfl
  have := (held (arrive t s)).after (arrive_touches t s) (rs := requestParts)
  rwa [arrive_link] at this

theorem request_touches {s s' : State} {t : Time} {f : Frame} {mine lengthOk : Bool} {h : Handler} {ps rs : List Part}
    (hx : request t f mine lengthOk h s = .next s') (h_touches : ∀ u, Touches ps u (h u).1)
    (hr : ∀ p ∈ requestParts, p ∈ rs := by decide) (hp : ∀ p ∈ ps, p ∈ rs := by decide) : Touches rs s s' := by
  have arrived : Touches requestParts s (arrive t s) := (arrive_touches t s).mono
  have cleared : Touches rs s (clearWaiting (arrive t s)) := (arrived.trans (qs := [.link]) (.of_merge rfl)).mono hr
  have answered (k g : Byte) (st : Status) (fs : List Byte) {u : State} (hu : Touches rs s u) :
      Touches rs s (answer k g st fs u) :=
    hu.trans (qs := requestParts) (.of_merge rfl) (fun _ m => m) hr
  rcases request_cases hx with ⟨-, rfl⟩ | rfl | rfl | ⟨-, -, rfl⟩ | ⟨-, rfl⟩
  · exact .refl _ _
  · exact arrived.mono hr
  · exact (waiting_touches t f s).mono hr
  · exact answered _ _ _ _ (cleared.trans (h_touches _) (fun _ m => m) hp)
  · exact answered _ _ _ _ cleared

/-- Every command leaves the parts that it does not name as they are. -/
theorem exec_touches {i : Instr} {s s' : State} (h : exec i s = .next s') : Touches (partsOf i) s s' := by
  cases i <;> dsimp only [partsOf, exec] at h ⊢
  case resetAssert => intro p hp; cases p <;> simp at hp
  case resetRelease => intro p hp; cases p <;> simp at hp
  case rxdByte t b => exact event_touches h (receive_touches b)
  case receiverByte t => exact event_touches h takeByte_touches
  case frameGap t => exact event_touches (ps := [.link, .counters]) h fun _ => .of_merge rfl
  case badKind t k g b => exact request_touches (ps := []) h fun _ => .refl _ _
  case transmitMessage t => exact event_touches h sendMessage_touches
  case status t g b => exact request_touches (ps := [.link]) h fun _ => .of_merge rfl
  case counters t g b => exact request_touches (ps := [.counters]) h fun _ => .of_merge rfl
  case quietReset t g b => exact request_touches h quietReset_touches
  case tuneBegin t g b => exact request_touches h (doTuneBegin_touches b)
  case tuneData t g b => exact request_touches h (doTuneData_touches b)
  case tuneEnd t g b => exact request_touches h (doTuneEnd_touches b)
  case tuneErase t g b => exact request_touches h (doTuneErase_touches b)
  case tuneRead t g b => exact request_touches h (doTuneRead_touches b)
  case planSet t g b => exact request_touches h (doPlanSet_touches b)
  case planCancel t g b => exact request_touches h doPlanCancel_touches
  case planStartNow t g b => exact request_touches h (doPlanStartNow_touches b)
  case planStartNext t g b => exact request_touches h doPlanStartNext_touches
  case stopNow t g b => exact request_touches h (doStopNow_touches b)
  case stopLine t g b => exact request_touches h (stopPartAtOnce_touches true)
  case stopVerse t g b => exact request_touches h (stopPartAtOnce_touches false)
  case verses t g b => exact request_touches h (versesAtOnce_touches b)
  case tempo t g b => exact request_touches h (doTempo_touches b)
  case followSet t g b => exact request_touches h (doFollowSet_touches b)
  case micSet t g b => exact request_touches h (doMicSet_touches b)
  case divisionSet t g b => exact request_touches h (doDivisionSet_touches b)
  case stopsSet t g b => exact request_touches h (doStopsSet_touches b)
  case registrationSet t g b => exact request_touches h (doRegistrationSet_touches b)
  case voicingSet t g b => exact request_touches h (doVoicingSet_touches b)
  case curveSet t g b => exact request_touches h (doCurveSet_touches b)
  case expressNow t g b => exact request_touches h (doExpress_touches b placeNow)
  case expressNext t g b => exact request_touches h (doExpress_touches b placeNext)
  case level t g b => exact request_touches h (doLevel_touches b)
  case yield t g b => exact request_touches h (claim_touches .link)
  case resume t g b => exact request_touches h (sourceAbsent_touches .link)
  case faultClear t g b => exact request_touches h (doFaultClear_touches b)
  case tableRead t g b => exact request_touches h (doTableRead_touches b)
  case tempReading t r =>
    have read (u : State) : Touches [.clock, .history, .acoustic, .outgoing, .link] u
        (takeReading r { u with marks := { u.marks with temp := true } }) :=
      (takeReading_touches r _).after (ps := [.clock]) (.of_merge rfl)
    exact event_touches (ps := [.clock, .history, .acoustic] ++ settleParts) h fun u => (afterLeads_touches _ _).after (read u)
  case envelopeBlock t m first samples => exact event_touches h (takeBlock_touches m first samples)
  case onsetTaken t => exact event_touches h onsetAtOnce_touches
  case cueExpiry t => exact event_touches h fun u => missCue_touches (cueExpired u) u
  case matchedRecordRemoval t => exact event_touches h removeMatched_touches
  case pauseStart t => exact event_touches (ps := settleParts) h fun u => (settle_touches u _).after (actPauseStart_touches u)
  case pauseEnd t => exact event_touches (ps := settleParts) h fun u => (settle_touches u _).after (actPauseEnd_touches u)
  case segmentStart t => exact event_touches (ps := settleParts) h fun u => (settle_touches u _).after (startSegment_touches u)
  case segmentEnd t => exact event_touches (ps := settleParts) h fun u => (settle_touches u _).after (endSegment_touches u)
  case lineAhead t => exact event_touches h sendNextLine_touches
  case hymnClose t => exact event_touches h closeHymn_touches
  case idleClockTick t => exact event_touches (ps := [.clock, .shutters]) h fun _ => .of_merge rfl
  case rampDelayEnd t d => exact event_touches h (rampAct_touches d)
  case rampStep t d => exact event_touches h (rampAct_touches d)
  case rampHoldEnd t d => exact event_touches h (rampAct_touches d)
  case expansion t => exact event_touches h expandAtOnce_touches
  case entryFallsDue t => exact event_touches h headAtOnce_touches
  case stopChangeEnd t d =>
    exact event_touches (ps := [.divisions, .run]) h fun u => (levelChangeEnd_touches d _).after (setDiv_touches d _ u)
  case coilScan t r => exact event_touches h (scanCoils_touches r)
  case quietCheckDeadline t => exact event_touches h (onRun_touches failNoisy_touches)
  case pipeHoldEnd t => exact event_touches (ps := [.run]) h (onRun_touches fun _ _ => .of_merge rfl)
  case listenDeadline t => exact event_touches h (onRun_touches failNoSound_touches)
  case releaseEnd t => exact event_touches h (onRun_touches endRelease_touches)
  case spacingEnd t => exact event_touches h (onRun_touches enterQuietCheck_touches)
  case ctChange t active =>
    unfold execCtChange at h
    split at h
    · injection h with h
      subst h
      exact .of_merge rfl
    · exact event_touches (ps := [.outside, .yielding]) h fun _ => .of_merge rfl
  case ctTouchHeld t =>
    exact event_touches (ps := sourceParts) h fun u => (claim_touches .pin _).after (ps := [.yielding]) (.of_merge rfl)
  case ctReleaseDelayEnd t =>
    exact event_touches (ps := sourceParts) h fun u => (sourceAbsent_touches .pin _).after (ps := [.yielding]) (.of_merge rfl)
  case rejoinTime t => exact event_touches h rejoined_touches
  case timeStale t m => exact event_touches (ps := [.mics]) h fun _ => .of_merge rfl
  case transmitByteEnd t => exact event_touches (ps := [.lines]) h fun _ => .of_merge rfl

/-! ### From commands to steps -/

/-- A property is about some parts: it is kept where none of them is touched. -/
def About (ds : List Part) (P : State → Prop) : Prop :=
  ∀ {ps : List Part} {s s' : State}, Touches ps s s' → (∀ p ∈ ds, p ∉ ps) → P s → P s'

/-- A property that every command keeps is kept by a step, where the queue of commands, the count of choices and a tick of the
counter do not bear on it. -/
theorem step_keeps {P : State → Prop} (outside : ∀ s s', Touches [.outside] s s' → P s → P s')
    (ticked : ∀ s, P s → P (tick s)) (command : ∀ i s s', exec i s = .next s' → P s → P s') {s s' : State} (hs : P s)
    (h : step s = .next s') : P s' := by
  unfold step stepOf at h
  split at h
  · unfold idle at h
    split at h
    · injection h with h
      exact h ▸ hs
    · split at h
      · injection h with h
        exact h ▸ ticked s hs
      · unfold idleAmong at h
        split at h
        · exact command _ _ _ h hs
        · exact command _ _ _ h (outside _ _ (.of_merge rfl) hs)
  · exact command _ _ _ h (outside _ _ (.of_merge rfl) hs)

/-- A property about some parts is kept by a step when the commands that touch one of these parts keep it. -/
theorem About.step_keeps {ds : List Part} {P : State → Prop} (about : About ds P)
    (command : ∀ i s s', (∃ p ∈ ds, p ∈ partsOf i) → exec i s = .next s' → P s → P s') {s s' : State} (hs : P s)
    (h : step s = .next s') (ho : Part.outside ∉ ds := by decide) (hc : Part.clock ∉ ds := by decide) : P s' := by
  have away {q : Part} (hq : q ∉ ds) : ∀ p ∈ ds, p ∉ [q] := fun p hp hm => hq (List.mem_singleton.1 hm ▸ hp)
  refine Machine.step_keeps (fun s s' t hs => about t (away ho) hs)
    (fun s hs => about (ps := [.clock]) (.of_merge rfl) (away hc) hs) (fun i s s' he hs => ?_) hs h
  by_cases hi : ∃ p ∈ ds, p ∈ partsOf i
  · exact command i s s' hi he hs
  · exact about (exec_touches he) (by simpa using hi) hs

/-- What an event does to a property about other parts than the counter. -/
theorem About.event_keeps {ds : List Part} {P : State → Prop} (about : About ds P) {s s' : State} {t : Time}
    {p : State → Bool} {act : State → State} (h : event t p act s = .next s') (hs : P s)
    (acts : ∀ u, p u = true → P u → P (act u)) (hc : ∀ p ∈ ds, p ∉ [Part.clock] := by decide) : P s' := by
  have arrived : P (arrive t s) := about (arrive_touches t s) hc hs
  rcases event_cases h with ⟨-, rfl⟩ | ⟨-, -, rfl⟩ | ⟨-, hp, rfl⟩
  · exact hs
  · exact arrived
  · exact acts _ hp arrived

/-- What a request does to a property about other parts than the counter and the link. -/
theorem About.request_keeps {ds : List Part} {P : State → Prop} (about : About ds P) {s s' : State} {t : Time} {f : Frame}
    {mine lengthOk : Bool} {h : Handler} (hx : request t f mine lengthOk h s = .next s') (hs : P s)
    (acts : ∀ u, P u → P (h u).1) (hr : ∀ p ∈ ds, p ∉ requestParts := by decide) : P s' := by
  have arrived : P (arrive t s) := about ((arrive_touches t s).mono (qs := requestParts)) hr hs
  have cleared : P (clearWaiting (arrive t s)) := about (ps := requestParts) (.of_merge rfl) hr arrived
  have answered (k g : Byte) (st : Status) (fs : List Byte) {u : State} (hu : P u) : P (answer k g st fs u) :=
    about (ps := requestParts) (.of_merge rfl) hr hu
  rcases request_cases hx with ⟨-, rfl⟩ | rfl | rfl | ⟨-, -, rfl⟩ | ⟨-, rfl⟩
  · exact hs
  · exact arrived
  · exact about (waiting_touches t f s) hr hs
  · exact answered _ _ _ _ (acts _ cleared)
  · exact answered _ _ _ _ cleared

end Sys2Proof.Machine

/-! PROOFS. The account of the Score Store (R3, R8, R10), kept by every step. -/

namespace Sys2Proof.Machine

-- The proofs are elaborated one after another, which keeps the whole text within its memory.
set_option Elab.async false

/-! ### The Score Store's account -/

theorem StoreSound.of_store {s s' : State} (h : StoreSound s) (same : s'.store = s.store) : StoreSound s' := by
  have slots (i : Fin 16) : slot s' i = slot s i := by simp only [slot, same]
  exact ⟨same ▸ h.accounted, fun i hd es k => h.loading i hd es (slots i ▸ k), fun i x k => h.ready i x (slots i ▸ k)⟩

theorem storeSound_about : About [.store] StoreSound := fun t away h => h.of_store (t.store (away _ (by simp)))

/-- A sum over a list with one item replaced. -/
theorem sum_set_add (xs : List Nat) (n : Nat) (hn : n < xs.length) (x : Nat) : (xs.set n x).sum + xs[n] = xs.sum + x := by
  induction xs generalizing n with
  | nil => simp at hn
  | cons y ys ih =>
    cases n with
    | zero => simp only [List.set_cons_zero, List.sum_cons, List.getElem_cons_zero]; omega
    | succ n =>
      have := ih n (by simpa using hn)
      simp only [List.set_cons_succ, List.sum_cons, List.getElem_cons_succ]
      omega

/-- A slot replaced keeps the account where the free count makes up for the records it reserves (R3). -/
theorem StoreSound.setSlot {s : State} (h : StoreSound s) {i : Fin 16} {x : Slot} {free : Nat}
    (hf : free + x.reserved = s.store.free + (slot s i).reserved)
    (hl : ∀ hd es, x = .loading hd es → es.length ≤ hd.declared)
    (hr : ∀ t, x = .ready t → t.events.length = t.header.declared) : StoreSound (setSlot i x free s) := by
  refine ⟨?_, fun j hd es k => ?_, fun j t k => ?_⟩
  · have set_sum := sum_set_add (s.store.slots.toList.map Slot.reserved) i.val (by simp) x.reserved
    have was : (s.store.slots.toList.map Slot.reserved)[i.val]'(by simp) = (slot s i).reserved := by simp [slot]
    have now : ((Machine.setSlot i x free s).store.slots.toList.map Slot.reserved)
        = (s.store.slots.toList.map Slot.reserved).set i.val x.reserved := by simp [Vector.toList_set, List.map_set]
    have := h.accounted
    rw [now, setSlot_store]
    dsimp only
    omega
  · by_cases hij : i = j
    · subst hij
      rw [slot_setSlot] at k
      exact hl hd es k
    · rw [slot_setSlot_ne _ _ _ hij] at k
      exact h.loading j hd es k
  · by_cases hij : i = j
    · subst hij
      rw [slot_setSlot] at k
      exact hr t k
    · rw [slot_setSlot_ne _ _ _ hij] at k
      exact h.ready j t k

theorem doTuneBegin_keeps_store (b : List Byte) {s : State} (h : StoreSound s) : StoreSound (doTuneBegin b s).1 := by
  unfold doTuneBegin
  dsimp only
  split
  · exact h
  · split
    · exact h
    · split
      · exact h
      · split
        · exact h
        · refine h.setSlot ?_ ?_ ?_
          · show s.store.free + _ - _ + (headerOf b).declared = _
            omega
          · rintro hd es ⟨⟩
            exact Nat.zero_le _
          · exact fun _ k => nomatch k

theorem doTuneData_keeps_store (b : List Byte) {s : State} (h : StoreSound s) : StoreSound (doTuneData b s).1 := by
  unfold doTuneData
  dsimp only
  split
  · exact h
  split
  next hd es held =>
    split
    · exact h
    split
    · exact h
    split
    · exact h
    next full =>
    refine h.setSlot ?_ ?_ fun _ k => nomatch k
    · simp [held, Slot.reserved]
    · rintro hd' es' ⟨⟩
      simp only [List.length_append, List.length_map, List.length_range]
      omega
  · exact h
  · exact h

/-- A tune that passes every check has exactly the declared number of events (R10, COUNT). -/
theorem tuneFault_none {hd : TuneHeader} {es : List Event} (h : tuneFault hd es = none) : es.length = hd.declared := by
  refine Decidable.of_not_not fun hn => ?_
  simp [tuneFault, hn] at h

theorem doTuneEnd_keeps_store (b : List Byte) {s : State} (h : StoreSound s) : StoreSound (doTuneEnd b s).1 := by
  unfold doTuneEnd
  dsimp only
  split
  · exact h
  split
  next hd es held =>
    split
    next f at_ _ =>
      refine h.setSlot ?_ (fun _ _ k => nomatch k) fun _ k => nomatch k
      simp [held, Slot.reserved]
    next passes =>
      refine h.setSlot ?_ (fun _ _ k => nomatch k) ?_
      · simp [held, Slot.reserved, deriveTune]
      · rintro t ⟨⟩
        exact tuneFault_none passes
  · exact h
  · exact h

theorem doTuneErase_keeps_store (b : List Byte) {s : State} (h : StoreSound s) : StoreSound (doTuneErase b s).1 := by
  unfold doTuneErase
  dsimp only
  split
  · exact h
  · split
    · exact h
    · exact h.setSlot rfl (fun _ _ k => nomatch k) fun _ k => nomatch k

/-- What LOADING slots return at a quiet reset and what the slots then reserve is what they reserved (R3, R19). -/
theorem quiet_reserved_sum (xs : List Slot) :
    (xs.map fun x => x.reserved - x.quiet.reserved).sum + (xs.map fun x => x.quiet.reserved).sum =
      (xs.map Slot.reserved).sum := by
  induction xs with
  | nil => rfl
  | cons x xs ih =>
    have : x.quiet.reserved ≤ x.reserved := by cases x <;> simp [Slot.quiet, Slot.reserved]
    simp only [List.map_cons, List.sum_cons]
    omega

theorem slot_quietStore (s : State) (i : Fin 16) : slot (quietStore s) i = (slot s i).quiet := by simp [slot, quietStore]

theorem quietStore_keeps_store {s : State} (h : StoreSound s) : StoreSound (quietStore s) := by
  refine ⟨?_, fun i hd es k => ?_, fun i t k => ?_⟩
  · have quieted : (quietStore s).store.slots.toList.map Slot.reserved =
        s.store.slots.toList.map fun x => x.quiet.reserved := by
      apply List.ext_getElem <;> simp [quietStore, mapIdx]
    have := quiet_reserved_sum s.store.slots.toList
    have := h.accounted
    rw [quieted]
    simp only [quietStore, loadingRecords]
    omega
  · rw [slot_quietStore] at k
    cases held : slot s i <;> simp [held, Slot.quiet] at k
  · rw [slot_quietStore] at k
    cases held : slot s i <;> simp [held, Slot.quiet] at k
    exact h.ready i t (k ▸ held)

theorem quietReset_keeps_store {s : State} (h : StoreSound s) : StoreSound (quietReset s) := by
  have ramps : Touches [.order, .shutters] s (idleRamps (syncRamps s)) := (mapShutters_touches _ _).after (syncRamps_touches s)
  exact (quietStore_keeps_store (h.of_store ramps.store)).of_store rfl

theorem storeSound_of_powerOn {s : State} (h : s.store = Store.powerOn) : StoreSound s := by
  have empty (i : Fin 16) : slot s i = .empty := by simp [slot, h, Store.powerOn]
  refine ⟨by rw [h]; decide, fun i hd es k => ?_, fun i t k => ?_⟩
  · rw [empty] at k
    cases k
  · rw [empty] at k
    cases k

theorem exec_keeps_store (i : Instr) (s s' : State) (hi : ∃ p ∈ [Part.store], p ∈ partsOf i) (h : exec i s = .next s')
    (hs : StoreSound s) : StoreSound s' := by
  cases i <;> dsimp only [exec] at h
  case resetAssert =>
    cases h
    exact storeSound_of_powerOn rfl
  case resetRelease rate1 rate0 =>
    unfold execResetRelease at h
    cases h
    split
    · exact hs.of_store (notice_touches _ _).store
    · exact hs
  case tuneBegin t g b => exact storeSound_about.request_keeps h hs fun _ => doTuneBegin_keeps_store b
  case tuneData t g b => exact storeSound_about.request_keeps h hs fun _ => doTuneData_keeps_store b
  case tuneEnd t g b => exact storeSound_about.request_keeps h hs fun _ => doTuneEnd_keeps_store b
  case tuneErase t g b => exact storeSound_about.request_keeps h hs fun _ => doTuneErase_keeps_store b
  case quietReset t g b => exact storeSound_about.request_keeps h hs fun _ => quietReset_keeps_store
  all_goals simp [partsOf, requestParts, settleParts, waitParts, hymnParts, sourceParts] at hi

/-- Settles O57: the account of the store is about the store alone, which only the tune requests and the resets touch. -/
theorem stepKeepsStore : Obligations.StepKeepsStore :=
  fun _ _ hs h => storeSound_about.step_keeps exec_keeps_store hs h

end Sys2Proof.Machine

/-! PROOFS. The end and the start of a hymn (R24, R25), read off the operations. -/

namespace Sys2Proof.Machine

-- The proofs are elaborated one after another, which keeps the whole text within its memory.
set_option Elab.async false

/-! ### Times -/

theorem addTu_natCast (t : Time) (n : Nat) : addTu t (n : Int) = t + BitVec.ofNat 32 n := by
  rw [addTu, BitVec.ofInt_natCast]

/-! ### Stop changes of several divisions -/

theorem div_stopChange (d : DivNo) (r : StopSet) (s : State) : div (stopChange d r s) d = { div s d with
    drawn := r &&& existing (div s d), stopState := .changing (s.now + BitVec.ofNat 32 (div s d).stopAction) } := by
  simp [stopChange, drawsOn, addTu_natCast]

theorem div_stopChange_ne {d e : DivNo} (r : StopSet) (s : State) (h : d ≠ e) : div (stopChange d r s) e = div s e :=
  div_setDiv_ne _ _ h

/-- A division after a stop change that may be asked of it at a time. -/
def changedStops (now : Time) (want : Option StopSet) (x : Division) : Division :=
  match want with
  | some r => { x with drawn := r &&& existing x, stopState := .changing (now + BitVec.ofNat 32 x.stopAction) }
  | none => x

/-- The stop changes of several divisions, each read off for one division. -/
theorem div_stopChanges (want : DivNo → Option StopSet) (s : State) (d : DivNo) :
    div (stopChanges want s) d = changedStops s.now (want d) (div s d) := by
  suffices ∀ (ds : List DivNo) (u : State), ds.Nodup → u.now = s.now → (∀ d ∈ ds, div u d = div s d) →
      div (ds.foldl (fun u d => match want d with
        | some r => stopChange d r u
        | none => u) u) d = if d ∈ ds then changedStops s.now (want d) (div s d) else div u d by
    exact (this (allFin 6) s (List.nodup_finRange 6) rfl fun _ _ => rfl).trans (if_pos (List.mem_finRange d))
  intro ds
  induction ds with
  | nil => simp
  | cons e ds ih =>
    intro u nd hn hu
    obtain ⟨he, nd⟩ := List.nodup_cons.1 nd
    simp only [List.foldl_cons, List.mem_cons]
    cases hw : want e with
    | none =>
      rw [ih u nd hn fun d m => hu d (List.mem_cons_of_mem e m)]
      by_cases hd : d = e
      · subst hd
        simp [he, changedStops, hw, hu d (List.mem_cons_self)]
      · simp [hd]
    | some r =>
      have kept : ∀ d ∈ ds, div (stopChange e r u) d = div s d := fun d m => by
        rw [div_stopChange_ne r u fun h : e = d => he (h.symm ▸ m), hu d (List.mem_cons_of_mem e m)]
      rw [ih (stopChange e r u) nd hn kept]
      by_cases hd : d = e
      · subst hd
        simp [he, div_stopChange, changedStops, hw, hu d List.mem_cons_self, hn]
      · simp [hd, div_stopChange_ne r u fun h => hd h.symm]

/-! ### The end of a hymn -/

/-- The state that the end of a hymn leaves before its notice (R24, R33). -/
def hymnCleared (s : State) : State :=
  let s := setCursor .none (followerOff (idleRamps (flush (syncRamps s))))
  setPlan { s.plan with
    active := none, order := [], play := .idle, startTime := none, clockBase := 0, clockShown := 0, linesSent := []
    stopped := false } s

/-- Counting the ramps up to the clock changes no more than the shutters and the shown clock. -/
theorem syncRamps_frame (s : State) : { syncRamps s with
    plan := { (syncRamps s).plan with clockShown := s.plan.clockShown }
    expression := { (syncRamps s).expression with shutters := s.expression.shutters } } = s := by
  unfold syncRamps readClock
  split <;> rfl

@[simp] theorem syncRamps_map (s : State) : (syncRamps s).map = s.map := by
  unfold syncRamps readClock; split <;> rfl
@[simp] theorem syncRamps_follower (s : State) : (syncRamps s).follower = s.follower := by
  unfold syncRamps readClock; split <;> rfl
@[simp] theorem syncRamps_store (s : State) : (syncRamps s).store = s.store := by
  unfold syncRamps readClock; split <;> rfl
@[simp] theorem syncRamps_queue (s : State) : (syncRamps s).queue = s.queue := by
  unfold syncRamps readClock; split <;> rfl
@[simp] theorem syncRamps_expander (s : State) : (syncRamps s).expander = s.expander := by
  unfold syncRamps readClock; split <;> rfl
@[simp] theorem syncRamps_drivers (s : State) : (syncRamps s).drivers = s.drivers := by
  unfold syncRamps readClock; split <;> rfl
@[simp] theorem syncRamps_yielding (s : State) : (syncRamps s).yielding = s.yielding := by
  unfold syncRamps readClock; split <;> rfl
@[simp] theorem syncRamps_levelling (s : State) : (syncRamps s).levelling = s.levelling := by
  unfold syncRamps readClock; split <;> rfl
@[simp] theorem syncRamps_now (s : State) : (syncRamps s).now = s.now := by
  unfold syncRamps readClock; split <;> rfl
@[simp] theorem syncRamps_front (s : State) : (syncRamps s).front = s.front := by
  unfold syncRamps readClock; split <;> rfl
@[simp] theorem syncRamps_active (s : State) : (syncRamps s).plan.active = s.plan.active := by
  unfold syncRamps readClock; split <;> rfl
@[simp] theorem syncRamps_order (s : State) : (syncRamps s).plan.order = s.plan.order := by
  unfold syncRamps readClock; split <;> rfl
@[simp] theorem syncRamps_play (s : State) : (syncRamps s).plan.play = s.plan.play := by
  unfold syncRamps readClock; split <;> rfl

theorem activeTune_syncRamps (s : State) : activeTune (syncRamps s) = activeTune s := by
  simp only [activeTune, tuneOf, slot, syncRamps_active, syncRamps_store]

theorem currentSegment_syncRamps (s : State) : currentSegment (syncRamps s) = currentSegment s := by
  unfold currentSegment
  rw [syncRamps_map]
  exact congrArg _ (funext fun i => by rw [segmentAt, segmentAt, syncRamps_order])

/-- The end of a hymn is what it clears and then its notice (R24, R33, R37). -/
theorem hymnOver_eq (reason : HymnEndReason) (s : State) : hymnOver reason s = notice (hymnEndOf reason s) (hymnCleared s) := by
  have told : Notice.hymnEnd reason ((activeTune (syncRamps s)).elim 0 (·.header.label)) (syncRamps s).map.current
      ((currentSegment (syncRamps s)).elim 0 (·.verse)) = hymnEndOf reason s := by
    rw [activeTune_syncRamps, currentSegment_syncRamps, syncRamps_map, hymnEndOf]
  exact congrArg (fun n => notice n (hymnCleared s)) told

theorem hymnCleared_touches (s : State) :
    Touches [.plan, .order, .shutters, .queue, .current, .map, .pauses, .cues, .follower, .mode, .expander] s
      (hymnCleared s) := by
  have ended (v : State) (x : PlanUnit) :
      Touches [.plan, .order, .shutters, .queue, .current, .map, .pauses, .cues, .follower, .mode, .expander] v
        (setPlan x (setCursor .none (followerOff (idleRamps (flush v))))) := .of_merge rfl
  exact (ended _ _).after (syncRamps_touches s)

theorem hymnCleared_gone (s : State) : HymnGone s (hymnCleared s) := by
  have frame := syncRamps_frame s
  refine ⟨?_, ?_, ?_, rfl, ?_, fun d => ?_, ?_⟩
  · have h := congrArg (fun v => { v.plan with
      active := none, order := [], play := .idle, startTime := none, clockBase := 0, clockShown := 0, linesSent := []
      stopped := false }) frame
    exact h
  · have h := congrArg (fun v => { v.map with current := none, anchor := none, pauses := [] }) frame
    exact h
  · have h := congrArg (fun v => { v.follower with
      mode := .off, credit := v.follower.settings.allowance, rejoinRun := 0, cues := [], lastPosted := none }) frame
    exact h
  · have h := congrArg (fun v => { v.expander with cursor := Cursor.none, carried := .all none, firstDone := false }) frame
    exact h
  · exact shutter_mapShutters _ _ d
  · have h := congrArg (fun v => { v with
      plan := s.plan, map := s.map, follower := s.follower, queue := s.queue, expander := s.expander
      expression := { v.expression with shutters := s.expression.shutters } }) (touches_iff_merge.1 (hymnCleared_touches s))
    exact h

/-! ### The start of a hymn -/

/-- The state at a hymn's start before its stop changes and the cursor (R25). -/
def hymnPlaced (p : Plan) (x : Tune) (s : State) : State :=
  enterMode .lead (setMap { (startPlan p x s).map with period := initialPeriod p x } (startPlan p x s))

theorem hymnStart_eq (p : Plan) (x : Tune) (s : State) : hymnStart p x s =
    let u := match (runningOrder p x)[0]? with
      | some g => stopChanges (startStops g (hymnPlaced p x s)) (hymnPlaced p x s)
      | none => hymnPlaced p x s
    setCursor (cursorAtStart u 0) u := rfl

end Sys2Proof.Machine

/-! PROOFS. What is known of a wait when it is acted on, the states that a hymn's commands pass through, and the Plan Unit's
invariant (R16, R21), kept by every step. -/

namespace Sys2Proof.Machine

-- The proofs are elaborated one after another, which keeps the whole text within its memory.
set_option Elab.async false

/-! ### Waits that have come -/

/-- What has come about when a wait is acted on. -/
def Wait.Due (s : State) : Wait → Prop
  | .entry => entryDue s = true
  | .pauseEnd p _ => runningPause s = some p ∧ pauseEndDue s = true
  | .pauseStart p _ => startingPause s = some p
  | .segmentEnd _ _ => segmentEndDue s = true
  | .segmentStart _ _ => segmentStartDue s = true
  | .cue c _ => c ∈ s.follower.cues ∧ cueExpired s c = true
  | .rejoin _ _ => rejoinDue s = true
  | .line _ l _ => l ∈ dueLines s
  | .close => closingHolds s = true

theorem mem_waitIf {b : Bool} {w v : Wait} : v ∈ waitIf b w ↔ b = true ∧ v = w := by
  cases b <;> simp [waitIf]

/-- Every wait among those that have come has come. -/
theorem due_of_comeWaits {s : State} {ws : List Wait} {w : Wait} (h : ws ∈ comeWaits s) (k : w ∈ ws) : w.Due s := by
  unfold comeWaits at h
  simp only [List.mem_cons, List.not_mem_nil, or_false] at h
  rcases h with rfl | rfl | rfl | rfl | rfl | rfl | rfl | rfl | rfl
  · obtain ⟨hd, rfl⟩ := mem_waitIf.1 k
    exact hd
  · simp only [List.mem_map, Option.mem_toList, Option.filter_eq_some_iff] at k
    obtain ⟨p, ⟨hp, hd⟩, rfl⟩ := k
    exact ⟨hp, hd⟩
  · simp only [List.mem_map, Option.mem_toList] at k
    obtain ⟨p, hp, rfl⟩ := k
    exact hp
  · obtain ⟨hd, rfl⟩ := mem_waitIf.1 k
    exact hd
  · obtain ⟨hd, rfl⟩ := mem_waitIf.1 k
    exact hd
  · simp only [List.mem_map, List.mem_filter] at k
    obtain ⟨c, hc, rfl⟩ := k
    exact hc
  · obtain ⟨hd, rfl⟩ := mem_waitIf.1 k
    exact hd
  · simp only [List.mem_map] at k
    obtain ⟨l, hl, rfl⟩ := k
    exact hl
  · obtain ⟨hd, rfl⟩ := mem_waitIf.1 k
    exact hd

theorem Wait.Due.countChoice {s : State} {w : Wait} (h : w.Due s) : w.Due (countChoice s) := by
  cases w <;> exact h

/-- A property that counting a choice and acting on any wait that has come keep is kept by `settle`. -/
theorem settle_keeps_due {P : State → Prop} (choice : ∀ s, P s → P (countChoice s))
    (act : ∀ w s, w.Due s → P s → P (actOn w s)) (before : State) {s : State} (h : P s) : P (settle before s) := by
  unfold settle
  generalize settleFuel = n
  induction n generalizing s with
  | zero => exact h
  | succ n ih =>
    simp only [settleFor]
    split
    · exact h
    · apply ih
      obtain ⟨w, hw, he⟩ := actOnOne_due (s := s) ‹dueWaits before s ≠ []›
      obtain ⟨⟨ws, m, k⟩, -⟩ := dueWaits_moved hw
      have due := due_of_comeWaits m k
      rcases he with he | he <;> rw [he]
      · exact act w s due h
      · exact act w _ due.countChoice (choice s h)

/-! ### The states that a hymn's commands pass through -/

/-- What the start of a hymn changes after it has placed the plan and the map: the stops and the cursor (R113, R123). -/
theorem hymnPlaced_hymnStart (p : Plan) (x : Tune) (s : State) :
    Touches [.divisions, .expander] (hymnPlaced p x s) (hymnStart p x s) := by
  rw [hymnStart_eq]
  refine Touches.trans (ps := [.divisions]) ?_ (setCursor_touches _ _)
  split
  · exact stopChanges_touches _ _
  · exact .refl _ _

/-- A segment's start without its ramp, its notices and what the map change brings (R31, R34, R80). -/
def segmentOpened (i : Nat) (g : Segment) (t : Time) (s : State) : State :=
  let u := followerSegmentStart i g t (countAll (raiseClock (clockAtStart g s) s))
  setPlan { u.plan with play := .segment, startTime := none, clockBase := clockAtStart g s, linesSent := [] } u

/-- A segment's start with its ramp and its notices (R34, R35, R36). -/
def segmentTold (i : Nat) (g : Segment) (t : Time) (s : State) : State :=
  let u := startSegmentRamp g (segmentOpened i g t s)
  let v := notice (segmentNotice i g t u) u
  (dueLines v).foldl sendLine v

theorem beginSegment_eq (i : Nat) (g : Segment) (t : Time) (s : State) :
    beginSegment i g t s = mapChanged (cursorSegmentStart i (segmentTold i g t s)) := rfl

theorem segmentOpened_segmentTold (i : Nat) (g : Segment) (t : Time) (s : State) :
    Touches [.shutters, .order, .outgoing, .link] (segmentOpened i g t s) (segmentTold i g t s) := by
  have told (v : State) : Touches [.order, .outgoing, .link] v ((dueLines v).foldl sendLine v) :=
    .foldl sendLine_touches _ v
  refine Touches.trans (ps := [.shutters, .order, .outgoing, .link]) ?_ (told _)
  exact (startSegmentRamp_touches g _).trans (notice_touches _ _)

/-- What a map change and a cursor's move touch (R48, R113). -/
theorem mapChanged_after {ps : List Part} {v u : State} (h : Touches ps v u) (hp : ∀ p ∈ ps, p ∈ [Part.expander] := by decide) :
    Touches [.queue, .counters, .divisions, .yieldState, .yielding, .expander, .follower] v (mapChanged u) :=
  (mapChanged_touches u).after (h.mono hp)

theorem segmentOpened_beginSegment (i : Nat) (g : Segment) (t : Time) (s : State) :
    Touches [.shutters, .order, .outgoing, .link, .queue, .counters, .divisions, .yieldState, .yielding, .expander, .follower]
      (segmentOpened i g t s) (beginSegment i g t s) :=
  (segmentOpened_segmentTold i g t s).trans (mapChanged_after (cursorSegmentStart_touches i _))

theorem segmentOpened_touches (i : Nat) (g : Segment) (t : Time) (s : State) :
    Touches [.plan, .order, .shutters, .current, .map, .pauses, .cues, .follower, .mode, .counters] s (segmentOpened i g t s) := by
  have counted : Touches [.order, .shutters] s (countAll (raiseClock (clockAtStart g s) s)) :=
    (raiseClock_touches _ s).trans (countAll_touches _)
  have placed (v : State) : Touches [.plan, .order, .current, .map, .pauses, .cues, .follower, .mode, .counters] v
      (setPlan { (followerSegmentStart i g t v).plan with
        play := .segment, startTime := none, clockBase := clockAtStart g s, linesSent := [] } (followerSegmentStart i g t v)) :=
    .of_merge rfl
  exact counted.trans (placed _)

theorem segmentOpened_play (i : Nat) (g : Segment) (t : Time) (s : State) : (segmentOpened i g t s).plan.play = .segment := rfl

/-- What a pause's start or end touches, with the map change that it is (R97, R98, R48). -/
def pauseParts : List Part :=
  [.order, .shutters, .map, .pauses, .cues, .follower, .mode, .queue, .counters, .divisions, .yieldState, .yielding, .expander]

theorem actPauseStart_pauseParts (s : State) : Touches pauseParts s (actPauseStart s) := by
  unfold actPauseStart
  split
  · exact Touches.trans ((syncRamps_touches s).trans (startPause_touches _ _)
      (rs := [.order, .shutters, .map, .pauses, .cues, .follower, .mode])) (mapChanged_touches _)
  · exact .refl _ _

theorem actPauseEnd_pauseParts (s : State) : Touches pauseParts s (actPauseEnd s) :=
  Touches.trans ((syncRamps_touches s).trans (endPause_touches _)
    (rs := [.order, .shutters, .map, .pauses, .cues, .follower, .mode])) (mapChanged_touches _)

/-- What a STOP LINE or STOP VERSE cuts away, and a REST becomes CLOSING with it, apart from the plan's play state (R39, R40). -/
def stopParts : List Part :=
  [.order, .queue, .cues, .follower, .pauses, .expander, .yieldState, .yielding, .outgoing, .link]

theorem stopAt_stopParts (c e : Nat) (s : State) : Touches stopParts s (stopAt c e s) := (stopAt_touches c e s).mono

/-- The state in which a STOP in STARTING has closed the empty order (R39). -/
def startingClosed (s : State) : State :=
  setPlan { s.plan with order := [], play := .closing, startTime := none, stopped := true } s

theorem startingClosed_stopStarting (s : State) : Touches stopParts (startingClosed s) (stopStarting s) :=
  ((cutStarting_touches _).trans (leaveRejoining_touches _ _) (rs := stopParts))

/-- VERSES up to the moment before a REST with nothing after it closes (R41, R40, R200). -/
def versesCut (p : Plan) (order : List Segment) (s : State) : State :=
  let v := syncRamps s
  let u := setPlan { v.plan with active := some p, order := order } v
  leaveRejoining (fun r => decide (order.length ≤ r.segment))
    (match v.plan.order[startedCount v]? != order[startedCount v]?, u.map.current, currentSegment u with
    | true, some c, some g => cutAway c g.sTo u
    | _, _, _ => u)

/-- A REST without a next segment becomes CLOSING (R41). -/
def closeRest (s : State) : State := if s.plan.play = .rest ∧ (nextSegment s).isNone = true then setPlay .closing s else s

theorem setVerses_eq (p : Plan) (order : List Segment) (s : State) :
    setVerses p order s = mapChanged (advanceCursor (closeRest (versesCut p order s))) := by
  unfold setVerses versesCut closeRest
  rfl

theorem versesCut_touches (p : Plan) (order : List Segment) (s : State) :
    Touches (.shutters :: stopParts) (setPlan { s.plan with active := some p } s) (versesCut p order s) := by
  have synced : Touches [.order, .shutters] (setPlan { s.plan with active := some p } s)
      (setPlan { (syncRamps s).plan with active := some p, order := order } (syncRamps s)) := by
    have t := syncRamps_touches s
    rw [touches_iff_merge] at t
    rw [t]
    exact .of_merge rfl
  refine synced.trans (qs := stopParts) ?_
  refine Touches.trans (ps := stopParts) ?_ (leaveRejoining_touches _ _)
  split
  · exact (cutAway_touches _ _ _).mono
  · exact .refl _ _

theorem release_touches (rate1 rate0 : Bool) (s : State) :
    Touches [.clock, .outside, .yieldState, .yielding, .link, .outgoing, .lines] s (release rate1 rate0 s) :=
  (notice_touches _ _).after (ps := [.clock, .outside, .yieldState, .yielding, .link, .outgoing, .lines]) (.of_merge rfl)

/-! ### The Plan Unit's invariant -/

theorem planSound_about : About [.store, .plan] PlanSound := by
  intro ps s s' t ha h
  have sameStore := t.store (ha _ (by simp))
  have hp : Part.plan ∉ ps := ha _ (by simp)
  have ready (p : Plan) : tuneReady s' p ↔ tuneReady s p := by simp only [tuneReady, tuneOf, slot, sameStore]
  exact ⟨t.active hp ▸ t.play hp ▸ h.active, fun p hq => (ready p).2 (h.activeReady p (t.active hp ▸ hq)),
    fun hq => by
      obtain ⟨p, hs, hr⟩ := h.queuedReady (t.queued hp ▸ hq)
      exact ⟨p, (t.staged hp).trans hs, (ready p).2 hr⟩⟩

/-- The invariant allows a move of the play state from one state outside IDLE to another. -/
theorem PlanSound.moved {s s' : State} (h : PlanSound s) (store : s'.store = s.store) (staged : s'.plan.staged = s.plan.staged)
    (active : s'.plan.active = s.plan.active) (queued : s'.plan.queued = s.plan.queued) (hp : s.plan.play ≠ .idle)
    (hp' : s'.plan.play ≠ .idle) : PlanSound s' := by
  have ready (p : Plan) : tuneReady s' p ↔ tuneReady s p := by simp only [tuneReady, tuneOf, slot, store]
  refine ⟨⟨fun _ => hp', fun _ => active ▸ h.active.2 hp⟩, fun p hq => (ready p).2 (h.activeReady p (active ▸ hq)), fun hq => ?_⟩
  obtain ⟨p, hs, hr⟩ := h.queuedReady (queued ▸ hq)
  exact ⟨p, staged.trans hs, (ready p).2 hr⟩

theorem PlanSound.setPlay {s : State} {m : PlayState} (h : PlanSound s) (hp : s.plan.play ≠ .idle) (hm : m ≠ .idle) :
    PlanSound (setPlay m s) := h.moved rfl rfl rfl rfl hp hm

theorem startable_cases {s : State} {p : Plan} {x : Tune} (h : startable s = some (p, x)) :
    s.plan.staged = some p ∧ tuneOf s p.slot = some x := by
  unfold startable at h
  rw [Option.bind_eq_some_iff] at h
  obtain ⟨q, hq, hx⟩ := h
  rw [Option.map_eq_some_iff] at hx
  obtain ⟨y, hy, he⟩ := hx
  cases he
  exact ⟨hq, hy⟩

/-- A hymn that starts has a READY tune, and no plan is queued then (R23, R25). -/
theorem hymnStart_planSound {p : Plan} {x : Tune} {s : State} (h : tuneOf s p.slot = some x) :
    PlanSound (hymnStart p x s) := by
  have placed : PlanSound (hymnPlaced p x s) := by
    refine ⟨⟨fun _ => by simp [hymnPlaced, startPlan], fun _ => rfl⟩, fun q hq => ?_, fun hq => nomatch hq⟩
    cases hq
    exact Option.isSome_iff_exists.2 ⟨x, h⟩
  exact planSound_about (hymnPlaced_hymnStart p x s) (by decide) placed

theorem startQueued_planSound {s : State} (h : PlanSound s) : PlanSound (startQueued s) := by
  unfold startQueued
  split
  · split
    · exact hymnStart_planSound (startable_cases ‹_›).2
    · exact h
  · exact h

theorem hymnOver_planSound {s : State} (reason : HymnEndReason) (h : PlanSound s) : PlanSound (hymnOver reason s) := by
  have plan := (hymnCleared_gone s).1
  have store := (hymnCleared_touches s).store
  have cleared : PlanSound (hymnCleared s) := by
    have ready (p : Plan) : tuneReady (hymnCleared s) p ↔ tuneReady s p := by simp only [tuneReady, tuneOf, slot, store]
    refine ⟨?_, fun p hq => ?_, fun hq => ?_⟩
    · simp [plan]
    · rw [plan] at hq
      cases hq
    · rw [plan] at hq
      obtain ⟨p, hs, hr⟩ := h.queuedReady hq
      exact ⟨p, by rw [plan]; exact hs, (ready p).2 hr⟩
  rw [hymnOver_eq]
  exact planSound_about (notice_touches _ _) (by decide) cleared

theorem tearDown_planSound {s : State} (reason : HymnEndReason) (h : PlanSound s) : PlanSound (tearDown reason s) := by
  have released := planSound_about (releaseAll_touches s) (by decide) h
  exact planSound_about (idleYield_touches _) (by decide) (hymnOver_planSound reason released)

theorem closeHymn_planSound {s : State} (h : PlanSound s) : PlanSound (closeHymn s) :=
  startQueued_planSound (planSound_about (idleYield_touches _) (by decide) (hymnOver_planSound _ h))

theorem closeIfHeld_planSound {s : State} (h : PlanSound s) : PlanSound (closeIfHeld s) := by
  unfold closeIfHeld
  split
  · exact closeHymn_planSound h
  · exact h

theorem startStaged_planSound {s : State} (h : PlanSound s) : PlanSound (startStaged s) := by
  unfold startStaged
  split
  · rename_i p x hx
    have free := (startable_cases hx).2
    refine hymnStart_planSound (x := x) ?_
    split
    · exact free
    · have store := (tearDown_touches .replaced s).store
      simpa only [tuneOf, slot, store] using free
  · exact h

theorem beginSegment_planSound {s : State} (i : Nat) (g : Segment) (t : Time) (h : PlanSound s) (hp : s.plan.play ≠ .idle) :
    PlanSound (beginSegment i g t s) := by
  have opened : PlanSound (segmentOpened i g t s) := h.moved rfl rfl rfl rfl hp (by simp [segmentOpened_play])
  exact planSound_about (segmentOpened_beginSegment i g t s) (by decide) opened

theorem startSegment_planSound {s : State} (h : PlanSound s) (hp : s.plan.play ≠ .idle) : PlanSound (startSegment s) := by
  unfold startSegment
  split
  · exact beginSegment_planSound _ _ _ h hp
  · exact h

theorem afterSegment_planSound {s : State} (h : PlanSound s) (hp : s.plan.play ≠ .idle) : PlanSound (afterSegment s) := by
  unfold afterSegment
  split
  · exact planSound_about (mapChanged_touches _) (by decide) (h.setPlay hp (by decide))
  · split
    · have t := retime_touches s
      exact startSegment_planSound (planSound_about t (by decide) h) (t.play.symm ▸ hp)
    · exact planSound_about (mapChanged_touches _) (by decide) (h.setPlay hp (by decide))

theorem endSegment_planSound {s : State} (h : PlanSound s) (hp : s.plan.play ≠ .idle) : PlanSound (endSegment s) := by
  unfold endSegment
  split
  · rename_i g _
    have t : Touches [.order, .shutters, .map, .pauses, .cues, .follower, .mode, .counters] s
        (followerSegmentEnd g (countAll (raiseClock (clockAtEnd s) s))) :=
      ((raiseClock_touches _ s).trans (countAll_touches _) (rs := [.order, .shutters])).trans (followerSegmentEnd_touches _ _)
    exact afterSegment_planSound (planSound_about t (by decide) h) (t.play.symm ▸ hp)
  · exact h

theorem segmentStartDue_play {s : State} (h : segmentStartDue s = true) : s.plan.play = .starting ∨ s.plan.play = .rest := by
  unfold segmentStartDue at h
  simp only [Bool.and_eq_true, Bool.or_eq_true, beq_iff_eq] at h
  exact h.1

theorem segmentEndDue_play {s : State} (h : segmentEndDue s = true) : s.plan.play = .segment := by
  unfold segmentEndDue at h
  simp only [Bool.and_eq_true, beq_iff_eq] at h
  exact h.1.1

theorem closingHolds_play {s : State} (h : closingHolds s = true) : s.plan.play = .closing := by
  unfold closingHolds at h
  simp only [Bool.and_eq_true, beq_iff_eq] at h
  exact h.1.1.1

theorem segmentStartDue_ne_idle {s : State} (h : segmentStartDue s = true) : s.plan.play ≠ .idle := by
  rcases segmentStartDue_play h with h | h <;> simp [h]

theorem segmentEndDue_ne_idle {s : State} (h : segmentEndDue s = true) : s.plan.play ≠ .idle := by
  simp [segmentEndDue_play h]

theorem actOn_planSound {w : Wait} {s : State} (due : w.Due s) (h : PlanSound s) : PlanSound (actOn w s) := by
  cases w with
  | entry => exact planSound_about (actOnHead_touches s) (by decide) h
  | pauseEnd => exact planSound_about (actPauseEnd_pauseParts s) (by decide) h
  | pauseStart => exact planSound_about (actPauseStart_pauseParts s) (by decide) h
  | segmentEnd => exact endSegment_planSound h (segmentEndDue_ne_idle due)
  | segmentStart => exact startSegment_planSound h (segmentStartDue_ne_idle due)
  | cue => exact planSound_about (missCue_touches _ s) (by decide) h
  | rejoin => exact planSound_about (rejoined_touches s) (by decide) h
  | line => exact planSound_about (sendLine_touches s _) (by decide) h
  | close => exact closeHymn_planSound h

theorem settle_planSound (before : State) {s : State} (h : PlanSound s) : PlanSound (settle before s) :=
  settle_keeps_due (fun _ h => planSound_about (ps := [.outside]) (.of_merge rfl) (by decide) h) (fun _ _ => actOn_planSound)
    before h

theorem stopPart_planSound {s : State} (line : Bool) (h : PlanSound s) : PlanSound (stopPart line s) := by
  have synced := planSound_about (syncRamps_touches s) (by decide) h
  have changed {u : State} (k : PlanSound u) : PlanSound (mapChanged u) := planSound_about (mapChanged_touches u) (by decide) k
  unfold stopPart
  dsimp only
  split
  · exact changed (planSound_about (stopAt_stopParts _ _ _) (by decide) synced)
  · rename_i _ c g hp _ _
    have t := stopAt_stopParts c g.sTo (syncRamps s)
    exact changed ((planSound_about t (by decide) synced).setPlay (by rw [t.play, hp]; nofun) (by decide))
  · rename_i _ _ _ hp
    have closed : PlanSound (startingClosed (syncRamps s)) := synced.moved rfl rfl rfl rfl (by rw [hp]; nofun)
      (by simp [startingClosed])
    exact changed (planSound_about (startingClosed_stopStarting _) (by decide) closed)
  · exact synced

theorem closeRest_planSound {s : State} (h : PlanSound s) : PlanSound (closeRest s) := by
  unfold closeRest
  split
  · exact h.setPlay (by simp [‹s.plan.play = .rest ∧ _›.1]) (by decide)
  · exact h

/-- VERSES gives the active plan a new verse count and keeps its tune (R41). -/
theorem setVerses_planSound {s : State} {p : Plan} {n : Nat} (order : List Segment) (h : PlanSound s)
    (hp : s.plan.active = some p) : PlanSound (setVerses { p with verseCount := n } order s) := by
  have counted : PlanSound (setPlan { s.plan with active := some { p with verseCount := n } } s) := by
    refine ⟨?_, fun q hq => ?_, h.queuedReady⟩
    · have := h.active
      rw [hp] at this
      exact this
    · cases hq
      exact h.activeReady p hp
  have cut := planSound_about (versesCut_touches { p with verseCount := n } order s) (by decide) counted
  rw [setVerses_eq]
  exact planSound_about (mapChanged_after (advanceCursor_touches _)) (by decide) (closeRest_planSound cut)

theorem doVerses_planSound {s : State} (b : List Byte) (h : PlanSound s) : PlanSound (doVerses b s).1 := by
  unfold doVerses
  dsimp only
  split
  · exact h
  · split
    · exact h
    · split
      · exact h
      · split
        · exact setVerses_planSound _ h ‹_›
        · exact h

/-! #### The requests of the plan and of its tunes -/

theorem doPlanSet_planSound {s : State} (b : List Byte) (h : PlanSound s) : PlanSound (doPlanSet b s).1 := by
  unfold doPlanSet
  split
  · exact h
  · split
    · exact h
    · exact ⟨h.active, h.activeReady, fun hq => absurd hq ‹_›⟩

theorem doPlanCancel_planSound {s : State} (h : PlanSound s) : PlanSound (doPlanCancel s).1 := by
  unfold doPlanCancel
  split
  · exact ⟨h.active, h.activeReady, fun hq => nomatch hq⟩
  · split
    · exact ⟨h.active, h.activeReady, fun hq => absurd hq ‹¬s.plan.queued = true›⟩
    · exact h

theorem doPlanStartNow_planSound {s : State} (b : List Byte) (h : PlanSound s) : PlanSound (doPlanStartNow b s).1 := by
  unfold doPlanStartNow
  split
  · exact h
  · split
    · exact h
    · exact startStaged_planSound h

theorem startable_of_not_refused {s : State} (h : startRefusal s = none) : ∃ p x, startable s = some (p, x) := by
  unfold startRefusal at h
  split at h
  · cases h
  · split at h
    · cases h
    · split at h
      · exact ⟨_, _, ‹startable s = some _›⟩
      · cases h

theorem doPlanStartNext_planSound {s : State} (h : PlanSound s) : PlanSound (doPlanStartNext s).1 := by
  unfold doPlanStartNext
  split
  · exact h
  · split
    · exact startStaged_planSound h
    · obtain ⟨p, x, hx⟩ := startable_of_not_refused ‹startRefusal s = none›
      obtain ⟨hs, ht⟩ := startable_cases hx
      exact ⟨h.active, h.activeReady, fun _ => ⟨p, hs, Option.isSome_iff_exists.2 ⟨x, ht⟩⟩⟩

theorem doStopNow_planSound {s : State} (b : List Byte) (h : PlanSound s) : PlanSound (doStopNow b s).1 := by
  have ramps : PlanSound (idleRamps s) := planSound_about (mapShutters_touches _ s) (by decide) h
  unfold doStopNow
  split
  · exact h
  · split
    · split
      · exact h
      · dsimp only
        split
        · exact ramps
        · exact planSound_about (abortRun_touches _ _ _) (by decide) ramps
    · exact tearDown_planSound _ ⟨h.active, h.activeReady, fun hq => nomatch hq⟩

theorem doStopPart_planSound {s : State} (line : Bool) (h : PlanSound s) : PlanSound (doStopPart line s).1 := by
  unfold doStopPart
  split
  · exact h
  · exact h
  all_goals exact stopPart_planSound line h

theorem stopPartAtOnce_planSound {s : State} (line : Bool) (h : PlanSound s) : PlanSound (stopPartAtOnce line s).1 := by
  unfold stopPartAtOnce
  split
  · exact doStopPart_planSound line h
  · exact settle_planSound s (doStopPart_planSound line h)

theorem versesAtOnce_planSound {s : State} (b : List Byte) (h : PlanSound s) : PlanSound (versesAtOnce b s).1 := by
  unfold versesAtOnce
  split
  · exact settle_planSound s (doVerses_planSound b h)
  · exact doVerses_planSound b h

/-- A slot that no plan uses may take any contents. -/
theorem PlanSound.setSlot {s : State} (h : PlanSound s) {i : Fin 16} (free : ¬InUse s i) (x : Slot) (n : Nat) :
    PlanSound (setSlot i x n s) := by
  have ready {p : Plan} (hp : p.slot ≠ i) (k : tuneReady s p) : tuneReady (Machine.setSlot i x n s) p := by
    simp only [tuneReady, tuneOf, slot_setSlot_ne _ _ _ hp.symm] at k ⊢
    exact k
  refine ⟨h.active, fun p hp => ready (fun e => free (.inl ⟨p, hp, e⟩)) (h.activeReady p hp), fun hq => ?_⟩
  obtain ⟨p, hs, hr⟩ := h.queuedReady hq
  exact ⟨p, hs, ready (fun e => free (.inr ⟨hq, p, hs, e⟩)) hr⟩

/-- A slot that a plan uses is READY. -/
theorem PlanSound.ready_of_inUse {s : State} (h : PlanSound s) {i : Fin 16} (used : InUse s i) : ∃ x, slot s i = .ready x := by
  have held {p : Plan} (k : tuneReady s p) : ∃ x, slot s p.slot = .ready x := by
    unfold tuneReady tuneOf at k
    cases e : slot s p.slot <;> simp [e] at k ⊢
  rcases used with ⟨p, hp, rfl⟩ | ⟨hq, p, hp, rfl⟩
  · exact held (h.activeReady p hp)
  · obtain ⟨q, hs, hr⟩ := h.queuedReady hq
    cases hp.symm.trans hs
    exact held hr

theorem doTuneBegin_planSound {s : State} (b : List Byte) (h : PlanSound s) : PlanSound (doTuneBegin b s).1 := by
  unfold doTuneBegin
  dsimp only
  iterate 3 (split; · exact h)
  rename_i used
  split
  · exact h
  · exact h.setSlot (fun k => used ((slotInUse_iff s _).2 k)) _ _

theorem doTuneErase_planSound {s : State} (b : List Byte) (h : PlanSound s) : PlanSound (doTuneErase b s).1 := by
  unfold doTuneErase
  dsimp only
  iterate 2 (split; · exact h)
  exact h.setSlot (fun k => ‹¬slotInUse s _ = true› ((slotInUse_iff s _).2 k)) _ _

/-- A LOADING slot may take any contents: no plan uses it. -/
theorem PlanSound.setLoading {s : State} (h : PlanSound s) {i : Fin 16} {d : TuneHeader} {es : List Event}
    (loading : slot s i = .loading d es) (x : Slot) (n : Nat) : PlanSound (Machine.setSlot i x n s) :=
  h.setSlot (fun used => by
    obtain ⟨y, hy⟩ := h.ready_of_inUse used
    exact nomatch loading.symm.trans hy) x n

theorem doTuneData_planSound {s : State} (b : List Byte) (h : PlanSound s) : PlanSound (doTuneData b s).1 := by
  unfold doTuneData
  dsimp only
  split
  · exact h
  · split
    · rename_i loading
      split
      · exact h
      · split
        · exact h
        · split
          · exact h
          · exact h.setLoading loading _ _
    · exact h
    · exact h

theorem doTuneEnd_planSound {s : State} (b : List Byte) (h : PlanSound s) : PlanSound (doTuneEnd b s).1 := by
  unfold doTuneEnd
  dsimp only
  split
  · exact h
  · split
    · split
      · exact h.setLoading ‹_› _ _
      · exact h.setLoading ‹_› _ _
    · exact h
    · exact h

theorem planSound_of_powerOn {s : State} (h : s.plan = .powerOn) : PlanSound s :=
  ⟨by rw [h]; decide, fun p hp => (by rw [h] at hp; cases hp), fun hq => (by rw [h] at hq; cases hq)⟩

theorem afterLeads_planSound (before : State) {s : State} (h : PlanSound s) : PlanSound (afterLeads before s) := by
  unfold afterLeads
  split
  · exact settle_planSound before (planSound_about (retime_touches s) (by decide) h)
  · exact h

/-! #### The events -/

theorem sourceAbsent_planSound {s : State} (src : YieldSource) (h : PlanSound s) : PlanSound (sourceAbsent src s) := by
  have gone := planSound_about (setSource_touches src false s) (by decide) h
  unfold sourceAbsent
  dsimp only
  split
  · split
    · exact startQueued_planSound (planSound_about (releaseYield_touches _) (by decide) gone)
    · exact planSound_about (awaitTest_touches _) (by decide) gone
  · exact gone

theorem claim_planSound {s : State} (src : YieldSource) (h : PlanSound s) : PlanSound (claim src s) :=
  closeIfHeld_planSound (planSound_about (sourcePresent_touches src s) (by decide) h)

theorem headAtOnce_planSound {s : State} (h : PlanSound s) : PlanSound (headAtOnce s) := by
  have acted := planSound_about (actOnHead_touches s) (by decide) h
  unfold headAtOnce
  split
  · exact settle_planSound s acted
  · exact closeIfHeld_planSound acted

theorem onsetAtOnce_planSound {s : State} (h : PlanSound s) : PlanSound (onsetAtOnce s) := by
  have synced := planSound_about (syncRamps_touches s) (by decide) h
  have taken := planSound_about (takeOnset_touches _) (by decide) synced
  unfold onsetAtOnce
  dsimp only
  split
  · exact taken
  · exact settle_planSound s (planSound_about (mapChanged_touches _) (by decide) taken)

theorem expandAtOnce_planSound {s : State} (h : PlanSound s) : PlanSound (expandAtOnce s) := by
  have synced := planSound_about (syncRamps_touches s) (by decide) h
  unfold expandAtOnce
  split
  · exact settle_planSound s (planSound_about (expand_touches _ _) (by decide) synced)
  · exact h

theorem doTempo_planSound {s : State} (b : List Byte) (h : PlanSound s) : PlanSound (doTempo b s).1 := by
  unfold doTempo
  split
  · exact h
  · split
    · exact h
    · have set := planSound_about (setTempo_touches (wordAt b 0) s) (by decide) h
      exact settle_planSound s (planSound_about (mapChanged_touches _) (by decide) set)

theorem guarded_keeps {P : State → Prop} {accept : Handler} {s : State} (checks : List (Nat × Bool)) (h : P s)
    (k : firstFailing checks = none → settingsClosed s = false → P (accept s).1) : P (guarded checks accept s).1 := by
  unfold guarded
  split
  · exact h
  · split
    · exact h
    · exact k ‹_› (Bool.eq_false_iff.2 ‹_›)

theorem doMicSet_planSound {s : State} (b : List Byte) (h : PlanSound s) : PlanSound (doMicSet b s).1 := by
  refine guarded_keeps _ h fun _ _ => afterLeads_planSound s (planSound_about (updateInUse_touches _) (by decide) ?_)
  exact planSound_about (ps := [.mics, .fallback]) (.of_merge rfl) (by decide) h

theorem doDivisionSet_planSound {s : State} (b : List Byte) (h : PlanSound s) : PlanSound (doDivisionSet b s).1 :=
  guarded_keeps _ h fun _ _ => afterLeads_planSound s (planSound_about (writeDivision_touches _ _ s) (by decide) h)

theorem exec_planSound (i : Instr) (s s' : State) (hi : ∃ p ∈ [Part.store, Part.plan], p ∈ partsOf i) (hx : exec i s = .next s')
    (h : PlanSound s) : PlanSound s' := by
  cases i <;> dsimp only [exec] at hx
  case resetAssert =>
    cases hx
    exact planSound_of_powerOn rfl
  case resetRelease rate1 rate0 =>
    unfold execResetRelease at hx
    cases hx
    split
    · exact planSound_about (release_touches rate1 rate0 s) (by decide) h
    · exact h
  case tuneBegin t g b => exact planSound_about.request_keeps hx h fun _ => doTuneBegin_planSound b
  case tuneData t g b => exact planSound_about.request_keeps hx h fun _ => doTuneData_planSound b
  case tuneEnd t g b => exact planSound_about.request_keeps hx h fun _ => doTuneEnd_planSound b
  case tuneErase t g b => exact planSound_about.request_keeps hx h fun _ => doTuneErase_planSound b
  case planSet t g b => exact planSound_about.request_keeps hx h fun _ => doPlanSet_planSound b
  case planCancel t g b => exact planSound_about.request_keeps hx h fun _ => doPlanCancel_planSound
  case planStartNow t g b => exact planSound_about.request_keeps hx h fun _ => doPlanStartNow_planSound b
  case planStartNext t g b => exact planSound_about.request_keeps hx h fun _ => doPlanStartNext_planSound
  case stopNow t g b => exact planSound_about.request_keeps hx h fun _ => doStopNow_planSound b
  case stopLine t g b => exact planSound_about.request_keeps hx h fun _ => stopPartAtOnce_planSound true
  case stopVerse t g b => exact planSound_about.request_keeps hx h fun _ => stopPartAtOnce_planSound false
  case verses t g b => exact planSound_about.request_keeps hx h fun _ => versesAtOnce_planSound b
  case tempo t g b => exact planSound_about.request_keeps hx h fun _ => doTempo_planSound b
  case micSet t g b => exact planSound_about.request_keeps hx h fun _ => doMicSet_planSound b
  case divisionSet t g b => exact planSound_about.request_keeps hx h fun _ => doDivisionSet_planSound b
  case yield t g b => exact planSound_about.request_keeps hx h fun _ => claim_planSound .link
  case resume t g b => exact planSound_about.request_keeps hx h fun _ => sourceAbsent_planSound .link
  case quietReset t g b => exact planSound_about.request_keeps hx h fun _ _ => planSound_of_powerOn rfl
  case tempReading t r =>
    refine planSound_about.event_keeps hx h fun u _ hu => afterLeads_planSound _ ?_
    exact planSound_about ((takeReading_touches r _).after (ps := [.clock]) (.of_merge rfl) (rs := [.clock, .history, .acoustic,
      .outgoing, .link])) (by decide) hu
  case onsetTaken t => exact planSound_about.event_keeps hx h fun _ _ => onsetAtOnce_planSound
  case pauseStart t =>
    exact planSound_about.event_keeps hx h fun u _ hu =>
      settle_planSound u (planSound_about (actPauseStart_pauseParts u) (by decide) hu)
  case pauseEnd t =>
    exact planSound_about.event_keeps hx h fun u _ hu =>
      settle_planSound u (planSound_about (actPauseEnd_pauseParts u) (by decide) hu)
  case segmentStart t =>
    exact planSound_about.event_keeps hx h fun u due hu =>
      settle_planSound u (startSegment_planSound hu (segmentStartDue_ne_idle due))
  case segmentEnd t =>
    exact planSound_about.event_keeps hx h fun u due hu => settle_planSound u (endSegment_planSound hu (segmentEndDue_ne_idle due))
  case expansion t => exact planSound_about.event_keeps hx h fun _ _ => expandAtOnce_planSound
  case entryFallsDue t => exact planSound_about.event_keeps hx h fun _ _ => headAtOnce_planSound
  case hymnClose t => exact planSound_about.event_keeps hx h fun _ _ => closeHymn_planSound
  case ctTouchHeld t =>
    exact planSound_about.event_keeps hx h fun u _ hu =>
      claim_planSound .pin (planSound_about (ps := [.yielding]) (.of_merge rfl) (by decide) hu)
  case ctReleaseDelayEnd t =>
    exact planSound_about.event_keeps hx h fun u _ hu =>
      sourceAbsent_planSound .pin (planSound_about (ps := [.yielding]) (.of_merge rfl) (by decide) hu)
  all_goals simp [partsOf, requestParts] at hi

/-- Settles O58: the play state leaves IDLE only with a plan whose tune is READY, and no request changes the slot of a tune in
use. -/
theorem stepKeepsPlan : Obligations.StepKeepsPlan :=
  fun _ _ hs h => planSound_about.step_keeps exec_planSound hs h

end Sys2Proof.Machine

/-! PROOFS. The Tempo Follower's invariant (R79, R91), kept by every step. -/

namespace Sys2Proof.Machine

-- The proofs are elaborated one after another, which keeps the whole text within its memory.
set_option Elab.async false

/-! ### Pauses and segment ends -/

/-- The RUNNING pause has left, the map is anchored at its end and the re-entry is marked, before the mode returns (R98). -/
def pauseLeft (p : Pause) (t : Time) (s : State) : State :=
  let u := reAnchor t p.pos (setPauses (s.map.pauses.filter fun q => q != p) s)
  if followsCurrent u then reEnterAfter p.pos u else u

/-- FERMATA returns to FOLLOW (R98). -/
def fermataEnds (s : State) : State := if s.follower.mode = .fermata then setMode .follow s else s

theorem endPause_eq (s : State) : endPause s = match runningPause s, pauseEndTime s with
    | some p, some t => fermataEnds (pauseLeft p t s)
    | _, _ => s := rfl

theorem pauseLeft_touches (p : Pause) (t : Time) (s : State) : Touches [.map, .pauses, .cues, .follower] s (pauseLeft p t s) := by
  have anchored : Touches [.map, .pauses] s (reAnchor t p.pos (setPauses (s.map.pauses.filter fun q => q != p) s)) := .of_merge rfl
  unfold pauseLeft
  exact .ite ((reEnterAfter_touches _ _).after anchored) anchored.mono

/-- The map at a segment's end, after a pause that ran (R81). -/
def anchoredAtEnd (g : Segment) (s : State) : State :=
  match currentTime (endPause s) g.sTo true with
  | some t => reAnchor t g.sTo (setPauses ((endPause s).map.pauses.filter fun p => some p.segment != (endPause s).map.current)
      (endPause s))
  | none => endPause s

/-- The cues of the current segment leave, the PENDING ones counted (R81). -/
def cuesLeft (s : State) : State :=
  countMissed (pendingCount (s.follower.cues.filter (ofCurrent s))) (setCues (s.follower.cues.filter fun c => !ofCurrent s c) s)

theorem followerSegmentEnd_eq (g : Segment) (s : State) :
    followerSegmentEnd g s = enterMode .lead (cuesLeft (anchoredAtEnd g s)) := by
  unfold followerSegmentEnd anchoredAtEnd cuesLeft
  rfl

theorem cuesLeft_touches (s : State) : Touches [.cues, .counters] s (cuesLeft s) := .of_merge rfl

theorem endPause_anchoredAtEnd (g : Segment) (s : State) : Touches [.map, .pauses] (endPause s) (anchoredAtEnd g s) := by
  unfold anchoredAtEnd
  split
  · exact .of_merge rfl
  · exact .refl _ _

/-! ### The Tempo Follower's invariant -/

theorem followSound_about : About [.mode, .plan] FollowSound := by
  intro ps s s' t ha h
  have hm : Part.mode ∉ ps := ha _ (by simp)
  have hp : Part.plan ∉ ps := ha _ (by simp)
  exact ⟨t.settings hm ▸ h.allowance, t.settings hm ▸ t.credit hm ▸ h.credit, t.credit hm ▸ t.mode hm ▸ h.steady,
    t.mode hm ▸ t.play hp ▸ h.off⟩

/-- A mode other than OFF, and other than STEADY, with a credit above 0 suits every play state other than IDLE. -/
theorem FollowSound.enter {s s' : State} (h : FollowSound s) (settings : s'.follower.settings = s.follower.settings)
    (off : s'.follower.mode ≠ .off) (steady : s'.follower.mode ≠ .steady) (play : s'.plan.play ≠ .idle)
    (low : 1 ≤ s'.follower.credit) (high : s'.follower.credit ≤ s.follower.settings.allowance) : FollowSound s' :=
  ⟨settings ▸ h.allowance, settings ▸ high, iff_of_false (by omega) steady, iff_of_false off play⟩

theorem FollowSound.awake {s : State} (h : FollowSound s) (on : s.follower.mode ≠ .off) : s.plan.play ≠ .idle :=
  fun hp => on (h.off.2 hp)

theorem FollowSound.credit_pos {s : State} (h : FollowSound s) (m : s.follower.mode ≠ .steady) : 1 ≤ s.follower.credit :=
  Nat.one_le_iff_ne_zero.2 fun hc => m (h.steady.1 hc)

theorem FollowSound.setPlay {s : State} {m : PlayState} (h : FollowSound s) (hp : s.plan.play ≠ .idle) (hm : m ≠ .idle) :
    FollowSound (setPlay m s) :=
  ⟨h.allowance, h.credit, h.steady, iff_of_false (fun k => hp (h.off.1 k)) hm⟩

/-- The mode becomes LEAD or FOLLOW at a boundary of segments (R79, R80, R81). -/
theorem FollowSound.enterMode {s : State} {m : FollowerMode} (h : FollowSound s) (hp : s.plan.play ≠ .idle) (off : m ≠ .off)
    (steady : m ≠ .steady) : FollowSound (enterMode m s) :=
  h.enter rfl off steady hp h.allowance (Nat.le_refl _)

theorem followStateNotice_followSound {s : State} (pos : Nat) (h : FollowSound s) : FollowSound (followStateNotice pos s) :=
  followSound_about (followStateNotice_touches pos s) (by decide) h

/-! #### Cues and onsets -/

theorem missCost_followSound {s : State} (c : Cue) (h : FollowSound s) : FollowSound (missCost c s) := by
  unfold missCost
  split
  · rename_i hm _
    have awake := h.awake (by rw [hm]; nofun)
    split
    · exact followStateNotice_followSound _ ⟨h.allowance, Nat.zero_le _, iff_of_true rfl rfl, iff_of_false nofun awake⟩
    · exact h.enter rfl (by rw [hm]; nofun) (by rw [hm]; nofun) awake (by show 1 ≤ _ - 1; omega) (Nat.le_trans (Nat.sub_le _ _) h.credit)
  · exact followSound_about (ps := [.follower]) (.of_merge rfl) (by decide) h
  · exact h

theorem missCue_followSound {s : State} (p : Cue → Bool) (h : FollowSound s) : FollowSound (missCue p s) := by
  unfold missCue
  split
  · exact h
  · rename_i a c b _
    have missed : FollowSound (missCost c (countMissed 1 (setCues (a ++ b) s))) :=
      missCost_followSound c (followSound_about (ps := [.cues, .counters]) (.of_merge rfl) (by decide) h)
    dsimp only
    split
    · exact missed
    · exact followSound_about (passKindOn_touches _ _ _) (by decide) missed

theorem passOver_followSound {s : State} (before rest : List Cue) (h : FollowSound s) : FollowSound (passOver before rest s) := by
  have step (s : State) (c : Cue) (k : FollowSound s) : FollowSound (missCost c (countMissed 1 s)) :=
    missCost_followSound c (followSound_about (ps := [.counters]) (.of_merge rfl) (by decide) k)
  unfold passOver
  generalize before.filter (awaited s) = cs
  have start : FollowSound (setCues (before.filter (fun c => !awaited s c) ++ rest) s) :=
    followSound_about (setCues_touches _ _) (by decide) h
  generalize setCues (before.filter (fun c => !awaited s c) ++ rest) s = u at start
  induction cs generalizing u with
  | nil => exact start
  | cons c cs ih => exact ih _ (step u c start)

theorem rejoinFollow_followSound {s : State} (pos : Nat) (h : FollowSound s) (hm : s.follower.mode = .steady) :
    FollowSound (rejoinFollow pos s) :=
  followStateNotice_followSound pos
    (h.enter rfl nofun nofun (h.awake (by rw [hm]; nofun)) h.allowance (Nat.le_refl _))

theorem raiseCredit_followSound {s : State} (h : FollowSound s) (hm : s.follower.mode = .follow) : FollowSound (raiseCredit s) := by
  have low := h.allowance
  refine h.enter rfl (by rw [show (raiseCredit s).follower.mode = _ from hm]; nofun)
    (by rw [show (raiseCredit s).follower.mode = _ from hm]; nofun) (h.awake (by rw [hm]; nofun)) ?_ (Nat.min_le_right _ _)
  show 1 ≤ min (s.follower.credit + 1) s.follower.settings.allowance
  omega

theorem takeMatch_followSound {s : State} (c : Cue) (tOn : Time) (e : Int) (h : FollowSound s) :
    FollowSound (takeMatch c tOn e s) := by
  unfold takeMatch
  split
  · split
    · exact followSound_about (markMatched_touches _ _ _) (by decide)
        (followSound_about (ps := [.follower]) (.of_merge rfl) (by decide) h)
    · exact followSound_about (applyMatch_touches _ _ _ _) (by decide) (rejoinFollow_followSound _ h ‹_›)
  · exact h
  · exact h
  · exact h
  · have t := applyMatch_touches c tOn e s
    exact raiseCredit_followSound (followSound_about t (by decide) h) (t.mode.trans ‹_›)

theorem takeOnset_followSound {s : State} (h : FollowSound s) : FollowSound (takeOnset s) := by
  have counted {u v : State} (t : Touches [.counters] u v) (k : FollowSound u) : FollowSound v :=
    followSound_about t (by decide) k
  unfold takeOnset
  split
  · exact h
  · rename_i o rest _
    have taken : FollowSound { s with front := { s.front with onsets := rest } } :=
      followSound_about (ps := [.onsets]) (.of_merge rfl) (by decide) h
    unfold meetOnset
    split
    · exact counted (.of_merge rfl) taken
    · split
      · exact counted (.of_merge rfl) taken
      · split
        · exact counted (.of_merge rfl) taken
        · exact takeMatch_followSound _ _ _ (passOver_followSound _ _ taken)

/-! #### Pauses and segments -/

theorem startPause_followSound {s : State} (p : Pause) (h : FollowSound s) : FollowSound (startPause p s) := by
  by_cases hm : s.follower.mode = .follow
  · have mode : (startPause p s).follower.mode = .fermata := if_pos hm
    exact h.enter rfl (by rw [mode]; nofun) (by rw [mode]; nofun) (h.awake (by rw [hm]; nofun))
      (h.credit_pos (by rw [hm]; nofun)) h.credit
  · have mode : (startPause p s).follower.mode = s.follower.mode := if_neg hm
    exact ⟨h.allowance, h.credit, mode ▸ h.steady, mode ▸ h.off⟩

theorem fermataEnds_followSound {s : State} (h : FollowSound s) : FollowSound (fermataEnds s) := by
  unfold fermataEnds
  split
  · rename_i hm
    exact h.enter rfl nofun nofun (h.awake (by rw [hm]; nofun)) (h.credit_pos (by rw [hm]; nofun)) h.credit
  · exact h

theorem endPause_followSound {s : State} (h : FollowSound s) : FollowSound (endPause s) := by
  rw [endPause_eq]
  split
  · exact fermataEnds_followSound (followSound_about (pauseLeft_touches _ _ s) (by decide) h)
  · exact h

theorem mapChanged_followSound {s : State} (h : FollowSound s) : FollowSound (mapChanged s) :=
  followSound_about (mapChanged_touches s) (by decide) h

theorem syncRamps_followSound {s : State} (h : FollowSound s) : FollowSound (syncRamps s) :=
  followSound_about (syncRamps_touches s) (by decide) h

theorem actPauseStart_followSound {s : State} (h : FollowSound s) : FollowSound (actPauseStart s) := by
  unfold actPauseStart
  split
  · exact mapChanged_followSound (startPause_followSound _ (syncRamps_followSound h))
  · exact h

theorem actPauseEnd_followSound {s : State} (h : FollowSound s) : FollowSound (actPauseEnd s) :=
  mapChanged_followSound (endPause_followSound (syncRamps_followSound h))

theorem followerSegmentEnd_followSound {s : State} (g : Segment) (h : FollowSound s) (hp : s.plan.play ≠ .idle) :
    FollowSound (followerSegmentEnd g s) := by
  have t : Touches [.map, .pauses, .cues, .follower, .mode, .counters] s (cuesLeft (anchoredAtEnd g s)) :=
    (cuesLeft_touches _).after ((endPause_anchoredAtEnd g s).after (endPause_touches s)
      (rs := [.map, .pauses, .cues, .follower, .mode]))
  have left := followSound_about (endPause_anchoredAtEnd g s) (by decide) (endPause_followSound h)
  rw [followerSegmentEnd_eq]
  exact (followSound_about (cuesLeft_touches _) (by decide) left).enterMode (t.play.symm ▸ hp) nofun nofun

theorem hymnStart_followSound {p : Plan} {x : Tune} {s : State} (h : FollowSound s) : FollowSound (hymnStart p x s) := by
  have placed : FollowSound (hymnPlaced p x s) := h.enter rfl nofun nofun nofun h.allowance (Nat.le_refl _)
  exact followSound_about (hymnPlaced_hymnStart p x s) (by decide) placed

theorem startQueued_followSound {s : State} (h : FollowSound s) : FollowSound (startQueued s) := by
  unfold startQueued
  split
  · split
    · exact hymnStart_followSound h
    · exact h
  · exact h

theorem hymnOver_followSound {s : State} (reason : HymnEndReason) (h : FollowSound s) : FollowSound (hymnOver reason s) := by
  obtain ⟨plan, -, follower, -⟩ := hymnCleared_gone s
  have cleared : FollowSound (hymnCleared s) := by
    have low := h.allowance
    refine ⟨?_, Nat.le_of_eq (by rw [follower]), ?_, ?_⟩
    · rw [follower]
      exact low
    · rw [follower]
      exact iff_of_false (fun k : s.follower.settings.allowance = 0 => by omega) nofun
    · rw [follower, plan]
      exact iff_of_true rfl rfl
  rw [hymnOver_eq]
  exact followSound_about (notice_touches _ _) (by decide) cleared

theorem idleYield_followSound {s : State} (h : FollowSound s) : FollowSound (idleYield s) :=
  followSound_about (idleYield_touches s) (by decide) h

theorem tearDown_followSound {s : State} (reason : HymnEndReason) (h : FollowSound s) : FollowSound (tearDown reason s) :=
  idleYield_followSound (hymnOver_followSound reason (followSound_about (releaseAll_touches s) (by decide) h))

theorem closeHymn_followSound {s : State} (h : FollowSound s) : FollowSound (closeHymn s) :=
  startQueued_followSound (idleYield_followSound (hymnOver_followSound _ h))

theorem closeIfHeld_followSound {s : State} (h : FollowSound s) : FollowSound (closeIfHeld s) := by
  unfold closeIfHeld
  split
  · exact closeHymn_followSound h
  · exact h

theorem startStaged_followSound {s : State} (h : FollowSound s) : FollowSound (startStaged s) := by
  unfold startStaged
  split
  · refine hymnStart_followSound ?_
    split
    · exact h
    · exact tearDown_followSound _ h
  · exact h

theorem beginSegment_followSound {s : State} (i : Nat) (g : Segment) (t : Time) (h : FollowSound s) :
    FollowSound (beginSegment i g t s) := by
  have opened : FollowSound (segmentOpened i g t s) := by
    have mode : (segmentOpened i g t s).follower.mode = modeOf g.follow := rfl
    refine h.enter rfl ?_ ?_ nofun h.allowance (Nat.le_refl _) <;> rw [mode] <;> cases g.follow <;> nofun
  exact followSound_about (segmentOpened_beginSegment i g t s) (by decide) opened

theorem startSegment_followSound {s : State} (h : FollowSound s) : FollowSound (startSegment s) := by
  unfold startSegment
  split
  · exact beginSegment_followSound _ _ _ h
  · exact h

theorem afterSegment_followSound {s : State} (h : FollowSound s) (hp : s.plan.play ≠ .idle) : FollowSound (afterSegment s) := by
  unfold afterSegment
  split
  · exact mapChanged_followSound (h.setPlay hp nofun)
  · split
    · exact startSegment_followSound (followSound_about (retime_touches s) (by decide) h)
    · exact mapChanged_followSound (h.setPlay hp nofun)

theorem endSegment_followSound {s : State} (h : FollowSound s) (hp : s.plan.play ≠ .idle) : FollowSound (endSegment s) := by
  unfold endSegment
  split
  · rename_i g _
    have t : Touches [.order, .shutters] s (countAll (raiseClock (clockAtEnd s) s)) :=
      (raiseClock_touches _ s).trans (countAll_touches _)
    have k := followerSegmentEnd_touches g (countAll (raiseClock (clockAtEnd s) s))
    exact afterSegment_followSound (followerSegmentEnd_followSound g (followSound_about t (by decide) h) (t.play.symm ▸ hp))
      (k.play.symm ▸ t.play.symm ▸ hp)
  · exact h

theorem actOn_followSound {w : Wait} {s : State} (due : w.Due s) (h : FollowSound s) : FollowSound (actOn w s) := by
  cases w with
  | entry => exact followSound_about (actOnHead_touches s) (by decide) h
  | pauseEnd => exact actPauseEnd_followSound h
  | pauseStart => exact actPauseStart_followSound h
  | segmentEnd => exact endSegment_followSound h (segmentEndDue_ne_idle due)
  | segmentStart => exact startSegment_followSound h
  | cue => exact missCue_followSound _ h
  | rejoin => exact followSound_about (rejoined_touches s) (by decide) h
  | line => exact followSound_about (sendLine_touches s _) (by decide) h
  | close => exact closeHymn_followSound h

theorem settle_followSound (before : State) {s : State} (h : FollowSound s) : FollowSound (settle before s) :=
  settle_keeps_due (fun _ h => followSound_about (ps := [.outside]) (.of_merge rfl) (by decide) h)
    (fun _ _ => actOn_followSound) before h

theorem afterLeads_followSound (before : State) {s : State} (h : FollowSound s) : FollowSound (afterLeads before s) := by
  unfold afterLeads
  split
  · exact settle_followSound before (followSound_about (retime_touches s) (by decide) h)
  · exact h

/-! #### The requests -/

theorem stopPart_followSound {s : State} (line : Bool) (h : FollowSound s) : FollowSound (stopPart line s) := by
  have synced := syncRamps_followSound h
  unfold stopPart
  dsimp only
  split
  · exact mapChanged_followSound (followSound_about (stopAt_stopParts _ _ _) (by decide) synced)
  · rename_i _ c g hp _ _
    have t := stopAt_stopParts c g.sTo (syncRamps s)
    exact mapChanged_followSound ((followSound_about t (by decide) synced).setPlay (by rw [t.play, hp]; nofun) nofun)
  · rename_i hp
    have awake : (syncRamps s).plan.play ≠ .idle := by rw [hp]; nofun
    have closed : FollowSound (startingClosed (syncRamps s)) :=
      ⟨synced.allowance, synced.credit, synced.steady, iff_of_false (fun k => awake (synced.off.1 k)) nofun⟩
    exact mapChanged_followSound (followSound_about (startingClosed_stopStarting _) (by decide) closed)
  · exact synced

theorem doStopPart_followSound {s : State} (line : Bool) (h : FollowSound s) : FollowSound (doStopPart line s).1 := by
  unfold doStopPart
  split
  · exact h
  · exact h
  all_goals exact stopPart_followSound line h

theorem stopPartAtOnce_followSound {s : State} (line : Bool) (h : FollowSound s) : FollowSound (stopPartAtOnce line s).1 := by
  unfold stopPartAtOnce
  split
  · exact doStopPart_followSound line h
  · exact settle_followSound s (doStopPart_followSound line h)

theorem closeRest_followSound {s : State} (h : FollowSound s) : FollowSound (closeRest s) := by
  unfold closeRest
  split
  · exact h.setPlay (by rw [‹s.plan.play = .rest ∧ _›.1]; nofun) nofun
  · exact h

theorem setVerses_followSound {s : State} (p : Plan) (order : List Segment) (h : FollowSound s) :
    FollowSound (setVerses p order s) := by
  have counted : FollowSound (setPlan { s.plan with active := some p } s) := ⟨h.allowance, h.credit, h.steady, h.off⟩
  rw [setVerses_eq]
  exact mapChanged_followSound (followSound_about (advanceCursor_touches _) (by decide)
    (closeRest_followSound (followSound_about (versesCut_touches p order s) (by decide) counted)))

theorem doVerses_followSound {s : State} (b : List Byte) (h : FollowSound s) : FollowSound (doVerses b s).1 := by
  unfold doVerses
  dsimp only
  iterate 3 (split; · exact h)
  split
  · exact setVerses_followSound _ _ h
  · exact h

theorem versesAtOnce_followSound {s : State} (b : List Byte) (h : FollowSound s) : FollowSound (versesAtOnce b s).1 := by
  unfold versesAtOnce
  split
  · exact settle_followSound s (doVerses_followSound b h)
  · exact doVerses_followSound b h

theorem doPlanStartNow_followSound {s : State} (b : List Byte) (h : FollowSound s) : FollowSound (doPlanStartNow b s).1 := by
  unfold doPlanStartNow
  split
  · exact h
  · split
    · exact h
    · exact startStaged_followSound h

theorem doPlanStartNext_followSound {s : State} (h : FollowSound s) : FollowSound (doPlanStartNext s).1 := by
  unfold doPlanStartNext
  split
  · exact h
  · split
    · exact startStaged_followSound h
    · exact ⟨h.allowance, h.credit, h.steady, h.off⟩

theorem doStopNow_followSound {s : State} (b : List Byte) (h : FollowSound s) : FollowSound (doStopNow b s).1 := by
  have ramps : FollowSound (idleRamps s) := followSound_about (mapShutters_touches _ s) (by decide) h
  unfold doStopNow
  split
  · exact h
  · split
    · split
      · exact h
      · dsimp only
        split
        · exact ramps
        · exact followSound_about (abortRun_touches _ _ _) (by decide) ramps
    · exact tearDown_followSound _ ⟨h.allowance, h.credit, h.steady, h.off⟩

theorem doPlanSet_followSound {s : State} (b : List Byte) (h : FollowSound s) : FollowSound (doPlanSet b s).1 := by
  unfold doPlanSet
  split
  · exact h
  · split
    · exact h
    · exact ⟨h.allowance, h.credit, h.steady, h.off⟩

theorem doPlanCancel_followSound {s : State} (h : FollowSound s) : FollowSound (doPlanCancel s).1 := by
  unfold doPlanCancel
  split
  · exact ⟨h.allowance, h.credit, h.steady, h.off⟩
  · split
    · exact ⟨h.allowance, h.credit, h.steady, h.off⟩
    · exact h

theorem doTempo_followSound {s : State} (b : List Byte) (h : FollowSound s) : FollowSound (doTempo b s).1 := by
  unfold doTempo
  split
  · exact h
  · split
    · exact h
    · have set := followSound_about (setTempo_touches (wordAt b 0) s) (by decide) h
      exact settle_followSound s (mapChanged_followSound set)

theorem firstFailing_eq_none {cs : List (Nat × Bool)} : firstFailing cs = none ↔ ∀ c ∈ cs, c.2 = true := by
  induction cs with
  | nil => simp [firstFailing]
  | cons c cs ih =>
    unfold firstFailing
    split <;> simp_all

/-- Accepted follow settings keep the mode, which is OFF in IDLE, and set the credit to their allowance (R100). -/
theorem doFollowSet_followSound {s : State} (b : List Byte) (h : FollowSound s) : FollowSound (doFollowSet b s).1 := by
  refine guarded_keeps _ h fun checks closed => ?_
  have allowed : 1 ≤ (followOf b).allowance :=
    ((inRange_iff _ _ _).1 (firstFailing_eq_none.1 checks (3, inRange (byteAt b 3) 1 8) (by simp [followChecks]))).1
  have idle : s.plan.play = .idle := by
    unfold settingsClosed at closed
    simp at closed
    exact closed.1
  have off := h.off.2 idle
  exact ⟨allowed, Nat.le_refl _, iff_of_false (fun k : (followOf b).allowance = 0 => by omega)
    (fun k : s.follower.mode = .steady => by rw [off] at k; cases k), h.off⟩

theorem doMicSet_followSound {s : State} (b : List Byte) (h : FollowSound s) : FollowSound (doMicSet b s).1 := by
  refine guarded_keeps _ h fun _ _ => afterLeads_followSound s (followSound_about (updateInUse_touches _) (by decide) ?_)
  exact followSound_about (ps := [.mics, .fallback]) (.of_merge rfl) (by decide) h

theorem doDivisionSet_followSound {s : State} (b : List Byte) (h : FollowSound s) : FollowSound (doDivisionSet b s).1 :=
  guarded_keeps _ h fun _ _ => afterLeads_followSound s (followSound_about (writeDivision_touches _ _ s) (by decide) h)

theorem followSound_of_powerOn {s : State} (h : s.plan = .powerOn) (k : s.follower = .powerOn) : FollowSound s := by
  refine ⟨?_, ?_, ?_, ?_⟩ <;> rw [k]
  · decide
  · decide
  · decide
  · rw [h]
    decide

theorem quietReset_followSound {s : State} (h : FollowSound s) : FollowSound (quietReset s) := by
  have ramps : Touches [.order, .shutters] s (idleRamps (syncRamps s)) := (mapShutters_touches _ _).after (syncRamps_touches s)
  have low : 1 ≤ (idleRamps (syncRamps s)).follower.settings.allowance := ramps.settings.symm ▸ h.allowance
  have quiet : (quietReset s).follower.settings = (idleRamps (syncRamps s)).follower.settings := rfl
  have credit : (quietReset s).follower.credit = (idleRamps (syncRamps s)).follower.settings.allowance := rfl
  refine ⟨quiet ▸ low, quiet ▸ credit ▸ Nat.le_refl _, iff_of_false ?_ nofun, iff_of_true rfl rfl⟩
  rw [credit]
  omega

/-! #### The events -/

theorem sourceAbsent_followSound {s : State} (src : YieldSource) (h : FollowSound s) : FollowSound (sourceAbsent src s) := by
  have gone := followSound_about (setSource_touches src false s) (by decide) h
  unfold sourceAbsent
  dsimp only
  split
  · split
    · exact startQueued_followSound (followSound_about (releaseYield_touches _) (by decide) gone)
    · exact followSound_about (awaitTest_touches _) (by decide) gone
  · exact gone

theorem claim_followSound {s : State} (src : YieldSource) (h : FollowSound s) : FollowSound (claim src s) :=
  closeIfHeld_followSound (followSound_about (sourcePresent_touches src s) (by decide) h)

theorem headAtOnce_followSound {s : State} (h : FollowSound s) : FollowSound (headAtOnce s) := by
  have acted := followSound_about (actOnHead_touches s) (by decide) h
  unfold headAtOnce
  split
  · exact settle_followSound s acted
  · exact closeIfHeld_followSound acted

theorem onsetAtOnce_followSound {s : State} (h : FollowSound s) : FollowSound (onsetAtOnce s) := by
  have taken := takeOnset_followSound (syncRamps_followSound h)
  unfold onsetAtOnce
  dsimp only
  split
  · exact taken
  · exact settle_followSound s (mapChanged_followSound taken)

theorem expandAtOnce_followSound {s : State} (h : FollowSound s) : FollowSound (expandAtOnce s) := by
  unfold expandAtOnce
  split
  · exact settle_followSound s (followSound_about (expand_touches _ _) (by decide) (syncRamps_followSound h))
  · exact h

theorem exec_followSound (i : Instr) (s s' : State) (hi : ∃ p ∈ [Part.mode, Part.plan], p ∈ partsOf i)
    (hx : exec i s = .next s') (h : FollowSound s) : FollowSound s' := by
  cases i <;> dsimp only [exec] at hx
  case resetAssert =>
    cases hx
    exact followSound_of_powerOn rfl rfl
  case resetRelease rate1 rate0 =>
    unfold execResetRelease at hx
    cases hx
    split
    · exact followSound_about (release_touches rate1 rate0 s) (by decide) h
    · exact h
  case planSet t g b => exact followSound_about.request_keeps hx h fun _ => doPlanSet_followSound b
  case planCancel t g b => exact followSound_about.request_keeps hx h fun _ => doPlanCancel_followSound
  case planStartNow t g b => exact followSound_about.request_keeps hx h fun _ => doPlanStartNow_followSound b
  case planStartNext t g b => exact followSound_about.request_keeps hx h fun _ => doPlanStartNext_followSound
  case stopNow t g b => exact followSound_about.request_keeps hx h fun _ => doStopNow_followSound b
  case stopLine t g b => exact followSound_about.request_keeps hx h fun _ => stopPartAtOnce_followSound true
  case stopVerse t g b => exact followSound_about.request_keeps hx h fun _ => stopPartAtOnce_followSound false
  case verses t g b => exact followSound_about.request_keeps hx h fun _ => versesAtOnce_followSound b
  case tempo t g b => exact followSound_about.request_keeps hx h fun _ => doTempo_followSound b
  case followSet t g b => exact followSound_about.request_keeps hx h fun _ => doFollowSet_followSound b
  case micSet t g b => exact followSound_about.request_keeps hx h fun _ => doMicSet_followSound b
  case divisionSet t g b => exact followSound_about.request_keeps hx h fun _ => doDivisionSet_followSound b
  case yield t g b => exact followSound_about.request_keeps hx h fun _ => claim_followSound .link
  case resume t g b => exact followSound_about.request_keeps hx h fun _ => sourceAbsent_followSound .link
  case quietReset t g b => exact followSound_about.request_keeps hx h fun _ => quietReset_followSound
  case tempReading t r =>
    refine followSound_about.event_keeps hx h fun u _ hu => afterLeads_followSound _ ?_
    exact followSound_about ((takeReading_touches r _).after (ps := [.clock]) (.of_merge rfl) (rs := [.clock, .history, .acoustic,
      .outgoing, .link])) (by decide) hu
  case onsetTaken t => exact followSound_about.event_keeps hx h fun _ _ => onsetAtOnce_followSound
  case cueExpiry t => exact followSound_about.event_keeps hx h fun _ _ => missCue_followSound _
  case pauseStart t => exact followSound_about.event_keeps hx h fun u _ hu => settle_followSound u (actPauseStart_followSound hu)
  case pauseEnd t => exact followSound_about.event_keeps hx h fun u _ hu => settle_followSound u (actPauseEnd_followSound hu)
  case segmentStart t => exact followSound_about.event_keeps hx h fun u _ hu => settle_followSound u (startSegment_followSound hu)
  case segmentEnd t =>
    exact followSound_about.event_keeps hx h fun u due hu =>
      settle_followSound u (endSegment_followSound hu (segmentEndDue_ne_idle due))
  case expansion t => exact followSound_about.event_keeps hx h fun _ _ => expandAtOnce_followSound
  case entryFallsDue t => exact followSound_about.event_keeps hx h fun _ _ => headAtOnce_followSound
  case hymnClose t => exact followSound_about.event_keeps hx h fun _ _ => closeHymn_followSound
  case ctTouchHeld t =>
    exact followSound_about.event_keeps hx h fun u _ hu =>
      claim_followSound .pin (followSound_about (ps := [.yielding]) (.of_merge rfl) (by decide) hu)
  case ctReleaseDelayEnd t =>
    exact followSound_about.event_keeps hx h fun u _ hu =>
      sourceAbsent_followSound .pin (followSound_about (ps := [.yielding]) (.of_merge rfl) (by decide) hu)
  all_goals simp [partsOf, requestParts] at hi

/-- Settles O59: every operation that sets the mode sets the credit with it, and OFF is set and left only with IDLE. -/
theorem stepKeepsFollower : Obligations.StepKeepsFollower :=
  fun _ _ hs h => followSound_about.step_keeps exec_followSound hs h

end Sys2Proof.Machine

/-! PROOFS. How far an operation can lengthen the part's lists: every operation but an expansion keeps the queue, the cue list
and the pause list as short as they were, makes notices within their room, and keeps the holder counts, the gate lists, the
onset queue and the temperature history within theirs. -/

namespace Sys2Proof.Machine

-- The proofs are elaborated one after another, which keeps the whole text within its memory.
set_option Elab.async false

/-- What an operation other than an expansion does to the lists of the part. -/
structure Tame (s s' : State) : Prop where
  queue : s'.queue.length ≤ s.queue.length
  cues : s'.follower.cues.length ≤ s.follower.cues.length
  pauses : s'.map.pauses.length ≤ s.map.pauses.length
  notices : noticeCount s.link ≤ Config.maxNotices → noticeCount s'.link ≤ Config.maxNotices
  replies : s'.link.outgoing.length + noticeCount s.link = s.link.outgoing.length + noticeCount s'.link
  onsets : s.front.onsets.length ≤ Config.maxOnsets → s'.front.onsets.length ≤ Config.maxOnsets
  gates : (∀ m, (mic s m).gates.length ≤ Config.maxGates) → ∀ m, (mic s' m).gates.length ≤ Config.maxGates
  history : s.acoustic.history.length ≤ Config.maxHistory → s'.acoustic.history.length ≤ Config.maxHistory
  holders : (∀ d k, (key s d k).holders ≤ 10) → ∀ d k, (key s' d k).holders ≤ 10
  lines : s'.link.rx = s.link.rx ∧ s'.link.tx = s.link.tx

theorem Tame.refl (s : State) : Tame s s :=
  ⟨Nat.le_refl _, Nat.le_refl _, Nat.le_refl _, id, rfl, id, id, id, id, rfl, rfl⟩

theorem Tame.trans {s t u : State} (h : Tame s t) (k : Tame t u) : Tame s u :=
  ⟨Nat.le_trans k.queue h.queue, Nat.le_trans k.cues h.cues, Nat.le_trans k.pauses h.pauses, fun b => k.notices (h.notices b), by
    have := h.replies
    have := k.replies
    omega, fun b => k.onsets (h.onsets b), fun b => k.gates (h.gates b), fun b => k.history (h.history b),
    fun b => k.holders (h.holders b), k.lines.1.trans h.lines.1, k.lines.2.trans h.lines.2⟩

/-- An operation that touches some parts need only answer for those. -/
theorem Touches.tame {ps : List Part} {s s' : State} (t : Touches ps s s')
    (queue : Part.queue ∉ ps ∨ s'.queue.length ≤ s.queue.length := by exact .inl (by decide))
    (cues : Part.cues ∉ ps ∨ s'.follower.cues.length ≤ s.follower.cues.length := by exact .inl (by decide))
    (pauses : Part.pauses ∉ ps ∨ s'.map.pauses.length ≤ s.map.pauses.length := by exact .inl (by decide))
    (outgoing : Part.outgoing ∉ ps := by decide)
    (onsets : Part.onsets ∉ ps ∨
      (s.front.onsets.length ≤ Config.maxOnsets → s'.front.onsets.length ≤ Config.maxOnsets) := by exact .inl (by decide))
    (gates : Part.mics ∉ ps ∨
      ((∀ m, (mic s m).gates.length ≤ Config.maxGates) → ∀ m, (mic s' m).gates.length ≤ Config.maxGates) := by
        exact .inl (by decide))
    (history : Part.history ∉ ps ∨
      (s.acoustic.history.length ≤ Config.maxHistory → s'.acoustic.history.length ≤ Config.maxHistory) := by
        exact .inl (by decide))
    (holders : Part.divisions ∉ ps ∨
      ((∀ d k, (key s d k).holders ≤ 10) → ∀ d k, (key s' d k).holders ≤ 10) := by exact .inl (by decide))
    (lines : Part.lines ∉ ps := by decide) : Tame s s' := by
  have out := t.outgoing outgoing
  have count : noticeCount s'.link = noticeCount s.link := by rw [noticeCount, out, noticeCount]
  refine ⟨queue.elim (fun h => Nat.le_of_eq (congrArg List.length (t.queue h))) id, cues.elim (fun h => Nat.le_of_eq (congrArg List.length (t.cues h))) id,
    pauses.elim (fun h => Nat.le_of_eq (congrArg List.length (t.pauses h))) id, fun b => count ▸ b, by rw [out, count],
    onsets.elim (fun h b => t.onsets h ▸ b) id, gates.elim (fun h b m => ?_) id, history.elim (fun h b => t.history h ▸ b) id,
    holders.elim (fun h b d k => ?_) id, t.rx lines, t.tx lines⟩
  · have := b m
    rw [mic] at this ⊢
    rw [t.mics h]
    exact this
  · have := b d k
    rw [key, div] at this ⊢
    rw [t.divisions h]
    exact this

/-! ### Notices -/

theorem notice_tame (n : Notice) (s : State) : Tame s (notice n s) := by
  rcases notice_cases n s with ⟨room, h⟩ | ⟨-, h⟩ <;> rw [h]
  · have count : noticeCount (noticed n s).link = noticeCount s.link + 1 := by
      simp [noticed, noticeCount, Message.isNotice]
    refine ⟨Nat.le_refl _, Nat.le_refl _, Nat.le_refl _, fun _ => ?_, ?_, id, id, id, id, rfl, rfl⟩
    · rw [count]
      exact room
    · rw [count]
      simp [noticed]
      omega
  · exact Touches.tame (ps := [.link]) (.of_merge rfl)

theorem foldl_tame {α : Type} {f : State → α → State} (h : ∀ s x, Tame s (f s x)) (xs : List α) (s : State) :
    Tame s (xs.foldl f s) := by
  induction xs generalizing s with
  | nil => exact .refl _
  | cons x xs ih => exact (h s x).trans (ih _)

/-! ### The drivers and the front end -/

/-- A division's keys replaced by keys whose holder counts stay within bounds. -/
theorem setDiv_holders {s : State} {d : DivNo} {x : Division}
    (h : (∀ k, (key s d k).holders ≤ 10) → ∀ k : KeyNo, x.keys[k].holders ≤ 10) :
    (∀ d k, (key s d k).holders ≤ 10) → ∀ e k, (key (setDiv d x s) e k).holders ≤ 10 := by
  intro b e k
  by_cases he : d = e
  · subst he
    rw [key, div_setDiv]
    exact h (b d) k
  · rw [key, div_setDiv_ne _ _ he]
    exact b e k

theorem setDiv_tame {s : State} {d : DivNo} {x : Division}
    (h : (∀ k, (key s d k).holders ≤ 10) → ∀ k : KeyNo, x.keys[k].holders ≤ 10) : Tame s (setDiv d x s) :=
  (setDiv_touches d x s).tame (holders := .inr (setDiv_holders h))

theorem mapDivisions_tame {f : DivNo → Division → Division} (s : State)
    (h : ∀ d x, (∀ k : KeyNo, x.keys[k].holders ≤ 10) → ∀ k : KeyNo, (f d x).keys[k].holders ≤ 10) :
    Tame s (mapDivisions f s) := by
  refine (mapDivisions_touches f s).tame (holders := .inr fun b d k => ?_)
  rw [key, div_mapDivisions]
  exact h d (div s d) (b d) k

theorem setKey_tame {s : State} {d : DivNo} {k : KeyNo} {x : KeyRecord} (h : (key s d k).holders ≤ 10 → x.holders ≤ 10) :
    Tame s (setKey d k x s) := by
  refine setDiv_tame fun b j => ?_
  by_cases hj : k = j
  · subst hj
    simpa using h (b k)
  · have : (k : Nat) ≠ j := fun e => hj (Fin.ext e)
    simpa [Vector.getElem_set, this, key] using b j

theorem releaseAll_tame (s : State) : Tame s (releaseAll s) :=
  mapDivisions_tame s fun _ x _ k => by simp [releaseKeys, KeyRecord.released]

theorem stopChange_tame (d : DivNo) (r : StopSet) (s : State) : Tame s (stopChange d r s) := setDiv_tame id

theorem stopChanges_tame (want : DivNo → Option StopSet) (s : State) : Tame s (stopChanges want s) := by
  refine foldl_tame (fun s d => ?_) _ s
  split
  · exact stopChange_tame _ _ _
  · exact .refl _

theorem placeWindow_length (w : Window) (ws : List Window) : (placeWindow w ws).length = ws.length + 1 := by
  induction ws with
  | nil => rfl
  | cons v vs ih =>
    unfold placeWindow
    split <;> simp [ih]

theorem earliestClose_mem (c : Time) (ws : List Window) : earliestClose c ws = c ∨ ∃ w ∈ ws, w.closes = earliestClose c ws := by
  unfold earliestClose
  induction ws generalizing c with
  | nil => exact .inl rfl
  | cons w ws ih =>
    rw [List.foldl_cons]
    rcases ih (earlier c w.closes) with h | ⟨v, hv, h⟩
    · rw [h]
      unfold earlier
      split
      · exact .inr ⟨w, by simp, rfl⟩
      · exact .inl rfl
    · exact .inr ⟨v, by simp [hv], h⟩

theorem dropClosing_length {c : Time} {ws : List Window} (h : ∃ w ∈ ws, w.closes = c) :
    (dropClosing c ws).length + 1 = ws.length := by
  induction ws with
  | nil => simp at h
  | cons v vs ih =>
    unfold dropClosing
    split
    · rfl
    · obtain ⟨w, hw, hc⟩ := h
      rcases List.mem_cons.1 hw with rfl | hm
      · exact absurd hc ‹_›
      · simp [ih ⟨w, hm, hc⟩]

/-- A window that enters a gate list keeps it within its length: it takes the place of those it merges with, or of the one with
the earliest close (R69). -/
theorem enterWindow_length {w : Window} {ws : List Window} (h : ws.length ≤ Config.maxGates) :
    (enterWindow w ws).length ≤ Config.maxGates := by
  unfold enterWindow
  split
  · rename_i touched
    obtain ⟨v, hv, ht⟩ := List.any_eq_true.1 touched
    have fewer : (ws.filter fun v => !touches w v).length < ws.length :=
      List.length_filter_lt_length_iff_exists.2 ⟨v, hv, by simp [ht]⟩
    rw [placeWindow_length]
    omega
  · split
    · rw [placeWindow_length]
      omega
    · rw [placeWindow_length]
      cases ws with
      | nil => simp at *
      | cons v vs =>
        have drop : (dropClosing (earliestClose v.closes (v :: vs)) (v :: vs)).length + 1 = (v :: vs).length := by
          refine dropClosing_length ?_
          rcases earliestClose_mem v.closes (v :: vs) with e | e
          · exact ⟨v, by simp, e.symm⟩
          · exact e
        exact Nat.le_trans (Nat.le_of_eq drop) h

theorem reportOpening_tame (d : DivNo) (s : State) : Tame s (reportOpening d s) := by
  refine (reportOpening_touches d s).tame (gates := .inr fun b m => ?_)
  have entered : mic (reportOpening d s) m = withGate s d m (mic s m) := by simp [mic, reportOpening]
  rw [entered]
  unfold withGate
  split
  · exact enterWindow_length (b m)
  · exact b m

theorem deliverKeyOn_tame (d : DivNo) (k : KeyNo) (v : Voice) (s : State) : Tame s (deliverKeyOn d k v s).1 := by
  have held (room : ¬10 ≤ (key s d k).holders) : Tame s (holdKey d k s) :=
    setKey_tame fun _ => by show (key s d k).holders + 1 ≤ 10; omega
  have room {x : KeyOnOutcome} (h : keyOnCase s d k v = x) (hx : x ≠ .discarded) : ¬10 ≤ (key s d k).holders := by
    intro full
    rw [keyOnCase, if_pos full] at h
    exact hx h.symm
  unfold deliverKeyOn
  split
  · exact Touches.tame (ps := [.counters]) (.of_merge rfl)
  next hc => exact held (room hc nofun)
  next hc => exact held (room hc nofun)
  next hc => exact (held (room hc nofun)).trans (reportOpening_tame _ _)
  · exact Touches.tame (ps := [.counters]) (.of_merge rfl)

theorem deliverKeyOff_tame (d : DivNo) (k : KeyNo) (s : State) : Tame s (deliverKeyOff d k s) := by
  unfold deliverKeyOff
  split
  · exact .refl _
  · split
    · exact setKey_tame fun _ => Nat.zero_le _
    · exact setKey_tame fun h => Nat.le_trans (Nat.sub_le _ _) h

/-! ### The queue -/

theorem retime_tame (s : State) : Tame s (retime s) :=
  (retime_touches s).tame (queue := .inr (by simp [retime, countLate]))

theorem removeReleases_tame (d : DivNo) (s : State) : Tame s (removeReleases d s) :=
  (removeReleases_touches d s).tame (queue := .inr (List.length_filter_le _ _))

theorem removeOff_tame (n : BitVec 16) (s : State) : Tame s (removeOff n s) :=
  Touches.tame (ps := [.queue]) (.of_merge rfl) (queue := .inr (List.length_filter_le _ _))

theorem clipPair_tame (n : BitVec 16) (s : State) : Tame s (clipPair n s) := by
  have left : Tame s (countClipped { s with queue :=
      (s.queue.filter fun e => e.action.onPair != some n && e.action.offPair != some n).map (dropFollowOn (· == n)) }) :=
    Touches.tame (ps := [.queue, .counters]) (.of_merge rfl)
      (queue := .inr (by simpa [countClipped] using List.length_filter_le _ s.queue))
  unfold clipPair
  dsimp only
  split
  · exact left.trans (retime_tame _)
  · exact left

theorem deliverStopSet_tame (d : DivNo) (r : StopSet) (s : State) : Tame s (deliverStopSet d r s) := by
  have released : Tame s (setDiv d (releaseKeys (div s d)) s) := setDiv_tame fun _ k => by simp [releaseKeys, KeyRecord.released]
  unfold deliverStopSet
  split
  · exact .refl _
  · split
    · exact (released.trans (removeReleases_tame _ _)).trans (stopChange_tame _ _ _)
    · exact stopChange_tame _ _ _

theorem deliver_tame (e : Entry) (s : State) : Tame s (deliver e s) := by
  unfold deliver
  split
  · split
    · exact (deliverKeyOn_tame _ _ _ s).trans (removeOff_tame _ _)
    · exact deliverKeyOn_tame _ _ _ s
  · exact deliverKeyOff_tame _ _ s
  · exact deliverStopSet_tame _ _ s

/-- The head leaves the queue and comes back at most once, deferred (R131, R133). -/
theorem actOnHead_tame (s : State) : Tame s (actOnHead s) := by
  unfold actOnHead
  split
  · exact .refl _
  · rename_i e rest hq
    have popped : Tame s { s with queue := rest } :=
      Touches.tame (ps := [.queue]) (.of_merge rfl) (queue := .inr (by simp [hq]))
    have deferred (d : DivNo) (k : KeyNo) (v : Voice) (n : BitVec 16) (nb : Time) :
        Tame s (defer e d k v n nb { s with queue := rest }) := by
      refine Touches.tame (ps := [.queue, .counters]) ?_ (queue := .inr ?_)
      · exact (defer_touches e d k v n nb _).after (ps := [.queue]) (.of_merge rfl)
      · simp [defer, retime, countLate, countDeferred, hq]
    dsimp only
    split
    · split
      · exact popped.trans (clipPair_tame _ _)
      · split
        · exact deferred _ _ _ _ _
        · exact popped.trans (deliver_tame _ _)
    · split
      · exact popped.trans (clipPair_tame _ _)
      · exact popped.trans (deliver_tame _ _)
    · exact popped.trans (deliver_tame _ _)

/-! ### The follower -/

/-- What `splitFirst` finds: the first item that satisfies the condition, where it stands. -/
theorem splitFirst_some {α : Type} {p : α → Bool} {l a b : List α} {x : α} (h : splitFirst p l = some (a, x, b)) :
    l = a ++ x :: b ∧ p x = true ∧ ∀ y ∈ a, p y = false := by
  induction l generalizing a with
  | nil => cases h
  | cons y ys ih =>
    unfold splitFirst at h
    split at h
    · cases h
      exact ⟨rfl, ‹_›, nofun⟩
    · split at h
      · cases h
        obtain ⟨rfl, hx, ha⟩ := ih ‹_›
        exact ⟨rfl, hx, by simpa using ⟨Bool.eq_false_iff.2 ‹_›, ha⟩⟩
      · cases h

theorem splitFirst_eq_none {α : Type} {p : α → Bool} {l : List α} (h : splitFirst p l = none) : ∀ y ∈ l, p y = false := by
  induction l with
  | nil => nofun
  | cons y ys ih =>
    unfold splitFirst at h
    split at h
    · cases h
    · split at h
      · cases h
      · simpa using ⟨Bool.eq_false_iff.2 ‹_›, ih ‹_›⟩

theorem setCues_tame {cs : List Cue} {s : State} (h : cs.length ≤ s.follower.cues.length) : Tame s (setCues cs s) :=
  (setCues_touches cs s).tame (cues := .inr h)

theorem followStateNotice_tame (pos : Nat) (s : State) : Tame s (followStateNotice pos s) := notice_tame _ s

theorem missCost_tame (c : Cue) (s : State) : Tame s (missCost c s) := by
  unfold missCost
  split
  · split
    · exact Tame.trans (Touches.tame (ps := [.mode, .follower]) (.of_merge rfl)) (followStateNotice_tame _ _)
    · exact Touches.tame (ps := [.mode]) (.of_merge rfl)
  · exact Touches.tame (ps := [.follower]) (.of_merge rfl)
  · exact .refl _

theorem countMissed_tame (n : Nat) (s : State) : Tame s (countMissed n s) := Touches.tame (ps := [.counters]) (.of_merge rfl)

theorem passKindOn_tame {a b : List Cue} {s : State} (h : (a ++ b).length ≤ s.follower.cues.length) :
    Tame s (passKindOn a b s) := by
  refine (passKindOn_touches a b s).tame (cues := .inr ?_)
  unfold passKindOn
  split
  · rename_i hb
    rw [(splitFirst_some hb).1] at h
    simpa [setCues] using h
  · exact h

/-- A missed cue leaves, and its kind may pass to one of those behind it (R89). -/
theorem missCue_tame (p : Cue → Bool) (s : State) : Tame s (missCue p s) := by
  unfold missCue
  split
  · exact .refl _
  · rename_i a c b hc
    have missed : Tame s (missCost c (countMissed 1 (setCues (a ++ b) s))) :=
      Tame.trans (setCues_tame (by simp [(splitFirst_some hc).1])) ((countMissed_tame _ _).trans (missCost_tame _ _))
    have listed : (missCost c (countMissed 1 (setCues (a ++ b) s))).follower.cues = a ++ b :=
      ((missCost_touches c _).after (ps := [.counters]) (s := setCues (a ++ b) s) (.of_merge rfl)
        (rs := [.counters, .mode, .follower, .outgoing, .link])).cues
    dsimp only
    split
    · exact missed
    · exact missed.trans (passKindOn_tame (Nat.le_of_eq (by rw [listed])))

theorem passOver_tame (a : List Cue) (b : List Cue) (s : State) (h : (a ++ b).length ≤ s.follower.cues.length) :
    Tame s (passOver a b s) := by
  have shorter : (a.filter (fun c => !awaited s c) ++ b).length ≤ s.follower.cues.length := by
    have := List.length_filter_le (fun c => !awaited s c) a
    simp only [List.length_append] at h ⊢
    omega
  exact (setCues_tame shorter).trans (foldl_tame (fun s c => (countMissed_tame 1 s).trans (missCost_tame c _)) _ _)

theorem markMatched_tame (c : Cue) (tOn : Time) (s : State) : Tame s (markMatched c tOn s) := by
  unfold markMatched
  split
  · exact setCues_tame (List.length_filter_le _ _)
  · exact setCues_tame (by simp)

theorem reAnchor_tame (t : Time) (pos : Nat) (s : State) : Tame s (reAnchor t pos s) :=
  (reAnchor_touches t pos s).tame (pauses := .inr (List.length_filter_le _ _))

theorem applyMatch_tame (c : Cue) (tOn : Time) (e : Int) (s : State) : Tame s (applyMatch c tOn e s) := by
  have moved (p : Nat) (t : Time) (v : State) : Tame v { reAnchor t c.pos v with
      map := { (reAnchor t c.pos v).map with period := p }, follower := { v.follower with lastMatch := some c.pos } } :=
    (reAnchor_tame t c.pos v).trans (Touches.tame (ps := [.map, .follower]) (.of_merge rfl))
  exact (moved _ _ s).trans (markMatched_tame _ _ _)

theorem takeMatch_tame (c : Cue) (tOn : Time) (e : Int) (s : State) : Tame s (takeMatch c tOn e s) := by
  unfold takeMatch
  split
  · split
    · exact Tame.trans (Touches.tame (ps := [.follower]) (.of_merge rfl)) (markMatched_tame _ _ _)
    · have rejoin : Tame s (rejoinFollow c.pos s) :=
        Tame.trans (Touches.tame (ps := [.mode, .follower]) (.of_merge rfl)) (followStateNotice_tame _ _)
      exact rejoin.trans (applyMatch_tame _ _ _ _)
  · exact .refl _
  · exact .refl _
  · exact .refl _
  · exact (applyMatch_tame c tOn e s).trans (Touches.tame (ps := [.mode]) (.of_merge rfl))

theorem winner_some {s : State} {t : Time} {a b : List Cue} {c : Cue} (h : winner s t = some (a, c, b)) :
    s.follower.cues = a ++ c :: b := by
  unfold winner at h
  obtain ⟨best, -, hs⟩ := Option.bind_eq_some_iff.1 h
  exact (splitFirst_some hs).1

theorem meetOnset_tame (tOn : Time) (s : State) : Tame s (meetOnset tOn s) := by
  have counted {v : State} (t : Touches [.counters] s v) : Tame s v := t.tame
  unfold meetOnset
  split
  · exact counted (.of_merge rfl)
  · split
    · exact counted (.of_merge rfl)
    · split
      · exact counted (.of_merge rfl)
      · rename_i a c b hw
        exact (passOver_tame a (c :: b) s (Nat.le_of_eq (by rw [winner_some hw]))).trans (takeMatch_tame _ _ _ _)

theorem takeOnset_tame (s : State) : Tame s (takeOnset s) := by
  unfold takeOnset
  split
  · exact .refl _
  · rename_i o rest hq
    refine Tame.trans (Touches.tame (ps := [.onsets]) (.of_merge rfl) (onsets := .inr fun h => ?_)) (meetOnset_tame _ _)
    rw [hq, List.length_cons] at h
    exact Nat.le_trans (Nat.le_succ _) h

theorem removeMatched_tame (s : State) : Tame s (removeMatched s) := by
  unfold removeMatched
  split
  · rename_i h
    exact setCues_tame (by simp [(splitFirst_some h).1])
  · exact .refl _

theorem startPause_tame (p : Pause) (s : State) : Tame s (startPause p s) :=
  (startPause_touches p s).tame (cues := .inr (List.length_filter_le _ _)) (pauses := .inr (by simp [startPause]))

theorem reEnterAfter_tame (pos : Nat) (s : State) : Tame s (reEnterAfter pos s) := by
  unfold reEnterAfter
  split
  · rename_i h
    exact setCues_tame (by simp [(splitFirst_some h).1])
  · exact Touches.tame (ps := [.follower]) (.of_merge rfl)

theorem setPauses_tame {ps : List Pause} {s : State} (h : ps.length ≤ s.map.pauses.length) : Tame s (setPauses ps s) :=
  Touches.tame (ps := [.pauses]) (.of_merge rfl) (pauses := .inr h)

theorem pauseLeft_tame (p : Pause) (t : Time) (s : State) : Tame s (pauseLeft p t s) := by
  have anchored : Tame s (reAnchor t p.pos (setPauses (s.map.pauses.filter fun q => q != p) s)) :=
    (setPauses_tame (List.length_filter_le _ _)).trans (reAnchor_tame _ _ _)
  unfold pauseLeft
  dsimp only
  split
  · exact anchored.trans (reEnterAfter_tame _ _)
  · exact anchored

theorem fermataEnds_tame (s : State) : Tame s (fermataEnds s) := by
  unfold fermataEnds
  split
  · exact Touches.tame (ps := [.mode]) (.of_merge rfl)
  · exact .refl _

theorem endPause_tame (s : State) : Tame s (endPause s) := by
  rw [endPause_eq]
  split
  · exact (pauseLeft_tame _ _ s).trans (fermataEnds_tame _)
  · exact .refl _

theorem followerSegmentEnd_tame (g : Segment) (s : State) : Tame s (followerSegmentEnd g s) := by
  have anchored : Tame (endPause s) (anchoredAtEnd g s) := by
    unfold anchoredAtEnd
    split
    · exact (setPauses_tame (List.length_filter_le _ _)).trans (reAnchor_tame _ _ _)
    · exact .refl _
  have left (v : State) : Tame v (cuesLeft v) := (setCues_tame (List.length_filter_le _ _)).trans (countMissed_tame _ _)
  rw [followerSegmentEnd_eq]
  exact (((endPause_tame s).trans anchored).trans (left _)).trans ((enterMode_touches _ _).tame)

theorem followerSegmentStart_tame (i : Nat) (g : Segment) (t : Time) (s : State) : Tame s (followerSegmentStart i g t s) :=
  (followerSegmentStart_touches i g t s).tame (cues := .inr (List.length_filter_le _ _))
    (pauses := .inr (List.length_filter_le _ _))

/-! ### Segments and hymns -/

theorem syncRamps_tame (s : State) : Tame s (syncRamps s) := (syncRamps_touches s).tame

/-- The stops that a part draws as it enters REJOINING (R198). -/
def rejoinStops (s : State) (d : DivNo) : Option StopSet :=
  if (div s d).present then (rejoinRegistration s).map fun g => setDraws s g d else none

/-- REJOINING with its stops, its rejoin point and its cursor, before a re-entry is owed (R198). -/
def rejoiningAt (p : RejoinPoint) (s : State) : State :=
  let v := stopChanges (rejoinStops s) s
  setCursor (.at_ p.segment p.event) (setYielding { v.yielding with state := .rejoining, rejoin := some p } v)

theorem enterRejoining_eq (p : RejoinPoint) (s : State) : enterRejoining p s =
    if rejoinOwes p (rejoiningAt p s) then
      { rejoiningAt p s with follower := { (rejoiningAt p s).follower with owed := true } }
    else rejoiningAt p s := rfl

theorem rejoiningAt_tame (p : RejoinPoint) (s : State) : Tame s (rejoiningAt p s) :=
  (stopChanges_tame _ s).trans (Touches.tame (ps := [.yieldState, .yielding, .expander]) (.of_merge rfl))

theorem enterRejoining_tame (p : RejoinPoint) (s : State) : Tame s (enterRejoining p s) := by
  rw [enterRejoining_eq]
  split
  · exact (rejoiningAt_tame p s).trans (Touches.tame (ps := [.follower]) (.of_merge rfl))
  · exact rejoiningAt_tame p s

theorem awaitTest_tame (s : State) : Tame s (awaitTest s) := by
  unfold awaitTest
  split
  · split
    · exact enterRejoining_tame _ s
    · exact .refl _
  · exact .refl _

theorem mapChanged_tame (s : State) : Tame s (mapChanged s) := (retime_tame s).trans (awaitTest_tame _)

theorem hymnStart_tame (p : Plan) (x : Tune) (s : State) : Tame s (hymnStart p x s) := by
  have placed : Tame s (hymnPlaced p x s) := Touches.tame (ps := [.plan, .order, .mode, .follower, .map]) (.of_merge rfl)
  rw [hymnStart_eq]
  refine placed.trans (Tame.trans ?_ (setCursor_touches _ _).tame)
  split
  · exact stopChanges_tame _ _
  · exact .refl _

theorem startQueued_tame (s : State) : Tame s (startQueued s) := by
  unfold startQueued
  split
  · split
    · exact hymnStart_tame _ _ s
    · exact .refl _
  · exact .refl _

theorem hymnOver_tame (reason : HymnEndReason) (s : State) : Tame s (hymnOver reason s) := by
  have cleared : Tame s (hymnCleared s) := (hymnCleared_touches s).tame (queue := .inr (Nat.zero_le _))
    (cues := .inr (Nat.zero_le _)) (pauses := .inr (Nat.zero_le _))
  rw [hymnOver_eq]
  exact cleared.trans (notice_tame _ _)

theorem releaseYield_tame (s : State) : Tame s (releaseYield s) :=
  Tame.trans (Touches.tame (ps := [.yieldState, .yielding]) (.of_merge rfl)) (notice_tame _ _)

theorem idleYield_tame (s : State) : Tame s (idleYield s) := by
  unfold idleYield
  split
  · exact releaseYield_tame s
  · exact .refl _

theorem tearDown_tame (reason : HymnEndReason) (s : State) : Tame s (tearDown reason s) :=
  ((releaseAll_tame s).trans (hymnOver_tame _ _)).trans (idleYield_tame _)

theorem closeHymn_tame (s : State) : Tame s (closeHymn s) :=
  ((hymnOver_tame _ s).trans (idleYield_tame _)).trans (startQueued_tame _)

theorem closeIfHeld_tame (s : State) : Tame s (closeIfHeld s) := by
  unfold closeIfHeld
  split
  · exact closeHymn_tame s
  · exact .refl _

theorem sendLine_tame (s : State) (l : NumberedLine) : Tame s (sendLine s l) :=
  Tame.trans (Touches.tame (ps := [.order]) (.of_merge rfl)) (notice_tame _ _)

theorem counted_touches (v : Nat) (s : State) : Touches [.order, .shutters] s (countAll (raiseClock v s)) :=
  (raiseClock_touches v s).trans (countAll_touches _)

theorem beginSegment_tame (i : Nat) (g : Segment) (t : Time) (s : State) : Tame s (beginSegment i g t s) := by
  have placed (u : State) (n : Nat) :
      Tame u (setPlan { u.plan with play := .segment, startTime := none, clockBase := n, linesSent := [] } u) :=
    Touches.tame (ps := [.plan, .order]) (.of_merge rfl)
  have opened : Tame s (segmentOpened i g t s) :=
    ((counted_touches _ s).tame.trans (followerSegmentStart_tame i g t _)).trans (placed _ _)
  have told : Tame (segmentOpened i g t s) (segmentTold i g t s) :=
    ((startSegmentRamp_touches g _).tame.trans (notice_tame _ _)).trans (foldl_tame sendLine_tame _ _)
  rw [beginSegment_eq]
  exact ((opened.trans told).trans (cursorSegmentStart_touches i _).tame).trans (mapChanged_tame _)

theorem startSegment_tame (s : State) : Tame s (startSegment s) := by
  unfold startSegment
  split
  · exact beginSegment_tame _ _ _ s
  · exact .refl _

theorem setPlay_tame (m : PlayState) (s : State) : Tame s (setPlay m s) := Touches.tame (ps := [.plan]) (.of_merge rfl)

theorem afterSegment_tame (s : State) : Tame s (afterSegment s) := by
  unfold afterSegment
  split
  · exact (setPlay_tame _ s).trans (mapChanged_tame _)
  · split
    · exact (retime_tame s).trans (startSegment_tame _)
    · exact (setPlay_tame _ s).trans (mapChanged_tame _)

theorem endSegment_tame (s : State) : Tame s (endSegment s) := by
  unfold endSegment
  split
  · exact ((counted_touches _ s).tame.trans (followerSegmentEnd_tame _ _)).trans (afterSegment_tame _)
  · exact .refl _

theorem actPauseStart_tame (s : State) : Tame s (actPauseStart s) := by
  unfold actPauseStart
  split
  · exact ((syncRamps_tame s).trans (startPause_tame _ _)).trans (mapChanged_tame _)
  · exact .refl _

theorem actPauseEnd_tame (s : State) : Tame s (actPauseEnd s) :=
  ((syncRamps_tame s).trans (endPause_tame _)).trans (mapChanged_tame _)

theorem rejoined_tame (s : State) : Tame s (rejoined s) := by
  unfold rejoined
  split
  · exact Tame.trans (Touches.tame (ps := [.yieldState, .yielding]) (.of_merge rfl)) (notice_tame _ _)
  · exact .refl _

theorem actOn_tame (w : Wait) (s : State) : Tame s (actOn w s) := by
  cases w with
  | entry => exact actOnHead_tame s
  | pauseEnd => exact actPauseEnd_tame s
  | pauseStart => exact actPauseStart_tame s
  | segmentEnd => exact endSegment_tame s
  | segmentStart => exact startSegment_tame s
  | cue => exact missCue_tame _ s
  | rejoin => exact rejoined_tame s
  | line => exact sendLine_tame s _
  | close => exact closeHymn_tame s

theorem settle_tame (before s : State) : Tame s (settle before s) :=
  settle_keeps (P := Tame s) (fun _ h => h.trans (Touches.tame (ps := [.outside]) (.of_merge rfl)))
    (fun w u h => h.trans (actOn_tame w u)) before (.refl s)

theorem afterLeads_tame (before s : State) : Tame s (afterLeads before s) := by
  unfold afterLeads
  split
  · exact (retime_tame s).trans (settle_tame before _)
  · exact .refl _

end Sys2Proof.Machine

/-! PROOFS. The bounds of the part's lists and holder counts (R55, R69, R71, R82, R126, R146, R203, R208, R209), kept by every
step. -/

namespace Sys2Proof.Machine

-- The proofs are elaborated one after another, which keeps the whole text within its memory.
set_option Elab.async false

/-! ### The requests -/

theorem cutAt_tame (c e : Nat) (s : State) : Tame s (cutAt c e s) := by
  refine (cutAt_touches c e s).tame (queue := .inr ?_) (cues := .inr ?_) (pauses := .inr ?_) <;> unfold cutAt <;> dsimp only <;>
    split
  · simpa [cutQueue, setCursor] using List.length_filter_le _ s.queue
  · simpa [cutQueue] using List.length_filter_le _ s.queue
  · exact List.length_filter_le _ _
  · exact List.length_filter_le _ _
  · exact List.length_filter_le _ _
  · exact List.length_filter_le _ _

theorem cutStarting_tame (s : State) : Tame s (cutStarting s) :=
  (cutStarting_touches s).tame
    (queue := .inr (by simpa [cutStarting, setCursor, cutStartingQueue] using List.length_filter_le _ s.queue))
    (cues := .inr (Nat.zero_le _)) (pauses := .inr (Nat.zero_le _))

theorem leaveRejoining_tame (gone : RejoinPoint → Bool) (s : State) : Tame s (leaveRejoining gone s) := by
  unfold leaveRejoining
  split
  · exact releaseYield_tame s
  · exact .refl _

theorem cutAway_tame (c e : Nat) (s : State) : Tame s (cutAway c e s) :=
  (cutAt_tame c e s).trans (leaveRejoining_tame _ _)

theorem stopAt_tame (c e : Nat) (s : State) : Tame s (stopAt c e s) :=
  Tame.trans (Touches.tame (ps := [.order]) (.of_merge rfl)) (cutAway_tame c e _)

theorem stopStarting_tame (s : State) : Tame s (stopStarting s) :=
  ((Touches.tame (ps := [.plan, .order]) (.of_merge rfl)).trans (cutStarting_tame _)).trans (leaveRejoining_tame _ _)

theorem stopPart_tame (line : Bool) (s : State) : Tame s (stopPart line s) := by
  unfold stopPart
  dsimp only
  refine (syncRamps_tame s).trans ?_
  split
  · exact (stopAt_tame _ _ _).trans (mapChanged_tame _)
  · exact ((stopAt_tame _ _ _).trans (setPlay_tame _ _)).trans (mapChanged_tame _)
  · exact (stopStarting_tame _).trans (mapChanged_tame _)
  · exact .refl _

theorem doStopPart_tame (line : Bool) (s : State) : Tame s (doStopPart line s).1 := by
  unfold doStopPart
  split
  · exact .refl _
  · exact .refl _
  all_goals exact stopPart_tame line s

theorem stopPartAtOnce_tame (line : Bool) (s : State) : Tame s (stopPartAtOnce line s).1 := by
  unfold stopPartAtOnce
  split
  · exact doStopPart_tame line s
  · exact (doStopPart_tame line s).trans (settle_tame s _)

theorem versesCut_tame (p : Plan) (order : List Segment) (s : State) : Tame s (versesCut p order s) := by
  have ordered (v : State) : Tame v (setPlan { v.plan with active := some p, order := order } v) :=
    Touches.tame (ps := [.plan, .order]) (.of_merge rfl)
  unfold versesCut
  dsimp only
  refine (((syncRamps_tame s).trans (ordered _)).trans ?_).trans (leaveRejoining_tame _ _)
  split
  · exact cutAway_tame _ _ _
  · exact .refl _

theorem setVerses_tame (p : Plan) (order : List Segment) (s : State) : Tame s (setVerses p order s) := by
  have closed (v : State) : Tame v (closeRest v) := by
    unfold closeRest
    split
    · exact setPlay_tame _ v
    · exact .refl _
  rw [setVerses_eq]
  exact (((versesCut_tame p order s).trans (closed _)).trans (advanceCursor_touches _).tame).trans (mapChanged_tame _)

theorem doVerses_tame (b : List Byte) (s : State) : Tame s (doVerses b s).1 := by
  unfold doVerses
  dsimp only
  iterate 3 (split; · exact .refl _)
  split
  · exact setVerses_tame _ _ s
  · exact .refl _

theorem versesAtOnce_tame (b : List Byte) (s : State) : Tame s (versesAtOnce b s).1 := by
  unfold versesAtOnce
  split
  · exact (doVerses_tame b s).trans (settle_tame s _)
  · exact doVerses_tame b s

theorem startStaged_tame (s : State) : Tame s (startStaged s) := by
  unfold startStaged
  split
  · refine Tame.trans ?_ (hymnStart_tame _ _ _)
    split
    · exact .refl _
    · exact tearDown_tame _ s
  · exact .refl _

theorem doPlanStartNow_tame (b : List Byte) (s : State) : Tame s (doPlanStartNow b s).1 := by
  unfold doPlanStartNow
  split
  · exact .refl _
  · split
    · exact .refl _
    · exact startStaged_tame s

theorem doPlanStartNext_tame (s : State) : Tame s (doPlanStartNext s).1 := by
  unfold doPlanStartNext
  split
  · exact .refl _
  · split
    · exact startStaged_tame s
    · exact Touches.tame (ps := [.plan]) (.of_merge rfl)

theorem setRun_tame (r : Option LevelRun) (s : State) : Tame s (setRun r s) := (setRun_touches r s).tame

theorem reportLevel_tame (r : LevelRun) (o : LevelOutcome) (s : State) : Tame s (reportLevel r o s) :=
  Tame.trans (Touches.tame (ps := [.last]) (.of_merge rfl)) (notice_tame _ _)

theorem enterDone_tame (r : LevelRun) (o : LevelOutcome) (s : State) : Tame s (enterDone r o s) :=
  ((reportLevel_tame r o s).trans (setRun_tame _ _)).trans (stopChange_tame _ _ _)

theorem abortRun_tame (r : LevelRun) (c : AbortCause) (s : State) : Tame s (abortRun r c s) := enterDone_tame _ _ s

theorem doStopNow_tame (b : List Byte) (s : State) : Tame s (doStopNow b s).1 := by
  have ramps : Tame s (idleRamps s) := (mapShutters_touches _ s).tame
  have unqueued : Tame s (setPlan { s.plan with queued := false } s) := Touches.tame (ps := [.plan]) (.of_merge rfl)
  unfold doStopNow
  split
  · exact .refl _
  · split
    · split
      · exact .refl _
      · dsimp only
        split
        · exact ramps
        · exact ramps.trans (abortRun_tame _ _ _)
    · exact unqueued.trans (tearDown_tame _ _)

theorem doTempo_tame (b : List Byte) (s : State) : Tame s (doTempo b s).1 := by
  have anchored (v : State) : Tame v (tempoAnchor v) := by
    unfold tempoAnchor
    split
    · split
      · exact reAnchor_tame _ _ v
      · exact .refl _
    · exact .refl _
  have set (n : Nat) : Tame s (setTempo n s) :=
    ((syncRamps_tame s).trans (anchored _)).trans (Touches.tame (ps := [.map, .follower]) (.of_merge rfl))
  unfold doTempo
  split
  · exact .refl _
  · split
    · exact .refl _
    · exact ((set _).trans (mapChanged_tame _)).trans (settle_tame s _)

theorem guarded_tame {accept : Handler} {s : State} (checks : List (Nat × Bool)) (h : Tame s (accept s).1) :
    Tame s (guarded checks accept s).1 := guarded_keeps checks (.refl s) fun _ _ => h

theorem setMic_tame {m : MicNo} {x : Mic} {s : State} (h : x.gates.length ≤ (mic s m).gates.length) : Tame s (setMic m x s) := by
  refine Touches.tame (ps := [.mics]) (.of_merge rfl) (gates := .inr fun b n => ?_)
  by_cases hn : m = n
  · subst hn
    rw [mic_setMic]
    exact Nat.le_trans h (b m)
  · rw [mic_setMic_ne _ _ hn]
    exact b n

theorem withSettings_gates (t : Time) (new : MicSettings) (x : Mic) : (x.withSettings t new).gates.length ≤ x.gates.length := by
  unfold Mic.withSettings
  dsimp only
  split
  · exact Nat.zero_le _
  · split
    · exact Nat.zero_le _
    · split <;> exact Nat.le_refl _

theorem doMicSet_tame (b : List Byte) (s : State) : Tame s (doMicSet b s).1 := by
  have set : Tame s (withMicSettings (toFin 4 (byteAt b 0)) (micOf b) (signedWordAt b 15) s) :=
    Tame.trans (Touches.tame (ps := [.fallback]) (.of_merge rfl)) (setMic_tame (withSettings_gates _ _ _))
  exact guarded_tame _ ((set.trans (updateInUse_touches _).tame).trans (afterLeads_tame s _))

theorem doDivisionSet_tame (b : List Byte) (s : State) : Tame s (doDivisionSet b s).1 := by
  have written : Tame s (writeDivision (toFin 6 (byteAt b 0)) (divisionAfterSet b (div s (toFin 6 (byteAt b 0)))) s) := by
    refine (writeDivision_touches _ _ s).tame (holders := .inr fun h d k => ?_)
    have kept := setDiv_holders (s := s) (d := toFin 6 (byteAt b 0)) (x := divisionAfterSet b (div s (toFin 6 (byteAt b 0))))
      (fun h k => by
        have := h k
        rw [key] at this
        simp only [divisionAfterSet, keysAfterSet, Fin.getElem_fin, mapIdx_getElem]
        split <;> exact this) h
    unfold writeDivision
    dsimp only
    split
    · exact kept d k
    · exact kept d k
  exact guarded_tame _ (written.trans (afterLeads_tame s _))

theorem doStopsSet_tame (b : List Byte) (s : State) : Tame s (doStopsSet b s).1 := guarded_tame _ (setDiv_tame id)

theorem doLevel_tame (b : List Byte) (s : State) : Tame s (doLevel b s).1 := by
  unfold doLevel
  split
  · exact .refl _
  · split
    · exact .refl _
    · split
      · exact .refl _
      · exact (setRun_tame _ s).trans (stopChange_tame _ _ _)

theorem doFaultClear_tame (b : List Byte) (s : State) : Tame s (doFaultClear b s).1 := by
  unfold doFaultClear
  split
  · exact .refl _
  · refine Tame.trans (Touches.tame (ps := [.drivers]) (.of_merge rfl)) (setDiv_tame fun h k => ?_)
    have := h k
    rw [key] at this
    simp only [clearDivision, Fin.getElem_fin, mapIdx_getElem]
    split <;> exact this

theorem grant_tame (src : YieldSource) (s : State) : Tame s (grant src s) := by
  have flushed (v : State) : Tame v (flush v) := Touches.tame (ps := [.queue]) (.of_merge rfl) (queue := .inr (Nat.zero_le _))
  have silenced (v : State) : Tame v (mapDivisions (fun _ x => yieldDivision x) v) :=
    mapDivisions_tame v fun _ x _ k => by
      simp only [yieldDivision, Fin.getElem_fin, mapIdx_getElem]
      split <;> exact Nat.zero_le _
  have left (v : State) : Tame v (followerYield v) :=
    Touches.tame (ps := [.cues, .follower]) (.of_merge rfl) (cues := .inr (Nat.zero_le _))
  have given (v u : State) : Tame v (setYielding { u.yielding with state := .yielded, rejoin := none } v) :=
    Touches.tame (ps := [.yieldState, .yielding]) (.of_merge rfl)
  have levelled (v : State) : Tame v (levelYield v) := by
    unfold levelYield onRun
    split
    · refine Tame.trans ?_ (setRun_tame _ _)
      split
      · exact .refl _
      · exact reportLevel_tame _ _ v
    · exact .refl _
  unfold grant
  dsimp only
  refine Tame.trans ?_ (notice_tame _ _)
  refine Tame.trans ?_ (levelled _)
  refine Tame.trans ?_ (given _ _)
  refine Tame.trans ?_ (left _)
  refine Tame.trans ?_ (mapShutters_touches _ _).tame
  exact ((syncRamps_tame s).trans (flushed _)).trans (silenced _)

theorem claim_tame (src : YieldSource) (s : State) : Tame s (claim src s) := by
  have present : Tame s (sourcePresent src s) := by
    unfold sourcePresent
    dsimp only
    split
    · exact (setSource_touches src true s).tame
    · exact (setSource_touches src true s).tame.trans (grant_tame _ _)
  exact present.trans (closeIfHeld_tame _)

theorem sourceAbsent_tame (src : YieldSource) (s : State) : Tame s (sourceAbsent src s) := by
  have gone : Tame s (setSource src false s) := (setSource_touches src false s).tame
  unfold sourceAbsent
  dsimp only
  split
  · split
    · exact (gone.trans (releaseYield_tame _)).trans (startQueued_tame _)
    · exact gone.trans (awaitTest_tame _)
  · exact gone

theorem quietReset_tame (s : State) : Tame s (quietReset s) := by
  refine (quietReset_touches s).tame (queue := .inr (Nat.zero_le _)) (cues := .inr (Nat.zero_le _)) (pauses := .inr (Nat.zero_le _))
    (onsets := .inr fun _ => Nat.zero_le _) (gates := .inr fun _ m => ?_) (holders := .inr fun _ d k => ?_)
  · simp [quietReset, quietFront, mic, Mic.afresh]
  · simp [quietReset, quietDivision, key, div, mapDivisions, KeyRecord.released]

/-! ### The events -/

theorem joinHistory_length {x : Int} {h : List Int} (k : h.length ≤ Config.maxHistory) :
    (joinHistory x h).length ≤ Config.maxHistory := by
  unfold joinHistory
  split
  · rw [List.length_append]
    exact ‹h.length < Config.maxHistory›
  · simp only [List.length_append, List.length_drop, List.length_singleton]
    have : ¬h.length < 8 := ‹_›
    have : h.length ≤ 8 := k
    show _ ≤ 8
    omega

theorem takeReading_tame (r : BitVec 12) (s : State) : Tame s (takeReading r s) := by
  unfold takeReading
  split
  · refine Tame.trans (Touches.tame (ps := [.history, .acoustic]) (.of_merge rfl) (history := .inr fun h => ?_))
      (updateInUse_touches _).tame
    exact joinHistory_length h
  · split
    · exact .refl _
    · exact Tame.trans (Touches.tame (ps := [.acoustic]) (.of_merge rfl)) (notice_tame _ _)

theorem queueOnset_tame (o : Onset) (s : State) : Tame s (queueOnset o s) := by
  refine (queueOnset_touches o s).tame (onsets := .inr fun h => ?_)
  unfold queueOnset
  split
  · rw [List.length_append]
    exact ‹s.front.onsets.length < Config.maxOnsets›
  · exact h

theorem routeOnset_tame (o : Onset) (s : State) : Tame s (routeOnset o s) := by
  unfold routeOnset
  split
  · exact Touches.tame (ps := [.counters]) (.of_merge rfl)
  · exact queueOnset_tame o s

theorem enterQuietCheck_tame (r : LevelRun) (s : State) : Tame s (enterQuietCheck r s) := setRun_tame _ s

theorem enterSounding_tame (r : LevelRun) (s : State) : Tame s (enterSounding r s) := by
  unfold enterSounding
  dsimp only
  split
  · exact abortRun_tame _ _ s
  · split
    · exact abortRun_tame _ _ s
    · exact (setRun_tame _ s).trans (reportOpening_tame _ _)

theorem quietValue_tame (x : Option Int) (t : Time) (n : Nat) (r : LevelRun) (s : State) : Tame s (quietValue x t n r s) := by
  unfold quietValue
  split
  · exact .refl _
  · split
    · exact setRun_tame _ s
    · split
      · exact setRun_tame _ s
      · split
        · exact enterSounding_tame r s
        · exact .refl _

theorem pipeOnset_tame (t : Time) (r : LevelRun) (s : State) : Tame s (pipeOnset t r s) := (pipeOnset_touches t r s).tame

theorem onRun_tame {f : LevelRun → State → State} (h : ∀ r s, Tame s (f r s)) (s : State) : Tame s (onRun f s) := by
  unfold onRun
  split
  · exact h _ s
  · exact .refl _

theorem detect_gates (now t : Time) (x : Mic) (e : Int) : (detect now t x e).gates = x.gates := by
  unfold detect
  split
  · rfl
  · split <;> rfl

theorem afterBlock_gates (now : Time) (env : Nat) (t : Time) (x : Mic) :
    (afterBlock now env t x).gates = expireWindows t x.gates := by
  unfold afterBlock
  dsimp only
  split
  · exact detect_gates _ _ _ _
  · rfl

theorem takeBlock_tame (m : MicNo) (first : Time) (samples : List (BitVec 12)) (s : State) :
    Tame s (takeBlock m first samples s) := by
  have heard : Tame s (setMic m (afterBlock s.now (envelopeOf samples) first (mic s m)) s) :=
    setMic_tame (by rw [afterBlock_gates]; exact List.length_filter_le _ _)
  unfold takeBlock
  dsimp only
  split
  · have quiet := heard.trans (onRun_tame (fun r u => quietValue_tame (excessOf (mic s m) (envelopeOf samples)) first
      (mic s m).settings.fall r u) _)
    cases onsetOf s.now m (envelopeOf samples) first (mic s m) with
    | none => exact quiet
    | some o => exact quiet.trans (onRun_tame (pipeOnset_tame _) _)
  · cases onsetOf s.now m (envelopeOf samples) first (mic s m) with
    | none => exact heard
    | some o => exact heard.trans (routeOnset_tame o _)

theorem failNoisy_tame (r : LevelRun) (s : State) : Tame s (failNoisy r s) := by
  unfold failNoisy
  split
  · exact setRun_tame _ s
  · exact enterDone_tame _ _ s

theorem failNoSound_tame (r : LevelRun) (s : State) : Tame s (failNoSound r s) := by
  unfold failNoSound
  split
  · exact setRun_tame _ s
  · exact enterDone_tame _ _ s

theorem endRelease_tame (r : LevelRun) (s : State) : Tame s (endRelease r s) := by
  have stored (n : Nat) : Tame s (setDiv r.division { div s r.division with speech := n } s) := setDiv_tame id
  unfold endRelease
  split
  · unfold finishRun
    dsimp only
    refine Tame.trans ?_ (enterDone_tame _ _ _)
    split
    · exact .refl _
    · exact (stored _).trans (retime_tame _)
    · exact (stored _).trans (retime_tame _)
  · exact setRun_tame _ s

theorem endStopChange_tame (d : DivNo) (s : State) : Tame s (endStopChange d s) := by
  have settled : Tame s (setDiv d { div s d with stopState := .settled } s) := setDiv_tame id
  exact settled.trans (levelChangeEnd_touches d _).tame

theorem scanCoils_tame (r : CoilReadings) (s : State) : Tame s (scanCoils r s) := by
  have scanned : Tame s (scanAll r { s with marks := { s.marks with scan := true } }) := by
    refine Tame.trans (Touches.tame (ps := [.clock]) (.of_merge rfl)) (mapDivisions_tame _ fun d x h k => ?_)
    have := h k
    simp only [Fin.getElem_fin, mapIdx_getElem] at this ⊢
    split
    · unfold scanKey scanCounts
      split <;> split <;> (try split) <;> exact this
    · exact this
  have shorted (v : State) : Tame v (levelShorted v) :=
    onRun_tame (fun r u => by
      split
      · exact abortRun_tame _ _ u
      · exact .refl _) v
  exact (scanned.trans (foldl_tame (fun s n => notice_tame n s) _ _)).trans (shorted _)

theorem headAtOnce_tame (s : State) : Tame s (headAtOnce s) := by
  unfold headAtOnce
  split
  · exact (actOnHead_tame s).trans (settle_tame s _)
  · exact (actOnHead_tame s).trans (closeIfHeld_tame _)

theorem onsetAtOnce_tame (s : State) : Tame s (onsetAtOnce s) := by
  have taken : Tame s (takeOnset (syncRamps s)) := (syncRamps_tame s).trans (takeOnset_tame _)
  unfold onsetAtOnce
  dsimp only
  split
  · exact taken
  · exact (taken.trans (mapChanged_tame _)).trans (settle_tame s _)

end Sys2Proof.Machine

/-! PROOFS. The bounds of an expansion, and the step that keeps every bound. -/

namespace Sys2Proof.Machine

-- The proofs are elaborated one after another, which keeps the whole text within its memory.
set_option Elab.async false

/-! ### What an expansion adds -/

theorem length_flatMap_le {α β : Type} {f : α → List β} {n : Nat} (h : ∀ x, (f x).length ≤ n) (l : List α) :
    (l.flatMap f).length ≤ n * l.length := by
  induction l with
  | nil => simp
  | cons x xs ih =>
    have := h x
    simp only [List.flatMap_cons, List.length_append, List.length_cons, Nat.mul_add]
    omega

theorem targets_length (t : Targets) : t.list.length ≤ 2 := by
  obtain ⟨a, b⟩ := t
  cases a <;> cases b <;> simp [Targets.list]

/-- At most two targets of five voices are examined (R109). -/
theorem examined_length (s : State) (r : Reading) : (examined s r).length ≤ 10 := by
  refine Nat.le_trans (length_flatMap_le (n := 2) (fun v => ?_) allVoices) (by decide)
  split
  · rw [List.length_map]
    exact targets_length _
  · exact Nat.zero_le _

theorem stopSetEntries_length (s : State) (r : Reading) : (stopSetEntries s r).length ≤ 6 := by
  unfold stopSetEntries
  split
  · split
    · exact Nat.zero_le _
    · rw [List.length_map]
      exact Nat.le_trans (List.length_filter_le _ _) (by decide)
  · exact Nat.zero_le _

/-- An expansion writes no more entries than the room it asks for (R115). -/
theorem newEntries_length (s : State) (r : Reading) : (newEntries s r).1.length ≤ Config.expansionRoom := by
  have pairs := length_flatMap_le (n := 2) (f := fun p : Examined × BitVec 16 => pairEntries s r p.1 p.2)
    (fun p => Nat.le_refl _) (((examined s r).filter (kept s)).zip
      (takePairs (usedPairs s.queue) ((examined s r).filter (kept s)).length s.expander.pairCounter).1)
  rw [List.length_zip] at pairs
  have kept := List.length_filter_le (kept s) (examined s r)
  have few := examined_length s r
  have stops := stopSetEntries_length s r
  simp only [newEntries, List.length_append]
  show _ ≤ 26
  omega

theorem linkOne_length (q : List Entry) (e : Entry) : (linkOne q e).length = q.length := by
  unfold linkOne
  split
  · split
    · rename_i h
      rw [(splitFirst_some h).1]
      simp
    · rfl
  · rfl

theorem linkAll_length (q new : List Entry) : (linkAll q new).length = q.length := by
  unfold linkAll
  induction new generalizing q with
  | nil => rfl
  | cons e es ih => rw [List.foldl_cons, ih, linkOne_length]

theorem placePause_length (p : Pause) (ps : List Pause) : (placePause p ps).length = ps.length + 1 := by
  induction ps with
  | nil => rfl
  | cons q qs ih =>
    unfold placePause
    split <;> simp [ih]

/-- The pause and the cue of an expansion have joined their lists, and the absent divisions are counted (R96, R82, R111). -/
def expansionPosted (r : Reading) (s : State) : State :=
  let s := if makesPause s r then addPause r s else s
  let s := if makesCue r then postCue r.index r.eventIndex r.event.pos (isRejoinEvent s r) s else s
  countNoDivision ((examined s r).filter fun x => !kept s x).length s

/-- The entries of an expansion have joined the queue (R116, R120, R126). -/
def expansionQueued (r : Reading) (s : State) : State :=
  insertEntries (newEntries s r).1 { s with queue := linkAll s.queue (newEntries s r).1 }

/-- The cursor has moved past the event just expanded (R113, R117, R118). -/
def expansionMoved (r : Reading) (counter : BitVec 16) (s : State) : State :=
  advanceCursor { s with expander := { s.expander with
    cursor := cursorNext r, carried := carriedAfter r, firstDone := true, pairCounter := counter } }

theorem expand_eq (r : Reading) (s : State) : expand r s =
    expansionMoved r (newEntries (expansionPosted r s) r).2 (expansionQueued r (expansionPosted r s)) := rfl

theorem expansionMoved_touches (r : Reading) (n : BitVec 16) (s : State) : Touches [.expander] s (expansionMoved r n s) :=
  (advanceCursor_touches _).after (ps := [.expander]) (.of_merge rfl)

theorem expansionQueued_touches (r : Reading) (s : State) : Touches [.queue, .counters] s (expansionQueued r s) :=
  (insertEntries_touches _ _).after (ps := [.queue]) (.of_merge rfl)

theorem expansionPosted_touches (r : Reading) (s : State) :
    Touches [.pauses, .cues, .follower, .counters] s (expansionPosted r s) := by
  have paused : Touches [.pauses] s (if makesPause s r then addPause r s else s) := .ite (addPause_touches r s) (.refl _ _)
  have posted (v : State) (b : Bool) : Touches [.cues, .follower] v
      (if makesCue r then postCue r.index r.eventIndex r.event.pos b v else v) := .ite (postCue_touches _ _ _ _ v) (.refl _ _)
  have counted (v : State) (n : Nat) : Touches [.counters] v (countNoDivision n v) := .of_merge rfl
  unfold expansionPosted
  exact (counted _ _).after ((posted _ _).after paused (rs := [.pauses, .cues, .follower]))

theorem expansionQueued_length (r : Reading) (s : State) :
    (expansionQueued r s).queue.length = s.queue.length + (newEntries s r).1.length := by
  simp [expansionQueued, insertEntries, countLate, linkAll_length]

theorem addPause_length (r : Reading) (s : State) : (addPause r s).map.pauses.length ≤ s.map.pauses.length + 1 := by
  unfold addPause
  dsimp only
  split
  · exact Nat.le_succ _
  · simp [setPauses, placePause_length]

theorem expansionPosted_pauses (r : Reading) (s : State) :
    (expansionPosted r s).map.pauses = (if makesPause s r then addPause r s else s).map.pauses := by
  unfold expansionPosted
  dsimp only
  split <;> split <;> rfl

theorem expansionPosted_cues_length (r : Reading) (s : State) :
    (expansionPosted r s).follower.cues.length = s.follower.cues.length + if makesCue r then 1 else 0 := by
  have paused : (if makesPause s r then addPause r s else s).follower.cues = s.follower.cues :=
    Touches.cues (ps := [.pauses]) (.ite (addPause_touches r s) (.refl _ _))
  unfold expansionPosted
  dsimp only
  split <;> simp_all [countNoDivision, postCue]

theorem roomFor_iff {s : State} {r : Reading} : roomFor s r = true ↔ s.queue.length + 26 ≤ 256 ∧
    (makesCue r = true → s.follower.cues.length < 32) ∧ (makesPause s r = true → s.map.pauses.length < 4) := by
  have guarded_ (b : Bool) (p : Prop) [Decidable p] : (!b || decide p) = true ↔ (b = true → p) := by
    cases b <;> simp
  rw [roomFor, Bool.and_eq_true, Bool.and_eq_true, guarded_, guarded_, decide_eq_true_iff, and_assoc]

/-- An expansion that finds room keeps within it (R115). -/
theorem expand_bounded {r : Reading} {s : State} (h : Bounded s) (room : roomFor s r = true) : Bounded (expand r s) := by
  obtain ⟨forEntries, forCue, forPause⟩ := roomFor_iff.1 room
  have t := expand_touches r s
  have moved := expansionMoved_touches r (newEntries (expansionPosted r s) r).2 (expansionQueued r (expansionPosted r s))
  have queued := expansionQueued_touches r (expansionPosted r s)
  have posted := expansionPosted_touches r s
  have few := newEntries_length (expansionPosted r s) r
  have count : noticeCount (expand r s).link = noticeCount s.link := by rw [noticeCount, t.outgoing, noticeCount]
  refine ⟨t.rx ▸ h.rx, t.tx ▸ h.tx, count ▸ h.notices, by rw [t.outgoing, count]; exact h.replies, t.onsets ▸ h.onsets,
    fun m => ?_, ?_, ?_, ?_, t.history ▸ h.history, fun d k => ?_⟩
  · have := h.gates m
    rw [mic] at this ⊢
    rwa [t.mics]
  · have := h.cues
    rw [expand_eq, moved.cues, queued.cues, expansionPosted_cues_length]
    show _ ≤ 32
    split
    · exact forCue ‹_›
    · exact this
  · have := h.pauses
    rw [expand_eq, moved.pauses, queued.pauses, expansionPosted_pauses]
    split
    · exact Nat.le_trans (addPause_length r s) (forPause ‹_›)
    · exact this
  · rw [expand_eq, moved.queue, expansionQueued_length, posted.queue]
    exact Nat.le_trans (Nat.add_le_add_left few _) forEntries
  · have := h.holders d k
    rw [key, div] at this ⊢
    rwa [t.divisions]

/-! ### The step -/

theorem Tame.bounded {s s' : State} (t : Tame s s') (h : Bounded s) : Bounded s' :=
  ⟨t.lines.1 ▸ h.rx, t.lines.2 ▸ h.tx, t.notices h.notices, by
    have := t.replies
    have := h.replies
    omega, t.onsets h.onsets, t.gates h.gates, Nat.le_trans t.cues h.cues, Nat.le_trans t.pauses h.pauses,
    Nat.le_trans t.queue h.entries,
    t.history h.history, t.holders h.holders⟩

theorem arrive_tame (t : Time) (s : State) : Tame s (arrive t s) := (arrive_touches t s).tame

theorem event_bounded {s s' : State} {t : Time} {p : State → Bool} {act : State → State} (h : event t p act s = .next s')
    (hs : Bounded s) (acts : ∀ u, p u = true → Bounded u → Bounded (act u)) : Bounded s' := by
  have arrived := (arrive_tame t s).bounded hs
  rcases event_cases h with ⟨-, rfl⟩ | ⟨-, -, rfl⟩ | ⟨-, hp, rfl⟩
  · exact hs
  · exact arrived
  · exact acts _ hp arrived

theorem event_tame_bounded {s s' : State} {t : Time} {p : State → Bool} {act : State → State} (h : event t p act s = .next s')
    (hs : Bounded s) (acts : ∀ u, Tame u (act u)) : Bounded s' :=
  event_bounded h hs fun u _ hu => (acts u).bounded hu

/-- An answer joins a list in which no reply waits (R206, R208). -/
theorem answer_bounded {s : State} (k g : Byte) (st : Status) (fs : List Byte) (h : Bounded s)
    (free : s.link.outgoing.length = noticeCount s.link) : Bounded (answer k g st fs s) := by
  have count : noticeCount (answer k g st fs s).link = noticeCount s.link := by
    simp [answer, noticeCount, Message.isNotice]
  have length : (answer k g st fs s).link.outgoing.length = s.link.outgoing.length + 1 := by simp [answer]
  exact ⟨h.rx, h.tx, count ▸ h.notices, Nat.le_of_eq (by rw [length, count, free]), h.onsets, h.gates, h.cues, h.pauses, h.entries, h.history,
    h.holders⟩

theorem handlerFree_iff {l : ServiceLink} : handlerFree l = true ↔ l.outgoing.length = noticeCount l := by
  rw [handlerFree, noticeCount, List.all_eq_true, eq_comm, List.countP_eq_length]

theorem request_tame_bounded {s s' : State} {t : Time} {f : Frame} {mine lengthOk : Bool} {h : Handler}
    (hx : request t f mine lengthOk h s = .next s') (hs : Bounded s) (acts : ∀ u, Tame u (h u).1) : Bounded s' := by
  have arrived := (arrive_tame t s).bounded hs
  have waits : Bounded { arrive t s with link := { s.link with waiting := some f } } :=
    Tame.bounded (s := s) (Tame.trans (arrive_tame t s) (by
      rw [← arrive_link t s]
      exact Touches.tame (ps := [.link]) (.of_merge rfl))) hs
  have cleared : Tame s (clearWaiting (arrive t s)) :=
    (arrive_tame t s).trans (Touches.tame (ps := [.link]) (.of_merge rfl))
  rcases request_cases hx with ⟨-, rfl⟩ | rfl | rfl | ⟨free, -, rfl⟩ | ⟨free, rfl⟩
  · exact hs
  · exact arrived
  · exact waits
  · have k := cleared.trans (acts _)
    refine answer_bounded _ _ _ _ (k.bounded hs) ?_
    have := k.replies
    have := handlerFree_iff.1 free
    omega
  · refine answer_bounded _ _ _ _ (cleared.bounded hs) ?_
    have := cleared.replies
    have := handlerFree_iff.1 free
    omega

theorem receive_bounded {s : State} (b : Byte) (h : Bounded s) : Bounded (receive b s) := by
  unfold receive
  split
  · exact ⟨by rw [List.length_append]; exact ‹s.link.rx.length < Config.fifoBytes›, h.tx, h.notices, h.replies, h.onsets, h.gates, h.cues, h.pauses,
      h.entries, h.history, h.holders⟩
  · exact (Touches.tame (ps := [.counters]) (.of_merge rfl)).bounded h

theorem receiverStep_tame (b : Byte) (t : Time) (s : State) : Tame s (receiverStep b t s) := (receiverStep_touches b t s).tame

theorem discardStalled_tame (s : State) : Tame s (discardStalled s) := Touches.tame (ps := [.link, .counters]) (.of_merge rfl)

theorem takeByte_bounded {s : State} (h : Bounded s) : Bounded (takeByte s) := by
  unfold takeByte
  split
  · exact h
  · rename_i b t rest hq
    have taken : Bounded { s with link := { s.link with rx := rest } } := by
      have := h.rx
      rw [hq] at this
      exact ⟨Nat.le_trans (Nat.le_succ _) this, h.tx, h.notices, h.replies, h.onsets, h.gates, h.cues, h.pauses, h.entries, h.history,
        h.holders⟩
    refine (receiverStep_tame b t _).bounded ?_
    split
    · exact (discardStalled_tame _).bounded taken
    · exact taken

theorem sendMessage_bounded {s : State} (h : Bounded s) : Bounded (sendMessage s) := by
  unfold sendMessage
  split
  · rename_i m hm
    unfold sendable at hm
    split at hm
    · cases hm
    · rename_i m' rest hq
      split at hm
      · cases hm
        have count : noticeCount s.link = rest.countP Message.isNotice + if m.isNotice then 1 else 0 := by
          rw [noticeCount, hq, List.countP_cons]
        have notices := h.notices
        have replies := h.replies
        rw [count] at notices replies
        rw [hq, List.length_cons] at replies
        refine ⟨h.rx, by simpa using ‹s.link.tx.length + m.frame.bytes.length ≤ _›, ?_, ?_, h.onsets, h.gates, h.cues, h.pauses,
          h.entries, h.history, h.holders⟩
        · simp only [noticeCount, hq, List.drop_one, List.tail_cons]
          exact Nat.le_trans (Nat.le_add_right _ _) notices
        · simp only [noticeCount, hq, List.drop_one, List.tail_cons]
          split at replies <;> omega
      · cases hm
  · exact h

theorem byteSent_bounded {s : State} (h : Bounded s) : Bounded (byteSent s) :=
  ⟨h.rx, by simpa using Nat.le_trans (Nat.sub_le _ _) h.tx, h.notices, h.replies, h.onsets, h.gates, h.cues, h.pauses, h.entries,
    h.history, h.holders⟩

theorem expandAtOnce_bounded {s : State} (h : Bounded s) : Bounded (expandAtOnce s) := by
  unfold expandAtOnce
  split
  · rename_i r hr
    have room : roomFor s r = true := by
      unfold expandable at hr
      split at hr
      · cases hr
      · obtain ⟨r', -, he⟩ := Option.bind_eq_some_iff.1 hr
        split at he
        · cases he
          simp_all
        · cases he
    have synced : roomFor (syncRamps s) r = true := by
      have factor : activeFactor (syncRamps s) = activeFactor s := by simp [activeFactor]
      simpa [roomFor, makesPause, factor] using room
    exact (settle_tame s _).bounded (expand_bounded ((syncRamps_tame s).bounded h) synced)
  · exact h

theorem sendNextLine_tame (s : State) : Tame s (sendNextLine s) := by
  unfold sendNextLine
  split
  · exact sendLine_tame s _
  · exact .refl _

theorem reset_bounded : Bounded State.reset := by constructor <;> decide

theorem release_bounded (rate1 rate0 : Bool) (s : State) (h : Bounded s) : Bounded (release rate1 rate0 s) := by
  have started : Bounded (setFilter (filterStart { s with now := 0, rstHeld := false, marks := .taken, link :=
      { ServiceLink.powerOn with rate := BitVec.ofNat 2 ((if rate1 then 2 else 0) + (if rate0 then 1 else 0)) } })
      { s with now := 0, rstHeld := false, marks := .taken, link :=
        { ServiceLink.powerOn with rate := BitVec.ofNat 2 ((if rate1 then 2 else 0) + (if rate0 then 1 else 0)) } }) :=
    ⟨Nat.zero_le _, Nat.zero_le _, Nat.zero_le _, Nat.zero_le _, h.onsets, h.gates, h.cues, h.pauses, h.entries, h.history,
      h.holders⟩
  exact (notice_tame _ _).bounded started

theorem exec_bounded (i : Instr) (s s' : State) (hx : exec i s = .next s') (h : Bounded s) : Bounded s' := by
  cases i <;> dsimp only [exec] at hx
  case resetAssert =>
    cases hx
    exact (Touches.tame (ps := [.outside]) (.of_merge rfl)).bounded reset_bounded
  case resetRelease rate1 rate0 =>
    unfold execResetRelease at hx
    cases hx
    split
    · exact release_bounded rate1 rate0 s h
    · exact h
  case rxdByte t b => exact event_bounded hx h fun _ _ => receive_bounded b
  case receiverByte t => exact event_bounded hx h fun _ _ => takeByte_bounded
  case frameGap t => exact event_tame_bounded hx h discardStalled_tame
  case badKind t k g b => exact request_tame_bounded hx h fun u => .refl u
  case transmitMessage t => exact event_bounded hx h fun _ _ => sendMessage_bounded
  case status t g b => exact request_tame_bounded hx h fun _ => Touches.tame (ps := [.link]) (.of_merge rfl)
  case counters t g b => exact request_tame_bounded hx h fun _ => Touches.tame (ps := [.counters]) (.of_merge rfl)
  case quietReset t g b => exact request_tame_bounded hx h quietReset_tame
  case tuneBegin t g b => exact request_tame_bounded hx h fun u => (doTuneBegin_touches b u).tame
  case tuneData t g b => exact request_tame_bounded hx h fun u => (doTuneData_touches b u).tame
  case tuneEnd t g b => exact request_tame_bounded hx h fun u => (doTuneEnd_touches b u).tame
  case tuneErase t g b => exact request_tame_bounded hx h fun u => (doTuneErase_touches b u).tame
  case tuneRead t g b => exact request_tame_bounded hx h fun u => (doTuneRead_touches b u).tame
  case planSet t g b => exact request_tame_bounded hx h fun u => (doPlanSet_touches b u).tame
  case planCancel t g b => exact request_tame_bounded hx h fun u => (doPlanCancel_touches u).tame
  case planStartNow t g b => exact request_tame_bounded hx h (doPlanStartNow_tame b)
  case planStartNext t g b => exact request_tame_bounded hx h doPlanStartNext_tame
  case stopNow t g b => exact request_tame_bounded hx h (doStopNow_tame b)
  case stopLine t g b => exact request_tame_bounded hx h (stopPartAtOnce_tame true)
  case stopVerse t g b => exact request_tame_bounded hx h (stopPartAtOnce_tame false)
  case verses t g b => exact request_tame_bounded hx h (versesAtOnce_tame b)
  case tempo t g b => exact request_tame_bounded hx h (doTempo_tame b)
  case followSet t g b => exact request_tame_bounded hx h fun u => (doFollowSet_touches b u).tame
  case micSet t g b => exact request_tame_bounded hx h (doMicSet_tame b)
  case divisionSet t g b => exact request_tame_bounded hx h (doDivisionSet_tame b)
  case stopsSet t g b => exact request_tame_bounded hx h (doStopsSet_tame b)
  case registrationSet t g b => exact request_tame_bounded hx h fun u => (doRegistrationSet_touches b u).tame
  case voicingSet t g b => exact request_tame_bounded hx h fun u => (doVoicingSet_touches b u).tame
  case curveSet t g b => exact request_tame_bounded hx h fun u => (doCurveSet_touches b u).tame
  case expressNow t g b => exact request_tame_bounded hx h fun u => (doExpress_touches b placeNow u).tame
  case expressNext t g b => exact request_tame_bounded hx h fun u => (doExpress_touches b placeNext u).tame
  case level t g b => exact request_tame_bounded hx h (doLevel_tame b)
  case yield t g b => exact request_tame_bounded hx h (claim_tame .link)
  case resume t g b => exact request_tame_bounded hx h (sourceAbsent_tame .link)
  case faultClear t g b => exact request_tame_bounded hx h (doFaultClear_tame b)
  case tableRead t g b => exact request_tame_bounded hx h fun u => (doTableRead_touches b u).tame
  case tempReading t r =>
    refine event_tame_bounded hx h fun u => ?_
    have marked : Tame u { u with marks := { u.marks with temp := true } } := Touches.tame (ps := [.clock]) (.of_merge rfl)
    exact (marked.trans (takeReading_tame r _)).trans (afterLeads_tame _ _)
  case envelopeBlock t m first samples => exact event_tame_bounded hx h (takeBlock_tame m first samples)
  case onsetTaken t => exact event_tame_bounded hx h onsetAtOnce_tame
  case cueExpiry t => exact event_tame_bounded hx h fun u => missCue_tame _ u
  case matchedRecordRemoval t => exact event_tame_bounded hx h removeMatched_tame
  case pauseStart t => exact event_tame_bounded hx h fun u => (actPauseStart_tame u).trans (settle_tame u _)
  case pauseEnd t => exact event_tame_bounded hx h fun u => (actPauseEnd_tame u).trans (settle_tame u _)
  case segmentStart t => exact event_tame_bounded hx h fun u => (startSegment_tame u).trans (settle_tame u _)
  case segmentEnd t => exact event_tame_bounded hx h fun u => (endSegment_tame u).trans (settle_tame u _)
  case lineAhead t => exact event_tame_bounded hx h sendNextLine_tame
  case hymnClose t => exact event_tame_bounded hx h closeHymn_tame
  case idleClockTick t => exact event_tame_bounded hx h fun _ => Touches.tame (ps := [.clock, .shutters]) (.of_merge rfl)
  case rampDelayEnd t d => exact event_tame_bounded hx h fun u => (rampAct_touches d u).tame
  case rampStep t d => exact event_tame_bounded hx h fun u => (rampAct_touches d u).tame
  case rampHoldEnd t d => exact event_tame_bounded hx h fun u => (rampAct_touches d u).tame
  case expansion t => exact event_bounded hx h fun _ _ => expandAtOnce_bounded
  case entryFallsDue t => exact event_tame_bounded hx h headAtOnce_tame
  case stopChangeEnd t d => exact event_tame_bounded hx h (endStopChange_tame d)
  case coilScan t r => exact event_tame_bounded hx h (scanCoils_tame r)
  case quietCheckDeadline t => exact event_tame_bounded hx h (onRun_tame failNoisy_tame)
  case pipeHoldEnd t => exact event_tame_bounded hx h (onRun_tame fun _ u => setRun_tame _ u)
  case listenDeadline t => exact event_tame_bounded hx h (onRun_tame failNoSound_tame)
  case releaseEnd t => exact event_tame_bounded hx h (onRun_tame endRelease_tame)
  case spacingEnd t => exact event_tame_bounded hx h (onRun_tame enterQuietCheck_tame)
  case ctChange t active =>
    unfold execCtChange at hx
    split at hx
    · injection hx with hx
      subst hx
      exact (Touches.tame (ps := [.outside]) (.of_merge rfl)).bounded h
    · exact event_tame_bounded hx h fun _ => Touches.tame (ps := [.outside, .yielding]) (.of_merge rfl)
  case ctTouchHeld t =>
    exact event_tame_bounded hx h fun u => (Touches.tame (ps := [.yielding]) (.of_merge rfl)).trans (claim_tame .pin _)
  case ctReleaseDelayEnd t =>
    exact event_tame_bounded hx h fun u => (Touches.tame (ps := [.yielding]) (.of_merge rfl)).trans (sourceAbsent_tame .pin _)
  case rejoinTime t => exact event_tame_bounded hx h rejoined_tame
  case timeStale t m => exact event_tame_bounded hx h fun _ => setMic_tame (Nat.le_refl _)
  case transmitByteEnd t => exact event_bounded hx h fun _ _ => byteSent_bounded

/-- Settles O56: every command keeps the lists as they were or makes room first, and a reply is made only where none waits. -/
theorem stepKeepsBounds : Obligations.StepKeepsBounds := fun _ _ hs h =>
  step_keeps (fun _ _ t k => (t.tame).bounded k)
    (fun _ k => (Touches.tame (ps := [.clock]) (.of_merge rfl)).bounded k) exec_bounded hs h

end Sys2Proof.Machine

/-! PROOFS. The organ's invariant (R33, R148, R179, R194): the wind of silent and of sounding divisions, what the play and the
yield have in common, and the operations that change neither. -/

namespace Sys2Proof.Machine

-- The proofs are elaborated one after another, which keeps the whole text within its memory.
set_option Elab.async false

/-! ### The wind -/

theorem allReleased_iff {s : State} : allReleased s = true ↔ ∀ d k, (key s d k).holders = 0 := by
  simp [allReleased, allFin]

/-- No run holds its test key. -/
def Untested (s : State) : Prop := ∀ r ∈ s.levelling.run, r.phase ≠ .sounding

theorem Untested.of_none {s : State} (h : s.levelling.run = none) : Untested s := fun _ hr => nomatch h.symm.trans hr

theorem Untested.testDriven {s : State} (h : Untested s) (d : DivNo) (k : KeyNo) : testDriven s d k = false := by
  unfold Machine.testDriven
  cases hr : s.levelling.run with
  | none => rfl
  | some r => simp [h r hr]

/-- A division whose keys nobody holds has no demand. -/
theorem windDemand_eq_zero {s : State} {d : DivNo} (released : ∀ k, (key s d k).holders = 0) (quiet : Untested s) :
    windDemand s d = 0 := by
  have none (k : KeyNo) : driven s d k = false := by simp [driven, released k, quiet.testDriven]
  have count : drivenCount s d = 0 := by
    rw [drivenCount, List.length_eq_zero_iff, List.filter_eq_nil_iff]
    intro k _
    simp [none k]
  rw [windDemand, count, Nat.zero_mul]

theorem wind_of_silence {s : State} (released : allReleased s = true) (quiet : Untested s) (d : DivNo) :
    windDemand s d ≤ (div s d).capacity := by
  rw [windDemand_eq_zero (allReleased_iff.1 released d) quiet]
  exact Nat.zero_le _

theorem drivenCount_le {s s' : State} {d : DivNo} (h : ∀ k, driven s' d k = true → driven s d k = true) :
    drivenCount s' d ≤ drivenCount s d := by
  rw [drivenCount, drivenCount, ← List.countP_eq_length_filter, ← List.countP_eq_length_filter]
  exact List.countP_mono_left fun k _ => h k

/-- Fewer driven valves and the same stops make no greater demand. -/
theorem windDemand_le {s s' : State} {d : DivNo} (h : ∀ k, driven s' d k = true → driven s d k = true)
    (weight : drawnWeight (div s' d) = drawnWeight (div s d)) : windDemand s' d ≤ windDemand s d := by
  rw [windDemand, windDemand, weight]
  exact Nat.mul_le_mul_right _ (drivenCount_le h)

theorem countP_le_add_count {α : Type} [BEq α] [LawfulBEq α] {p q : α → Bool} {j : α}
    (h : ∀ k, p k = true → q k = true ∨ k = j) (l : List α) : l.countP p ≤ l.countP q + l.count j := by
  induction l with
  | nil => exact Nat.zero_le _
  | cons k l ih =>
    rw [List.countP_cons, List.countP_cons, List.count_cons]
    by_cases hp : p k = true
    · rw [if_pos hp]
      rcases h k hp with hq | rfl
      · rw [if_pos hq]
        omega
      · rw [if_pos (beq_self_eq_true k)]
        omega
    · rw [if_neg hp]
      omega

/-- One valve more adds at most one. -/
theorem drivenCount_le_succ {s s' : State} {d : DivNo} {j : KeyNo}
    (h : ∀ k, driven s' d k = true → driven s d k = true ∨ k = j) : drivenCount s' d ≤ drivenCount s d + 1 := by
  have once : (allFin 61).count j ≤ 1 := List.nodup_iff_count.1 (List.nodup_finRange 61) j
  have more := countP_le_add_count h (allFin 61)
  rw [List.countP_eq_length_filter, List.countP_eq_length_filter] at more
  exact Nat.le_trans more (Nat.add_le_add_left once _)

theorem div_congr {s s' : State} (h : s'.drivers.divisions = s.drivers.divisions) (d : DivNo) : div s' d = div s d := by
  rw [div, h, div]

theorem key_congr {s s' : State} (h : s'.drivers.divisions = s.drivers.divisions) (d : DivNo) (k : KeyNo) :
    key s' d k = key s d k := by rw [key, div_congr h, key]

theorem driven_congr {s s' : State} (divisions : s'.drivers.divisions = s.drivers.divisions) (yield : yielded s' = yielded s)
    (run : s'.levelling.run = s.levelling.run) (d : DivNo) (k : KeyNo) : driven s' d k = driven s d k := by
  simp only [driven, testDriven, key_congr divisions, yield, run]

theorem allReleased_congr {s s' : State} (h : s'.drivers.divisions = s.drivers.divisions) : allReleased s' = allReleased s := by
  simp only [allReleased, key_congr h]

theorem wind_congr {s s' : State} (wind : ∀ d, windDemand s d ≤ (div s d).capacity)
    (divisions : s'.drivers.divisions = s.drivers.divisions) (yield : yielded s' = yielded s)
    (run : s'.levelling.run = s.levelling.run) (d : DivNo) : windDemand s' d ≤ (div s' d).capacity := by
  have same := div_congr divisions d
  refine Nat.le_trans (windDemand_le (fun k hk => ?_) (by rw [same])) (same.symm ▸ wind d)
  rwa [driven_congr divisions yield run] at hk

theorem Touches.yielded {ps : List Part} {s s' : State} (t : Touches ps s s') (h : Part.yieldState ∉ ps := by decide) :
    yielded s' = yielded s := by
  rw [Machine.yielded, t.yieldState h, Machine.yielded]

/-! ### Operations that change neither the organ nor who has it -/

/-- A ramp is at rest and none waits. -/
def RampIdle (sh : Shutter) : Prop := sh.running = .idle ∧ sh.queued = none

/-- An operation that leaves the organ's owner, the keys and the stops, and starts nothing where nothing was. -/
structure Calm (s s' : State) : Prop where
  divisions : s'.drivers.divisions = s.drivers.divisions
  run : s'.levelling.run = s.levelling.run
  yield : yielded s' = yielded s
  play : s'.plan.play = .idle ↔ s.plan.play = .idle
  current : s'.map.current = s.map.current
  queue : s'.queue.length ≤ s.queue.length
  cues : s'.follower.cues.length ≤ s.follower.cues.length
  ramps : (∀ d, RampIdle (shutter s d)) → ∀ d, RampIdle (shutter s' d)

theorem Calm.refl (s : State) : Calm s s := ⟨rfl, rfl, rfl, .rfl, rfl, Nat.le_refl _, Nat.le_refl _, id⟩

theorem Calm.trans {s t u : State} (h : Calm s t) (k : Calm t u) : Calm s u :=
  ⟨k.divisions.trans h.divisions, k.run.trans h.run, k.yield.trans h.yield, k.play.trans h.play, k.current.trans h.current,
    Nat.le_trans k.queue h.queue, Nat.le_trans k.cues h.cues, fun b => k.ramps (h.ramps b)⟩

theorem Touches.calm {ps : List Part} {s s' : State} (t : Touches ps s s') (m : Tame s s')
    (divisions : Part.divisions ∉ ps := by decide) (run : Part.run ∉ ps := by decide)
    (yield : Part.yieldState ∉ ps := by decide) (current : Part.current ∉ ps := by decide)
    (play : Part.plan ∉ ps ∨ (s'.plan.play = .idle ↔ s.plan.play = .idle) := by exact .inl (by decide))
    (ramps : Part.shutters ∉ ps ∨ ((∀ d, RampIdle (shutter s d)) → ∀ d, RampIdle (shutter s' d)) := by
      exact .inl (by decide)) : Calm s s' :=
  ⟨t.divisions divisions, t.run run, t.yielded yield, play.elim (fun h => by rw [t.play h]) id, t.current current, m.queue, m.cues,
    ramps.elim (fun h b d => by
      have := b d
      rw [shutter] at this ⊢
      rwa [t.shutters h]) id⟩

theorem eq_nil_of_length_le {α : Type} {l m : List α} (h : l.length ≤ m.length) (k : m = []) : l = [] := by
  subst k
  exact List.length_eq_zero_iff.1 (Nat.le_zero.1 h)

theorem Calm.organ {s s' : State} (c : Calm s s') (h : OrganSound s) : OrganSound s' := by
  refine ⟨wind_congr h.wind c.divisions c.yield c.run, fun hp => ?_, fun hr => ?_, fun hy => ?_⟩
  · obtain ⟨queue, keys, current⟩ := h.idle (c.play.1 hp)
    exact ⟨eq_nil_of_length_le c.queue queue, (allReleased_congr c.divisions).trans keys, c.current.trans current⟩
  · rw [c.run] at hr
    exact ⟨c.play.2 (h.run hr).1, c.yield.trans (h.run hr).2⟩
  · have g := h.given (c.yield.symm.trans hy)
    exact ⟨eq_nil_of_length_le c.queue g.queue, eq_nil_of_length_le c.cues g.cues, (allReleased_congr c.divisions).trans g.keys,
      fun d => div_congr c.divisions d ▸ g.stops d, c.ramps g.ramps⟩

/-! #### Ramps at rest -/

theorem countRisen_idle {x : Expression} {sh : Shutter} (h : sh.running = .idle) (n : Nat) : countRisen x n sh = sh := by
  cases n with
  | zero => rfl
  | succ n => simp [countRisen, rampMove, suNeeded, h]

theorem settleShutter_idle {x : Expression} {sh : Shutter} (h : RampIdle sh) : RampIdle (settleShutter x sh) := by
  rw [settleShutter, countRisen_idle h.1]
  simpa [absorb, h.1, RampIdle] using h.2

theorem riseShutter_idle {n : Nat} {sh : Shutter} (h : RampIdle sh) : RampIdle (riseShutter n sh) := by
  rw [riseShutter, h.1]
  exact h

theorem countAll_idle {s : State} (h : ∀ d, RampIdle (shutter s d)) (d : DivNo) : RampIdle (shutter (countAll s) d) := by
  rw [countAll, shutter_mapShutters]
  exact settleShutter_idle (h d)

theorem raiseClock_idle {s : State} {v : Nat} (h : ∀ d, RampIdle (shutter s d)) (d : DivNo) :
    RampIdle (shutter (raiseClock v s) d) := by
  rw [raiseClock, shutter_mapShutters]
  exact riseShutter_idle (h d)

theorem readClock_idle {s : State} (h : ∀ d, RampIdle (shutter s d)) (d : DivNo) : RampIdle (shutter (readClock s) d) := by
  unfold readClock
  split
  · exact h d
  · exact raiseClock_idle h d

theorem syncRamps_calm (s : State) : Calm s (syncRamps s) :=
  (syncRamps_touches s).calm (syncRamps_tame s) (ramps := .inr fun h => countAll_idle (readClock_idle h))

theorem counted_calm (v : Nat) (s : State) : Calm s (countAll (raiseClock v s)) :=
  (counted_touches v s).calm (counted_touches v s).tame (ramps := .inr fun h => countAll_idle (raiseClock_idle h))

/-! ### The operations of the play -/

theorem notice_calm (n : Notice) (s : State) : Calm s (notice n s) := (notice_touches n s).calm (notice_tame n s)

theorem retime_calm (s : State) : Calm s (retime s) := (retime_touches s).calm (retime_tame s)

/-- While the organ plays, no run stands and the part has the organ, all that is asked is the wind. -/
theorem OrganSound.of_playing {s : State} (play : s.plan.play ≠ .idle) (run : s.levelling.run = none) (yield : yielded s = false)
    (wind : ∀ d, windDemand s d ≤ (div s d).capacity) : OrganSound s :=
  ⟨wind, fun h => absurd h play, fun h => (by rw [run] at h; cases h), fun h => (by rw [yield] at h; cases h)⟩

theorem OrganSound.run_none {s : State} (h : OrganSound s) (hp : s.plan.play ≠ .idle) : s.levelling.run = none := by
  cases hr : s.levelling.run with
  | none => rfl
  | some r => exact absurd (h.run (by rw [hr]; rfl)).1 hp

theorem OrganSound.run_none_of_yielded {s : State} (h : OrganSound s) (hy : yielded s = true) : s.levelling.run = none := by
  cases hr : s.levelling.run with
  | none => rfl
  | some r =>
    have := (h.run (by rw [hr]; rfl)).2
    rw [hy] at this
    cases this

theorem OrganSound.playing_of_queue {s : State} (h : OrganSound s) (hq : s.queue ≠ []) :
    s.plan.play ≠ .idle ∧ s.levelling.run = none ∧ yielded s = false := by
  have play : s.plan.play ≠ .idle := fun hp => hq (h.idle hp).1
  exact ⟨play, h.run_none play, Bool.eq_false_iff.2 fun hy => hq (h.given hy).queue⟩

theorem releaseYield_yielded (s : State) : yielded (releaseYield s) = false := by
  have t : (releaseYield s).yielding.state = .playingFree := (notice_touches _ (setFree s)).yieldState
  rw [yielded, t]
  rfl

/-- A part that gets the organ back finds it silent (R196, R200). -/
theorem releaseYield_organ {s : State} (h : OrganSound s) : OrganSound (releaseYield s) := by
  have t := releaseYield_touches s
  have free := releaseYield_yielded s
  have keys := allReleased_congr t.divisions
  refine ⟨?_, fun hp => ?_, fun hr => ?_, fun hy => nomatch free.symm.trans hy⟩
  · cases hy : yielded s with
    | true =>
      exact wind_of_silence (keys.trans (h.given hy).keys) (.of_none (t.run.trans (h.run_none_of_yielded hy)))
    | false => exact wind_congr h.wind t.divisions (free.trans hy.symm) t.run
  · rw [t.play] at hp
    obtain ⟨queue, released, current⟩ := h.idle hp
    exact ⟨t.queue.trans queue, keys.trans released, t.current.trans current⟩
  · rw [t.run] at hr
    exact ⟨t.play.trans (h.run hr).1, free⟩

theorem stopChanges_keys (want : DivNo → Option StopSet) (s : State) (d : DivNo) :
    (div (stopChanges want s) d).keys = (div s d).keys := by
  rw [div_stopChanges]
  cases want d <;> rfl

theorem allReleased_stopChanges (want : DivNo → Option StopSet) (s : State) :
    allReleased (stopChanges want s) = allReleased s := by
  simp only [allReleased, key, stopChanges_keys]

/-- A part that has found its rejoin point draws its stops over silent keys (R198). -/
theorem enterRejoining_organ {s : State} (p : RejoinPoint) (h : OrganSound s) (hy : yielded s = true) :
    OrganSound (enterRejoining p s) := by
  have t := enterRejoining_touches p s
  have given := h.given hy
  have state : (enterRejoining p s).yielding.state = .rejoining := by
    rw [enterRejoining_eq]
    split <;> rfl
  have free : yielded (enterRejoining p s) = false := by
    rw [yielded, state]
    rfl
  have divisions : (enterRejoining p s).drivers.divisions = (stopChanges (rejoinStops s) s).drivers.divisions := by
    rw [enterRejoining_eq]
    split <;> rfl
  have keys : allReleased (enterRejoining p s) = true :=
    ((allReleased_congr divisions).trans (allReleased_stopChanges _ _)).trans given.keys
  have run := t.run.trans (h.run_none_of_yielded hy)
  refine ⟨wind_of_silence keys (.of_none run), fun hp => ?_, fun hr => ?_, fun hy => nomatch free.symm.trans hy⟩
  · rw [t.play] at hp
    exact ⟨t.queue.trans given.queue, keys, t.current.trans (h.idle hp).2.2⟩
  · rw [run] at hr
    cases hr

theorem awaitTest_organ {s : State} (h : OrganSound s) : OrganSound (awaitTest s) := by
  unfold awaitTest
  split
  · rename_i ha
    have hy : yielded s = true := by
      unfold awaiting at ha
      simp at ha
      exact ha.1
    split
    · exact enterRejoining_organ _ h hy
    · exact h
  · exact h

theorem mapChanged_organ {s : State} (h : OrganSound s) : OrganSound (mapChanged s) :=
  awaitTest_organ ((retime_calm s).organ h)

/-! #### Hymns -/

theorem hymnCleared_organ {s : State} (h : OrganSound s) (released : allReleased s = true) : OrganSound (hymnCleared s) := by
  have t := hymnCleared_touches s
  obtain ⟨plan, map, follower, queue, -, ramps, -⟩ := hymnCleared_gone s
  have keys := (allReleased_congr t.divisions).trans released
  refine ⟨wind_congr h.wind t.divisions t.yielded t.run, fun _ => ⟨queue, keys, by rw [map]⟩, fun hr => ?_, fun hy => ?_⟩
  · rw [t.run] at hr
    exact ⟨by rw [plan], t.yielded.trans (h.run hr).2⟩
  · have g := h.given (t.yielded.symm.trans hy)
    exact ⟨queue, by rw [follower], keys, fun d => div_congr t.divisions d ▸ g.stops d, fun d => by rw [ramps d]; exact ⟨rfl, rfl⟩⟩

theorem hymnOver_organ {s : State} (reason : HymnEndReason) (h : OrganSound s) (released : allReleased s = true) :
    OrganSound (hymnOver reason s) := by
  rw [hymnOver_eq]
  exact (notice_calm _ _).organ (hymnCleared_organ h released)

theorem hymnOver_play (reason : HymnEndReason) (s : State) : (hymnOver reason s).plan.play = .idle := by
  rw [hymnOver_eq, (notice_touches _ _).play, (hymnCleared_gone s).1]

theorem idleYield_organ {s : State} (h : OrganSound s) : OrganSound (idleYield s) := by
  unfold idleYield
  split
  · exact releaseYield_organ h
  · exact h

theorem idleYield_yielded {s : State} (h : yielded s = false) : yielded (idleYield s) = false := by
  unfold idleYield
  split
  · exact releaseYield_yielded s
  · exact h

theorem div_releaseAll (s : State) (d : DivNo) : div (releaseAll s) d = releaseKeys (div s d) := div_mapDivisions _ s d

theorem releaseAll_keys (s : State) (d : DivNo) (k : KeyNo) : key (releaseAll s) d k = (key s d k).released := by
  rw [key, div_releaseAll]
  simp [releaseKeys, key]

theorem allReleased_releaseAll (s : State) : allReleased (releaseAll s) = true := by
  rw [allReleased_iff]
  intro d k
  rw [releaseAll_keys]
  rfl

theorem drawnWeight_releaseKeys (x : Division) : drawnWeight (releaseKeys x) = drawnWeight x := by
  unfold drawnWeight releaseKeys
  rfl

theorem releaseKeys_capacity (x : Division) : (releaseKeys x).capacity = x.capacity := by simp only [releaseKeys]

theorem releaseKeys_drawn (x : Division) : (releaseKeys x).drawn = x.drawn := by simp only [releaseKeys]

theorem releaseKeys_stopState (x : Division) : (releaseKeys x).stopState = x.stopState := by simp only [releaseKeys]

theorem driven_of_released {s : State} {d : DivNo} {k : KeyNo} (h : (key s d k).holders = 0) :
    driven s d k = testDriven s d k := by simp [driven, h]

/-- Released keys give wind back; a run keeps its test key (R148, R159). -/
theorem releaseAll_organ {s : State} (h : OrganSound s) : OrganSound (releaseAll s) := by
  have t := releaseAll_touches s
  have keys := allReleased_releaseAll s
  refine ⟨fun d => ?_, fun hp => ?_, fun hr => ?_, fun hy => ?_⟩
  · have capacity : (div (releaseAll s) d).capacity = (div s d).capacity := by
      rw [div_releaseAll s d, releaseKeys_capacity]
    have fewer : windDemand (releaseAll s) d ≤ windDemand s d := by
      refine windDemand_le (fun k hk => ?_) (by rw [div_releaseAll s d, drawnWeight_releaseKeys])
      have test : testDriven (releaseAll s) d k = testDriven s d k := rfl
      rw [driven_of_released (allReleased_iff.1 keys d k), test] at hk
      rw [driven, hk, Bool.or_true]
    rw [capacity]
    exact Nat.le_trans fewer (h.wind d)
  · obtain ⟨queue, -, current⟩ := h.idle hp
    exact ⟨queue, keys, current⟩
  · exact h.run hr
  · have g := h.given hy
    refine ⟨g.queue, g.cues, keys, fun d => ?_, g.ramps⟩
    rw [div_releaseAll s d, releaseKeys_drawn, releaseKeys_stopState]
    exact g.stops d

theorem tearDown_organ {s : State} (reason : HymnEndReason) (h : OrganSound s) : OrganSound (tearDown reason s) :=
  idleYield_organ (hymnOver_organ reason (releaseAll_organ h) (allReleased_releaseAll s))

theorem tearDown_idle (reason : HymnEndReason) (s : State) : (tearDown reason s).plan.play = .idle :=
  ((idleYield_touches _).play).trans (hymnOver_play reason _)

/-- A hymn starts over silent keys (R25, R123). -/
theorem hymnStart_organ {p : Plan} {x : Tune} {s : State} (h : OrganSound s) (hp : s.plan.play = .idle)
    (run : s.levelling.run = none) (yield : yielded s = false) : OrganSound (hymnStart p x s) := by
  have t := hymnStart_touches p x s
  have play : (hymnStart p x s).plan.play = .starting := (hymnPlaced_hymnStart p x s).play
  have keys : allReleased (hymnStart p x s) = allReleased s := by
    rw [hymnStart_eq]
    dsimp only
    rw [allReleased_congr (s' := setCursor _ _) (setCursor_touches _ _).divisions]
    split
    · exact allReleased_stopChanges _ _
    · rfl
  exact .of_playing (by rw [play]; nofun) (t.run.trans run) (t.yielded.trans yield)
    (wind_of_silence (keys.trans (h.idle hp).2.1) (.of_none (t.run.trans run)))

theorem startQueued_organ {s : State} (h : OrganSound s) (hp : s.plan.play = .idle) (run : s.levelling.run = none) :
    OrganSound (startQueued s) := by
  unfold startQueued
  split
  · rename_i hq
    split
    · exact hymnStart_organ h hp run (by simp at hq; exact hq.2)
    · exact h
  · exact h

theorem closingHolds_released {s : State} (h : closingHolds s = true) : allReleased s = true := by
  unfold closingHolds at h
  simp only [Bool.and_eq_true] at h
  exact h.1.2

/-- A hymn that closes has released every key, and what it leaves is silent (R33). -/
theorem closeHymn_organ {s : State} (h : OrganSound s) (closing : closingHolds s = true) : OrganSound (closeHymn s) := by
  have run : s.levelling.run = none := h.run_none (by rw [closingHolds_play closing]; nofun)
  have gone := hymnOver_organ (if s.plan.stopped then .stopped else .completed) h (closingHolds_released closing)
  have t := (hymnOver_touches (if s.plan.stopped then .stopped else .completed) s)
  have k := idleYield_touches (hymnOver (if s.plan.stopped then .stopped else .completed) s)
  exact startQueued_organ (idleYield_organ gone) (k.play.trans (hymnOver_play _ s)) (k.run.trans (t.run.trans run))

theorem closeIfHeld_organ {s : State} (h : OrganSound s) : OrganSound (closeIfHeld s) := by
  unfold closeIfHeld
  split
  · exact closeHymn_organ h ‹_›
  · exact h

/-! #### Segments -/

/-- An operation that may start ramps where the part has the organ. -/
theorem OrganSound.of_ramps {ps : List Part} {s s' : State} (h : OrganSound s) (t : Touches ps s s')
    (yielding : yielded s = true → s' = s) (divisions : Part.divisions ∉ ps := by decide) (run : Part.run ∉ ps := by decide)
    (yield : Part.yieldState ∉ ps := by decide) (current : Part.current ∉ ps := by decide) (play : Part.plan ∉ ps := by decide)
    (queue : Part.queue ∉ ps := by decide) : OrganSound s' := by
  cases hy : yielded s with
  | true => exact yielding hy ▸ h
  | false =>
    have free := (t.yielded yield).trans hy
    refine ⟨wind_congr h.wind (t.divisions divisions) (t.yielded yield) (t.run run), fun hp => ?_, fun hr => ?_,
      fun hy => nomatch free.symm.trans hy⟩
    · rw [t.play play] at hp
      obtain ⟨q, k, c⟩ := h.idle hp
      exact ⟨(t.queue queue).trans q, (allReleased_congr (t.divisions divisions)).trans k, (t.current current).trans c⟩
    · rw [t.run run] at hr
      exact ⟨(t.play play).trans (h.run hr).1, free⟩

theorem startSegmentRamp_organ {s : State} (g : Segment) (h : OrganSound s) : OrganSound (startSegmentRamp g s) := by
  refine h.of_ramps (startSegmentRamp_touches g s) fun hy => ?_
  unfold startSegmentRamp
  split
  · rfl
  · rw [if_pos hy]

/-- A change of the map's segment while a hymn plays. -/
theorem OrganSound.reopened {s s' : State} (h : OrganSound s) (hp : s.plan.play ≠ .idle) (play : s'.plan.play ≠ .idle)
    (divisions : s'.drivers.divisions = s.drivers.divisions) (run : s'.levelling.run = s.levelling.run)
    (yield : yielded s' = yielded s) (m : Tame s s')
    (ramps : (∀ d, RampIdle (shutter s d)) → ∀ d, RampIdle (shutter s' d)) : OrganSound s' := by
  refine ⟨wind_congr h.wind divisions yield run, fun k => absurd k play, fun hr => ?_, fun hy => ?_⟩
  · rw [run, h.run_none hp] at hr
    cases hr
  · have g := h.given (yield.symm.trans hy)
    exact ⟨eq_nil_of_length_le m.queue g.queue, eq_nil_of_length_le m.cues g.cues, (allReleased_congr divisions).trans g.keys,
      fun d => div_congr divisions d ▸ g.stops d, ramps g.ramps⟩

theorem OrganSound.setPlay {s : State} {m : PlayState} (h : OrganSound s) (hp : s.plan.play ≠ .idle) (hm : m ≠ .idle) :
    OrganSound (setPlay m s) := h.reopened hp hm rfl rfl rfl (setPlay_tame m s) id

theorem segmentOpened_tame (i : Nat) (g : Segment) (t : Time) (s : State) : Tame s (segmentOpened i g t s) := by
  have placed (u : State) (n : Nat) :
      Tame u (setPlan { u.plan with play := .segment, startTime := none, clockBase := n, linesSent := [] } u) :=
    Touches.tame (ps := [.plan, .order]) (.of_merge rfl)
  exact ((counted_touches _ s).tame.trans (followerSegmentStart_tame i g t _)).trans (placed _ _)

theorem segmentOpened_organ {s : State} (i : Nat) (g : Segment) (t : Time) (h : OrganSound s) (hp : s.plan.play ≠ .idle) :
    OrganSound (segmentOpened i g t s) := by
  have k := segmentOpened_touches i g t s
  exact h.reopened hp (by rw [segmentOpened_play]; nofun) k.divisions k.run k.yielded (segmentOpened_tame i g t s)
    fun idle d => countAll_idle (raiseClock_idle idle) d

theorem sendLine_calm (s : State) (l : NumberedLine) : Calm s (sendLine s l) := (sendLine_touches s l).calm (sendLine_tame s l)

theorem foldl_organ {α : Type} {f : State → α → State} (step : ∀ s x, OrganSound s → OrganSound (f s x)) (xs : List α) {s : State}
    (h : OrganSound s) : OrganSound (xs.foldl f s) := by
  induction xs generalizing s with
  | nil => exact h
  | cons x xs ih => exact ih (step s x h)

theorem beginSegment_organ {s : State} (i : Nat) (g : Segment) (t : Time) (h : OrganSound s) (hp : s.plan.play ≠ .idle) :
    OrganSound (beginSegment i g t s) := by
  have ramped := startSegmentRamp_organ g (segmentOpened_organ i g t h hp)
  have told : OrganSound (segmentTold i g t s) :=
    foldl_organ (fun s l => (sendLine_calm s l).organ) _ ((notice_calm _ _).organ ramped)
  have c := cursorSegmentStart_touches i (segmentTold i g t s)
  rw [beginSegment_eq]
  exact mapChanged_organ ((c.calm c.tame).organ told)

theorem startSegment_organ {s : State} (h : OrganSound s) (hp : s.plan.play ≠ .idle) : OrganSound (startSegment s) := by
  unfold startSegment
  split
  · exact beginSegment_organ _ _ _ h hp
  · exact h

theorem afterSegment_organ {s : State} (h : OrganSound s) (hp : s.plan.play ≠ .idle) : OrganSound (afterSegment s) := by
  unfold afterSegment
  split
  · exact mapChanged_organ (h.setPlay hp nofun)
  · split
    · exact startSegment_organ ((retime_calm s).organ h) hp
    · exact mapChanged_organ (h.setPlay hp nofun)

theorem endSegment_organ {s : State} (h : OrganSound s) (hp : s.plan.play ≠ .idle) : OrganSound (endSegment s) := by
  unfold endSegment
  split
  · rename_i g _
    have c := (counted_calm (clockAtEnd s) s).trans ((followerSegmentEnd_touches g _).calm (followerSegmentEnd_tame g _))
    exact afterSegment_organ (c.organ h) fun k => hp (c.play.1 k)
  · exact h

theorem actPauseStart_organ {s : State} (h : OrganSound s) : OrganSound (actPauseStart s) := by
  unfold actPauseStart
  split
  · rename_i p _
    have c := (syncRamps_calm s).trans ((startPause_touches p _).calm (startPause_tame p _))
    exact mapChanged_organ (c.organ h)
  · exact h

theorem actPauseEnd_organ {s : State} (h : OrganSound s) : OrganSound (actPauseEnd s) := by
  have c := (syncRamps_calm s).trans ((endPause_touches _).calm (endPause_tame _))
  exact mapChanged_organ (c.organ h)

theorem rejoinDue_state {s : State} (h : rejoinDue s = true) : s.yielding.state = .rejoining := by
  unfold rejoinDue rejoinPassed rejoinTimeOf at h
  refine Decidable.of_not_not fun hs => ?_
  simp [hs] at h

theorem rejoined_organ {s : State} (h : OrganSound s) (due : rejoinDue s = true) : OrganSound (rejoined s) := by
  have c : Calm s (rejoined s) := by
    have was : yielded s = false := by rw [yielded, rejoinDue_state due]; rfl
    unfold rejoined
    split
    · have free : Calm s (setFree s) := ⟨rfl, rfl, was.symm, .rfl, rfl, Nat.le_refl _, Nat.le_refl _, id⟩
      exact free.trans (notice_calm _ _)
    · exact .refl s
  exact c.organ h

end Sys2Proof.Machine

/-! PROOFS. The organ's invariant kept by deliveries, by the levelling run, by the yield and by every step. -/

namespace Sys2Proof.Machine

-- The proofs are elaborated one after another, which keeps the whole text within its memory.
set_option Elab.async false

/-! ### Deliveries -/

theorem div_setKey (d : DivNo) (k : KeyNo) (x : KeyRecord) (s : State) :
    div (setKey d k x s) d = { div s d with keys := (div s d).keys.set k x } := div_setDiv _ _ s

theorem div_setKey_ne {d e : DivNo} (k : KeyNo) (x : KeyRecord) (s : State) (h : d ≠ e) : div (setKey d k x s) e = div s e :=
  div_setDiv_ne _ s h

theorem drawnWeight_setKey (d e : DivNo) (k : KeyNo) (x : KeyRecord) (s : State) :
    drawnWeight (div (setKey d k x s) e) = drawnWeight (div s e) := by
  by_cases h : d = e
  · subst h
    rw [div_setKey]
    unfold drawnWeight
    rfl
  · rw [div_setKey_ne _ _ _ h]

theorem capacity_setKey (d e : DivNo) (k : KeyNo) (x : KeyRecord) (s : State) :
    (div (setKey d k x s) e).capacity = (div s e).capacity := by
  by_cases h : d = e
  · subst h
    rw [div_setKey]
  · rw [div_setKey_ne _ _ _ h]

theorem driven_setKey_ne {d e : DivNo} {k l : KeyNo} (x : KeyRecord) (s : State) (h : d ≠ e ∨ k ≠ l) :
    driven (setKey d k x s) e l = driven s e l := by
  have test : testDriven (setKey d k x s) e l = testDriven s e l := rfl
  have yield : yielded (setKey d k x s) = yielded s := rfl
  rw [driven, driven, key_setKey_ne x s h, test, yield]

theorem driven_setKey (d : DivNo) (k : KeyNo) (x : KeyRecord) (s : State) : driven (setKey d k x s) d k =
    ((decide (1 ≤ x.holders) && x.sound && !yielded s) || testDriven s d k) := by
  have test : testDriven (setKey d k x s) d k = testDriven s d k := rfl
  have yield : yielded (setKey d k x s) = yielded s := rfl
  rw [driven, key_setKey, test, yield]

/-- The wind of every division is within its capacity (R148). -/
def WindHeld (s : State) : Prop := ∀ d, windDemand s d ≤ (div s d).capacity

/-- A key record that drives nothing new adds no demand. -/
theorem WindHeld.setKey {s : State} {d : DivNo} {k : KeyNo} {x : KeyRecord} (h : WindHeld s)
    (hx : 1 ≤ x.holders → x.sound = true → driven s d k = true ∨ yielded s = true) : WindHeld (setKey d k x s) := by
  intro e
  rw [capacity_setKey]
  refine Nat.le_trans (windDemand_le (fun l hl => ?_) (drawnWeight_setKey d e k x s)) (h e)
  by_cases hk : d ≠ e ∨ k ≠ l
  · rwa [driven_setKey_ne x s hk] at hl
  · simp only [not_or, Classical.not_not] at hk
    obtain ⟨rfl, rfl⟩ := hk
    rw [driven_setKey] at hl
    simp only [Bool.or_eq_true, Bool.and_eq_true, decide_eq_true_eq, Bool.not_eq_true'] at hl
    rcases hl with ⟨⟨h1, h2⟩, h3⟩ | test
    · rcases hx h1 h2 with hd | hy
      · exact hd
      · rw [h3] at hy
        cases hy
    · rw [driven, test, Bool.or_true]

/-- An opening that passes the wind check keeps within the capacity (R148, R149). -/
theorem WindHeld.opened {s : State} {d : DivNo} {k : KeyNo} {x : KeyRecord} {n : Nat} (h : WindHeld s)
    (allowed : windAllows s d n = true) (limit : n ≤ (div s d).capacity) : WindHeld (Machine.setKey d k x s) := by
  intro e
  rw [capacity_setKey]
  by_cases he : d = e
  · subst he
    have count : drivenCount (Machine.setKey d k x s) d ≤ drivenCount s d + 1 := by
      refine drivenCount_le_succ (j := k) fun l hl => ?_
      by_cases hk : k = l
      · exact .inr hk.symm
      · exact .inl (by rwa [driven_setKey_ne x s (.inr hk)] at hl)
    rw [windAllows, decide_eq_true_eq] at allowed
    rw [windDemand, drawnWeight_setKey]
    exact Nat.le_trans (Nat.mul_le_mul_right _ count) (Nat.le_trans allowed limit)
  · refine Nat.le_trans (windDemand_le (fun l hl => ?_) (drawnWeight_setKey d e k x s)) (h e)
    rwa [driven_setKey_ne x s (.inl he)] at hl

/-- An operation that leaves the divisions, the run and the yield state leaves the wind. -/
theorem WindHeld.of_touches {ps : List Part} {s s' : State} (h : WindHeld s) (t : Touches ps s s')
    (divisions : Part.divisions ∉ ps := by decide) (run : Part.run ∉ ps := by decide)
    (yield : Part.yieldState ∉ ps := by decide) : WindHeld s' :=
  wind_congr h (t.divisions divisions) (t.yielded yield) (t.run run)

theorem windLimit_le (x : Division) (v : Voice) : windLimit x v ≤ x.capacity := by
  unfold windLimit
  split
  · exact Nat.le_refl _
  · exact Nat.sub_le _ _

/-- What the tests of R149 have found in each case that raises the holder count. -/
theorem keyOnCase_tests (s : State) (d : DivNo) (k : KeyNo) (v : Voice) :
    (keyOnCase s d k v = .heldSilent → (key s d k).sound = false) ∧
    (keyOnCase s d k v = .heldDriven → 1 ≤ (key s d k).holders) ∧
    (keyOnCase s d k v = .opened → windAllows s d (windLimit (div s d) v) = true) := by
  unfold keyOnCase
  split
  · exact ⟨nofun, nofun, nofun⟩
  · split
    next unsound => exact ⟨fun _ => by simpa using unsound, nofun, nofun⟩
    next =>
      split
      next held => exact ⟨nofun, fun _ => held, nofun⟩
      next =>
        split
        next allowed => exact ⟨nofun, nofun, fun _ => allowed⟩
        next => exact ⟨nofun, nofun, nofun⟩

theorem deliverKeyOn_wind {s : State} (d : DivNo) (k : KeyNo) (v : Voice) (h : WindHeld s) : WindHeld (deliverKeyOn d k v s).1 := by
  unfold deliverKeyOn
  split
  next => exact h.of_touches (ps := [.counters]) (.of_merge rfl)
  next hc =>
    refine h.setKey fun _ sound => ?_
    have unsound : (key s d k).sound = false := (keyOnCase_tests s d k v).1 hc
    have : (key s d k).sound = true := sound
    rw [unsound] at this
    cases this
  next hc =>
    refine h.setKey fun _ sound => ?_
    have held : 1 ≤ (key s d k).holders := (keyOnCase_tests s d k v).2.1 hc
    have sound : (key s d k).sound = true := sound
    cases hy : yielded s with
    | true => exact .inr rfl
    | false => exact .inl (by simp [driven, held, sound, hy])
  next hc =>
    have allowed : windAllows s d (windLimit (div s d) v) = true := (keyOnCase_tests s d k v).2.2 hc
    exact (h.opened (x := { key s d k with holders := (key s d k).holders + 1 }) (k := k) allowed (windLimit_le _ v)).of_touches
      (reportOpening_touches d _)
  next => exact h.of_touches (ps := [.counters]) (.of_merge rfl)

theorem deliverKeyOff_wind {s : State} (d : DivNo) (k : KeyNo) (h : WindHeld s) : WindHeld (deliverKeyOff d k s) := by
  unfold deliverKeyOff
  split
  · exact h
  · rename_i held
    split
    · exact h.setKey fun k => absurd k (by simp [KeyRecord.released])
    · refine h.setKey fun _ sound => ?_
      have sound : (key s d k).sound = true := sound
      cases hy : yielded s with
      | true => exact .inr rfl
      | false => exact .inl (by simp [driven, sound, hy, Nat.one_le_iff_ne_zero, held])

theorem anyHeld_eq_false {x : Division} : anyHeld x = false ↔ ∀ k : KeyNo, x.keys[k].holders = 0 := by
  simp only [anyHeld, List.any_eq_false, Vector.mem_toList_iff, decide_eq_true_eq, Nat.one_le_iff_ne_zero, Classical.not_not]
  constructor
  · intro h k
    exact h _ (Vector.getElem_mem _)
  · intro h r hr
    obtain ⟨i, hi, rfl⟩ := Vector.mem_iff_getElem.1 hr
    exact h ⟨i, hi⟩

/-- One division changed so that none of its keys is held; the others keep their wind. -/
theorem WindHeld.setDiv {s : State} {d : DivNo} {x : Division} (h : WindHeld s) (quiet : Untested s)
    (silent : ∀ k : KeyNo, x.keys[k].holders = 0) : WindHeld (setDiv d x s) := by
  intro e
  by_cases he : d = e
  · subst he
    rw [windDemand_eq_zero (s := Machine.setDiv d x s) (fun k => by rw [key, div_setDiv]; exact silent k) quiet]
    exact Nat.zero_le _
  · rw [div_setDiv_ne x s he]
    refine Nat.le_trans (windDemand_le (fun k hk => ?_) (by rw [div_setDiv_ne x s he])) (h e)
    have test : testDriven (Machine.setDiv d x s) e k = testDriven s e k := rfl
    have yield : yielded (Machine.setDiv d x s) = yielded s := rfl
    rwa [driven, key, div_setDiv_ne x s he, test, yield] at hk

theorem releaseKeys_silent (x : Division) (k : KeyNo) : (releaseKeys x).keys[k].holders = 0 := by
  simp [releaseKeys, KeyRecord.released]

theorem stopChange_wind {s : State} {d : DivNo} (r : StopSet) (h : WindHeld s) (quiet : Untested s)
    (silent : ∀ k : KeyNo, (div s d).keys[k].holders = 0) : WindHeld (stopChange d r s) := h.setDiv quiet silent

theorem deliverStopSet_wind {s : State} (d : DivNo) (r : StopSet) (h : WindHeld s) (quiet : Untested s) :
    WindHeld (deliverStopSet d r s) := by
  unfold deliverStopSet
  split
  · exact h
  · split
    · have released : WindHeld (Machine.setDiv d (releaseKeys (div s d)) s) := h.setDiv quiet (releaseKeys_silent _)
      have t := removeReleases_touches d (Machine.setDiv d (releaseKeys (div s d)) s)
      refine stopChange_wind r (released.of_touches t) ?_ fun k => ?_
      · intro r' hr'
        exact quiet r' (t.run ▸ hr')
      · rw [div_congr t.divisions, div_setDiv]
        exact releaseKeys_silent _ k
    · exact stopChange_wind r h quiet (anyHeld_eq_false.1 (Bool.eq_false_iff.2 ‹_›))

theorem deliver_wind {s : State} (e : Entry) (h : WindHeld s) (quiet : Untested s) : WindHeld (deliver e s) := by
  unfold deliver
  split
  · split
    · exact (deliverKeyOn_wind _ _ _ h).of_touches (ps := [.queue]) (.of_merge rfl)
    · exact deliverKeyOn_wind _ _ _ h
  · exact deliverKeyOff_wind _ _ h
  · exact deliverStopSet_wind _ _ h quiet

theorem actOnHead_wind {s : State} (h : WindHeld s) (quiet : Untested s) : WindHeld (actOnHead s) := by
  unfold actOnHead
  split
  · exact h
  · rename_i e rest hq
    have popped : WindHeld { s with queue := rest } := h.of_touches (ps := [.queue]) (.of_merge rfl)
    have silent : Untested { s with queue := rest } := quiet
    dsimp only
    split
    · split
      · exact popped.of_touches (clipPair_touches _ _)
      · split
        · exact popped.of_touches (defer_touches _ _ _ _ _ _ _)
        · exact deliver_wind e popped silent
    · split
      · exact popped.of_touches (clipPair_touches _ _)
      · exact deliver_wind e popped silent
    · exact deliver_wind e popped silent

/-- What waits in the queue waits while a hymn plays (R33, R194). -/
theorem actOnHead_organ {s : State} (h : OrganSound s) : OrganSound (actOnHead s) := by
  by_cases hq : s.queue = []
  · have same : actOnHead s = s := by
      unfold actOnHead
      rw [hq]
    rwa [same]
  · obtain ⟨play, run, yield⟩ := h.playing_of_queue hq
    have t := actOnHead_touches s
    exact .of_playing (t.play.symm ▸ play) (t.run.trans run) (t.yielded.trans yield) (actOnHead_wind h.wind (.of_none run))

/-! ### What falls due -/

theorem missCue_calm (p : Cue → Bool) (s : State) : Calm s (missCue p s) := (missCue_touches p s).calm (missCue_tame p s)

theorem actOn_organ {w : Wait} {s : State} (due : w.Due s) (h : OrganSound s) : OrganSound (actOn w s) := by
  cases w with
  | entry => exact actOnHead_organ h
  | pauseEnd => exact actPauseEnd_organ h
  | pauseStart => exact actPauseStart_organ h
  | segmentEnd => exact endSegment_organ h (segmentEndDue_ne_idle due)
  | segmentStart => exact startSegment_organ h (segmentStartDue_ne_idle due)
  | cue => exact (missCue_calm _ s).organ h
  | rejoin => exact rejoined_organ h due
  | line => exact (sendLine_calm s _).organ h
  | close => exact closeHymn_organ h due

theorem settle_organ (before : State) {s : State} (h : OrganSound s) : OrganSound (settle before s) := by
  refine settle_keeps_due (fun s h => ?_) (fun _ _ => actOn_organ) before h
  have t : Touches [.outside] s (countChoice s) := .of_merge rfl
  exact (t.calm t.tame).organ h

theorem afterLeads_organ (before : State) {s : State} (h : OrganSound s) : OrganSound (afterLeads before s) := by
  unfold afterLeads
  split
  · exact settle_organ before ((retime_calm s).organ h)
  · exact h

theorem headAtOnce_organ {s : State} (h : OrganSound s) : OrganSound (headAtOnce s) := by
  unfold headAtOnce
  split
  · exact settle_organ s (actOnHead_organ h)
  · exact closeIfHeld_organ (actOnHead_organ h)

theorem onsetAtOnce_organ {s : State} (h : OrganSound s) : OrganSound (onsetAtOnce s) := by
  have c := (syncRamps_calm s).trans ((takeOnset_touches _).calm (takeOnset_tame _))
  unfold onsetAtOnce
  dsimp only
  split
  · exact c.organ h
  · exact settle_organ s (mapChanged_organ (c.organ h))

/-- In IDLE no position has a time (R46, R50). -/
theorem positionTime_idle {s : State} (hp : s.plan.play = .idle) (hc : s.map.current = none) (seg pos : Nat) (rel : Bool) :
    positionTime s seg pos rel = none := by
  simp [positionTime, nextIndex, hp, hc]

theorem expandable_playing {s : State} {r : Reading} (h : OrganSound s) (hr : expandable s = some r) :
    s.plan.play ≠ .idle ∧ yielded s = false := by
  unfold expandable at hr
  split at hr
  · cases hr
  · refine ⟨fun hp => ?_, Bool.eq_false_iff.2 ‹_›⟩
    obtain ⟨r', -, he⟩ := Option.bind_eq_some_iff.1 hr
    simp [withinHorizon, positionTime_idle hp (h.idle hp).2.2] at he

theorem expandAtOnce_organ {s : State} (h : OrganSound s) : OrganSound (expandAtOnce s) := by
  unfold expandAtOnce
  split
  · rename_i r hr
    obtain ⟨play, yield⟩ := expandable_playing h hr
    have t : Touches [.order, .shutters, .pauses, .cues, .follower, .counters, .queue, .expander] s (expand r (syncRamps s)) :=
      (expand_touches r _).after (syncRamps_touches s)
    exact settle_organ s (.of_playing (t.play.symm ▸ play) (t.run.trans (h.run_none play)) (t.yielded.trans yield)
      (wind_congr h.wind t.divisions t.yielded t.run))
  · exact h

end Sys2Proof.Machine

/-! PROOFS. The organ's invariant under the requests of the plan and of the settings. -/

namespace Sys2Proof.Machine

-- The proofs are elaborated one after another, which keeps the whole text within its memory.
set_option Elab.async false

/-! ### The requests of the plan -/

theorem leaveRejoining_organ {s : State} (gone : RejoinPoint → Bool) (h : OrganSound s) : OrganSound (leaveRejoining gone s) := by
  unfold leaveRejoining
  split
  · exact releaseYield_organ h
  · exact h

theorem cutAt_calm (c e : Nat) (s : State) : Calm s (cutAt c e s) := (cutAt_touches c e s).calm (cutAt_tame c e s)

theorem cutAway_organ {s : State} (c e : Nat) (h : OrganSound s) : OrganSound (cutAway c e s) :=
  leaveRejoining_organ _ ((cutAt_calm c e s).organ h)

theorem stopAt_organ {s : State} (c e : Nat) (h : OrganSound s) : OrganSound (stopAt c e s) := by
  have t : Touches [.order] s (setPlan { s.plan with order := shorten c e s.plan.order, stopped := true } s) := .of_merge rfl
  exact cutAway_organ c e ((t.calm t.tame).organ h)

theorem startingClosed_organ {s : State} (h : OrganSound s) (hp : s.plan.play ≠ .idle) : OrganSound (startingClosed s) := by
  have t : Touches [.plan, .order] s (startingClosed s) := .of_merge rfl
  exact h.reopened hp nofun rfl rfl rfl t.tame id

theorem stopStarting_organ {s : State} (h : OrganSound s) (hp : s.plan.play ≠ .idle) : OrganSound (stopStarting s) :=
  leaveRejoining_organ _ (((cutStarting_touches _).calm (cutStarting_tame _)).organ (startingClosed_organ h hp))

theorem stopPart_organ {s : State} (line : Bool) (h : OrganSound s) : OrganSound (stopPart line s) := by
  have synced := (syncRamps_calm s).organ h
  unfold stopPart
  dsimp only
  split
  · exact mapChanged_organ (stopAt_organ _ _ synced)
  · rename_i _ c g hp _ _
    have t := stopAt_stopParts c g.sTo (syncRamps s)
    exact mapChanged_organ ((stopAt_organ c g.sTo synced).setPlay (by rw [t.play, hp]; nofun) nofun)
  · rename_i hp
    exact mapChanged_organ (stopStarting_organ synced (by rw [hp]; nofun))
  · exact synced

theorem doStopPart_organ {s : State} (line : Bool) (h : OrganSound s) : OrganSound (doStopPart line s).1 := by
  unfold doStopPart
  split
  · exact h
  · exact h
  all_goals exact stopPart_organ line h

theorem stopPartAtOnce_organ {s : State} (line : Bool) (h : OrganSound s) : OrganSound (stopPartAtOnce line s).1 := by
  unfold stopPartAtOnce
  split
  · exact doStopPart_organ line h
  · exact settle_organ s (doStopPart_organ line h)

theorem closeRest_organ {s : State} (h : OrganSound s) : OrganSound (closeRest s) := by
  unfold closeRest
  split
  · exact h.setPlay (by rw [‹s.plan.play = .rest ∧ _›.1]; nofun) nofun
  · exact h

theorem setVerses_organ {s : State} (p : Plan) (order : List Segment) (h : OrganSound s) : OrganSound (setVerses p order s) := by
  have ordered (v : State) : Calm v (setPlan { v.plan with active := some p, order := order } v) := by
    have t : Touches [.plan, .order] v (setPlan { v.plan with active := some p, order := order } v) := .of_merge rfl
    exact t.calm t.tame (play := .inr .rfl)
  have cut : OrganSound (versesCut p order s) := by
    unfold versesCut
    dsimp only
    refine leaveRejoining_organ _ ?_
    have start := ((syncRamps_calm s).trans (ordered _)).organ h
    split
    · exact cutAway_organ _ _ start
    · exact start
  have advanced (v : State) : Calm v (advanceCursor v) := (advanceCursor_touches v).calm (advanceCursor_touches v).tame
  rw [setVerses_eq]
  exact mapChanged_organ ((advanced _).organ (closeRest_organ cut))

theorem doVerses_organ {s : State} (b : List Byte) (h : OrganSound s) : OrganSound (doVerses b s).1 := by
  unfold doVerses
  dsimp only
  iterate 3 (split; · exact h)
  split
  · exact setVerses_organ _ _ h
  · exact h

theorem versesAtOnce_organ {s : State} (b : List Byte) (h : OrganSound s) : OrganSound (versesAtOnce b s).1 := by
  unfold versesAtOnce
  split
  · exact settle_organ s (doVerses_organ b h)
  · exact doVerses_organ b h

theorem tearDown_yielded {s : State} (reason : HymnEndReason) (h : yielded s = false) : yielded (tearDown reason s) = false :=
  idleYield_yielded (((hymnOver_touches reason _).yielded).trans h)

theorem startRefusal_none {s : State} (h : startRefusal s = none) : s.levelling.run = none ∧ yielded s = false := by
  unfold startRefusal at h
  split at h
  · cases h
  next hr =>
    split at h
    · cases h
    next hy => exact ⟨by simpa [runActive] using hr, Bool.eq_false_iff.2 hy⟩

theorem startStaged_organ {s : State} (h : OrganSound s) (free : startRefusal s = none) : OrganSound (startStaged s) := by
  obtain ⟨run, yield⟩ := startRefusal_none free
  unfold startStaged
  split
  · split
    · exact hymnStart_organ h ‹_› run yield
    · exact hymnStart_organ (tearDown_organ .replaced h) (tearDown_idle _ s) ((tearDown_touches .replaced s).run.trans run)
        (tearDown_yielded .replaced yield)
  · exact h

theorem doPlanStartNow_organ {s : State} (b : List Byte) (h : OrganSound s) : OrganSound (doPlanStartNow b s).1 := by
  unfold doPlanStartNow
  split
  · exact h
  · split
    · exact h
    · exact startStaged_organ h ‹_›

theorem setPlan_calm (x : PlanUnit) {s : State} (h : x.play = s.plan.play) : Calm s (setPlan x s) := by
  have t : Touches [.plan, .order] s (setPlan x s) := .of_merge rfl
  exact t.calm t.tame (play := .inr (by rw [← h]; rfl))

theorem doPlanStartNext_organ {s : State} (h : OrganSound s) : OrganSound (doPlanStartNext s).1 := by
  unfold doPlanStartNext
  split
  · exact h
  · split
    · exact startStaged_organ h ‹_›
    · exact (setPlan_calm { s.plan with queued := true } rfl).organ h

theorem doPlanSet_organ {s : State} (b : List Byte) (h : OrganSound s) : OrganSound (doPlanSet b s).1 := by
  unfold doPlanSet
  split
  · exact h
  · split
    · exact h
    · exact (setPlan_calm { s.plan with staged := some (planOf b) } rfl).organ h

theorem doPlanCancel_organ {s : State} (h : OrganSound s) : OrganSound (doPlanCancel s).1 := by
  unfold doPlanCancel
  split
  · exact (setPlan_calm { s.plan with queued := false } rfl).organ h
  · split
    · exact (setPlan_calm { s.plan with staged := none } rfl).organ h
    · exact h

theorem doTempo_organ {s : State} (b : List Byte) (h : OrganSound s) : OrganSound (doTempo b s).1 := by
  have anchored (v : State) : Tame v (tempoAnchor v) := by
    unfold tempoAnchor
    split
    · split
      · exact reAnchor_tame _ _ v
      · exact .refl _
    · exact .refl _
  have set (n : Nat) (v : State) : Calm v { tempoAnchor v with
      map := { (tempoAnchor v).map with period := clampPeriod (tempoAnchor v) n }
      follower := { (tempoAnchor v).follower with lastMatch := none } } := by
    have t : Touches [.map, .follower] (tempoAnchor v) { tempoAnchor v with
      map := { (tempoAnchor v).map with period := clampPeriod (tempoAnchor v) n }
      follower := { (tempoAnchor v).follower with lastMatch := none } } := .of_merge rfl
    exact ((tempoAnchor_touches v).calm (anchored v)).trans (t.calm t.tame)
  unfold doTempo
  split
  · exact h
  · split
    · exact h
    · exact settle_organ s (mapChanged_organ (((syncRamps_calm s).trans (set (wordAt b 0) _)).organ h))

/-! ### Changes of the divisions -/

/-- A change of the divisions that drives nothing new and keeps the stops' weight. -/
theorem OrganSound.of_divisions {s s' : State} (h : OrganSound s) (t : Touches [.clock, .divisions, .drivers] s s')
    (weight : ∀ d, drawnWeight (div s' d) = drawnWeight (div s d)) (capacity : ∀ d, (div s' d).capacity = (div s d).capacity)
    (keys : ∀ d k, (key s' d k).holders = (key s d k).holders ∧ ((key s d k).holders ≠ 0 → (key s' d k).sound = true →
      (key s d k).sound = true))
    (stops : ∀ d, (div s d).drawn = 0 ∧ (div s d).stopState = .settled → (div s' d).drawn = 0 ∧ (div s' d).stopState = .settled) :
    OrganSound s' := by
  have released : allReleased s' = allReleased s := by simp only [allReleased, (keys _ _).1]
  have test (d : DivNo) (k : KeyNo) : testDriven s' d k = testDriven s d k := by rw [testDriven, t.run, testDriven]
  refine ⟨fun d => capacity d ▸ Nat.le_trans (windDemand_le (fun k hk => ?_) (weight d)) (h.wind d), fun hp => ?_, fun hr => ?_,
    fun hy => ?_⟩
  · rw [driven, test, t.yielded, (keys d k).1, Bool.or_eq_true] at hk
    rw [driven, Bool.or_eq_true]
    refine hk.imp_left fun held => ?_
    simp only [Bool.and_eq_true, decide_eq_true_eq] at held ⊢
    exact ⟨⟨held.1.1, (keys d k).2 (Nat.one_le_iff_ne_zero.1 held.1.1) held.1.2⟩, held.2⟩
  · rw [t.play] at hp
    obtain ⟨queue, silent, current⟩ := h.idle hp
    exact ⟨t.queue.trans queue, released.trans silent, t.current.trans current⟩
  · rw [t.run] at hr
    exact ⟨t.play.trans (h.run hr).1, t.yielded.trans (h.run hr).2⟩
  · have g := h.given (t.yielded.symm.trans hy)
    refine ⟨t.queue.trans g.queue, t.cues.trans g.cues, released.trans g.keys, fun d => stops d (g.stops d), fun d => ?_⟩
    have := g.ramps d
    rw [shutter] at this ⊢
    rwa [t.shutters]

/-- A change of the divisions in IDLE with no run: nothing sounds before or after. -/
theorem OrganSound.of_settings {s s' : State} (h : OrganSound s) (hp : s.plan.play = .idle) (run : s.levelling.run = none)
    (t : Touches [.divisions, .shutters] s s') (keys : ∀ d k, (key s' d k).holders = (key s d k).holders)
    (stops : ∀ d, (div s d).drawn = 0 ∧ (div s d).stopState = .settled → (div s' d).drawn = 0 ∧ (div s' d).stopState = .settled)
    (ramps : (∀ d, RampIdle (shutter s d)) → ∀ d, RampIdle (shutter s' d)) : OrganSound s' := by
  have released : allReleased s' = allReleased s := by simp only [allReleased, keys]
  obtain ⟨queue, silent, current⟩ := h.idle hp
  have run' := t.run.trans run
  refine ⟨wind_of_silence (released.trans silent) (.of_none run'),
    fun _ => ⟨t.queue.trans queue, released.trans silent, t.current.trans current⟩, fun hr => ?_, fun hy => ?_⟩
  · rw [run'] at hr
    cases hr
  · have g := h.given (t.yielded.symm.trans hy)
    exact ⟨t.queue.trans g.queue, t.cues.trans g.cues, released.trans g.keys, fun d => stops d (g.stops d), ramps g.ramps⟩

theorem settingsClosed_eq_false {s : State} (h : settingsClosed s = false) : s.plan.play = .idle ∧ s.levelling.run = none := by
  simpa [settingsClosed, runActive] using h

/-- A division replaced whose keys are as held as before. -/
theorem setDiv_holders_eq {s : State} {d : DivNo} {x : Division} (h : ∀ k : KeyNo, x.keys[k].holders = (key s d k).holders) (e : DivNo)
    (k : KeyNo) : (key (setDiv d x s) e k).holders = (key s e k).holders := by
  by_cases he : d = e
  · subst he
    rw [key, div_setDiv]
    exact h k
  · rw [key, div_setDiv_ne _ _ he, key]

/-- A property of divisions that the replaced one keeps. -/
theorem setDiv_forall {s : State} {d : DivNo} {x : Division} {p : Division → Prop} (h : p (div s d) → p x) (e : DivNo)
    (k : p (div s e)) : p (div (setDiv d x s) e) := by
  by_cases he : d = e
  · subst he
    rw [div_setDiv]
    exact h k
  · rwa [div_setDiv_ne _ _ he]

theorem doStopsSet_organ {s : State} (b : List Byte) (h : OrganSound s) : OrganSound (doStopsSet b s).1 := by
  refine guarded_keeps _ h fun _ open_ => ?_
  obtain ⟨hp, run⟩ := settingsClosed_eq_false open_
  dsimp only
  refine h.of_settings hp run ((setDiv_touches _ _ s).mono) (setDiv_holders_eq fun _ => rfl) (fun e k => ?_) id
  refine setDiv_forall (d := toFin 6 (byteAt b 0)) (x := withStops _ (div s (toFin 6 (byteAt b 0))))
    (p := fun x => x.drawn = 0 ∧ x.stopState = .settled) (fun k => ⟨?_, k.2⟩) e k
  simp only [withStops, k.1]
  exact BitVec.zero_and

theorem shutter_writeDivision {s : State} (d : DivNo) (x : Division) (h : ∀ e, RampIdle (shutter s e)) (e : DivNo) :
    RampIdle (shutter (writeDivision d x s) e) := by
  unfold writeDivision
  dsimp only
  split
  · exact h e
  · by_cases he : d = e
    · subst he
      rw [shutter_setShutter]
      exact ⟨rfl, rfl⟩
    · rw [shutter_setShutter_ne _ _ he]
      exact h e

theorem writeDivision_divisions (d : DivNo) (x : Division) (s : State) :
    (writeDivision d x s).drivers.divisions = (setDiv d x s).drivers.divisions := by
  unfold writeDivision
  dsimp only
  split <;> rfl

theorem divisionAfterSet_holders (b : List Byte) (x : Division) (k : KeyNo) :
    (divisionAfterSet b x).keys[k].holders = x.keys[k].holders := by
  simp only [divisionAfterSet, keysAfterSet, Fin.getElem_fin, mapIdx_getElem]
  split <;> rfl

theorem doDivisionSet_organ {s : State} (b : List Byte) (h : OrganSound s) : OrganSound (doDivisionSet b s).1 := by
  refine guarded_keeps _ h fun _ open_ => afterLeads_organ s ?_
  obtain ⟨hp, run⟩ := settingsClosed_eq_false open_
  have divisions := writeDivision_divisions (toFin 6 (byteAt b 0)) (divisionAfterSet b (div s (toFin 6 (byteAt b 0)))) s
  refine h.of_settings hp run (writeDivision_touches _ _ s) (fun d k => ?_) (fun d k => ?_) (shutter_writeDivision _ _)
  · rw [key_congr divisions]
    exact setDiv_holders_eq (fun k => divisionAfterSet_holders b _ k) d k
  · rw [div_congr divisions]
    refine setDiv_forall (p := fun x => x.drawn = 0 ∧ x.stopState = .settled) (fun k => ?_) d k
    unfold divisionAfterSet
    dsimp only
    split
    · exact k
    · exact ⟨rfl, rfl⟩

theorem setMic_calm {m : MicNo} {x : Mic} {s : State} (h : x.gates.length ≤ (mic s m).gates.length) : Calm s (setMic m x s) := by
  have t : Touches [.mics] s (setMic m x s) := .of_merge rfl
  exact t.calm (setMic_tame h)

theorem doMicSet_organ {s : State} (b : List Byte) (h : OrganSound s) : OrganSound (doMicSet b s).1 := by
  have fallback : Touches [.fallback] s { s with front := { s.front with fallback := signedWordAt b 15 } } := .of_merge rfl
  have set : Calm s (withMicSettings (toFin 4 (byteAt b 0)) (micOf b) (signedWordAt b 15) s) :=
    (fallback.calm fallback.tame).trans (setMic_calm (withSettings_gates _ _ _))
  have used (v : State) : Calm v (updateInUse v) := (updateInUse_touches v).calm (updateInUse_touches v).tame
  exact guarded_keeps _ h fun _ _ => afterLeads_organ s ((set.trans (used _)).organ h)

theorem clearedFault_sound {k : KeyRecord} (held : k.holders ≠ 0) (h : (clearKey k).sound = true) : k.sound = true := by
  unfold KeyRecord.sound clearKey clearedFault at h
  unfold KeyRecord.sound
  cases hf : k.fault <;> simp_all

theorem withKeys_stops (x : Division) (ks : Vector KeyRecord 61) :
    ({ x with keys := ks } : Division).capacity = x.capacity ∧ ({ x with keys := ks } : Division).drawn = x.drawn ∧
      ({ x with keys := ks } : Division).stopState = x.stopState ∧ drawnWeight { x with keys := ks } = drawnWeight x :=
  ⟨rfl, rfl, rfl, rfl⟩

theorem clearDivision_stops (b : List Byte) (x : Division) :
    (clearDivision b x).capacity = x.capacity ∧ (clearDivision b x).drawn = x.drawn ∧
      (clearDivision b x).stopState = x.stopState ∧ drawnWeight (clearDivision b x) = drawnWeight x := by
  unfold clearDivision
  exact withKeys_stops x _

theorem clearDivision_holders (b : List Byte) (x : Division) (k : KeyNo) :
    (clearDivision b x).keys[k].holders = x.keys[k].holders := by
  simp only [clearDivision, Fin.getElem_fin, mapIdx_getElem]
  split <;> rfl

theorem clearDivision_sound {b : List Byte} {x : Division} {k : KeyNo} (held : x.keys[k].holders ≠ 0)
    (h : (clearDivision b x).keys[k].sound = true) : x.keys[k].sound = true := by
  simp only [clearDivision, Fin.getElem_fin, mapIdx_getElem] at h
  split at h
  · exact clearedFault_sound held h
  · exact h

theorem cleared_organ {s : State} (b : List Byte) (d : DivNo) (h : OrganSound s) :
    OrganSound (setDiv d (clearDivision b (div s d)) s) := by
  obtain ⟨capacity, drawn, state, weight⟩ := clearDivision_stops b (div s d)
  generalize hx : clearDivision b (div s d) = x at *
  refine h.of_divisions (setDiv_touches _ _ _).mono (fun e => ?_) (fun e => ?_) (fun e k => ⟨?_, fun held sound => ?_⟩)
    fun e => setDiv_forall (p := fun x => x.drawn = 0 ∧ x.stopState = .settled) (fun k => ⟨drawn.trans k.1, state.trans k.2⟩) e
  · by_cases he : d = e
    · rw [← he, div_setDiv, weight]
    · rw [div_setDiv_ne _ _ he]
  · by_cases he : d = e
    · rw [← he, div_setDiv, capacity]
    · rw [div_setDiv_ne _ _ he]
  · refine setDiv_holders_eq (fun k => ?_) e k
    rw [← hx, clearDivision_holders, key]
  · by_cases he : d = e
    · subst he
      rw [key, div_setDiv, ← hx] at sound
      exact clearDivision_sound held sound
    · rwa [key, div_setDiv_ne _ _ he] at sound

theorem doFaultClear_organ {s : State} (b : List Byte) (h : OrganSound s) : OrganSound (doFaultClear b s).1 := by
  have debounced : Touches [.drivers] s { s with drivers := { s.drivers with debounce := byteAt b 2 } } := .of_merge rfl
  have h' : OrganSound { s with drivers := { s.drivers with debounce := byteAt b 2 } } := (debounced.calm debounced.tame).organ h
  unfold doFaultClear
  split
  · exact h
  · exact cleared_organ b (toFin 6 (byteAt b 0)) h'

end Sys2Proof.Machine

/-! PROOFS. The organ's invariant under the expression, the levelling run and the yield; the step that keeps it. -/

namespace Sys2Proof.Machine

-- The proofs are elaborated one after another, which keeps the whole text within its memory.
set_option Elab.async false

/-! ### Expression -/

theorem idleRamps_calm (s : State) : Calm s (idleRamps s) :=
  (mapShutters_touches _ s).calm (mapShutters_touches _ s).tame (ramps := .inr fun _ d => by
    rw [shutter_mapShutters]
    exact ⟨rfl, rfl⟩)

theorem rampAct_calm (d : DivNo) (s : State) : Calm s (rampAct d s) := by
  refine (rampAct_touches d s).calm (rampAct_touches d s).tame (ramps := .inr fun h e => ?_)
  have idle := readClock_idle h
  have still : rampMove (readClock s).expression (shutter (readClock s) d) = none := by
    simp only [rampMove, suNeeded, (idle d).1]
  unfold rampAct
  simp only [still]
  exact idle e

theorem idleTick_calm (s : State) : Calm s (idleTick s) := by
  have t : Touches [.clock, .shutters] s (idleTick s) := .of_merge rfl
  refine t.calm t.tame (ramps := .inr fun h d => ?_)
  rw [idleTick, shutter_mapShutters]
  exact settleShutter_idle (riseShutter_idle (h d))

theorem doCurveSet_organ {s : State} (b : List Byte) (h : OrganSound s) : OrganSound (doCurveSet b s).1 := by
  have set (c : Fin 5) (v : State) :
      Touches [.curves] v { v with expression := { v.expression with curves := v.expression.curves.set c (pointsOf b) } } :=
    .of_merge rfl
  unfold doCurveSet checked
  split
  · exact h
  · exact ((syncRamps_calm s).trans ((set _ _).calm (set _ _).tame)).organ h

theorem doExpress_organ {s : State} (b : List Byte) (place : Expression → Ramp → Shutter → Shutter) (h : OrganSound s) :
    OrganSound (doExpress b place s).1 := by
  refine h.of_ramps (doExpress_touches b place s) fun hy => ?_
  have refused : expressRefusal b s ≠ none := by
    rw [expressRefusal, if_pos hy]
    split
    · nofun
    · split <;> nofun
  unfold doExpress
  split
  · rfl
  · exact absurd ‹_› refused

/-! ### The levelling run -/

theorem key_stopChange (d : DivNo) (r : StopSet) (s : State) (e : DivNo) (k : KeyNo) : key (stopChange d r s) e k = key s e k := by
  by_cases he : d = e
  · rw [key, ← he, div_stopChange, key]
  · rw [key, div_stopChange_ne _ _ he, key]

theorem allReleased_of_holders {s s' : State} (h : ∀ d k, (key s' d k).holders = (key s d k).holders) :
    allReleased s' = allReleased s := by simp only [allReleased, h]

/-- What a run does while it has the organ: the play stays in IDLE, the part keeps the organ, and no key is held. -/
theorem OrganSound.levelled {ps : List Part} {s s' : State} (h : OrganSound s) (hp : s.plan.play = .idle) (hy : yielded s = false)
    (t : Touches ps s s') (m : Tame s s') (held : ∀ d k, (key s' d k).holders = (key s d k).holders) (wind : WindHeld s')
    (play : Part.plan ∉ ps := by decide) (yield : Part.yieldState ∉ ps := by decide)
    (current : Part.current ∉ ps := by decide) : OrganSound s' := by
  have free := (t.yielded yield).trans hy
  obtain ⟨queue, released, map⟩ := h.idle hp
  refine ⟨wind, fun _ => ⟨eq_nil_of_length_le m.queue queue, (allReleased_of_holders held).trans released, (t.current current).trans map⟩,
    fun _ => ⟨(t.play play).trans hp, free⟩, fun hy' => nomatch free.symm.trans hy'⟩

/-- The same for a run that is not SOUNDING when it has done so. -/
theorem OrganSound.unsounded {ps : List Part} {s s' : State} (h : OrganSound s) (hp : s.plan.play = .idle) (hy : yielded s = false)
    (t : Touches ps s s') (m : Tame s s') (held : ∀ d k, (key s' d k).holders = (key s d k).holders) (quiet : Untested s')
    (play : Part.plan ∉ ps := by decide) (yield : Part.yieldState ∉ ps := by decide)
    (current : Part.current ∉ ps := by decide) : OrganSound s' :=
  h.levelled hp hy t m held (wind_of_silence ((allReleased_of_holders held).trans (h.idle hp).2.1) quiet) play yield current

theorem OrganSound.of_run {s : State} {r : LevelRun} (h : OrganSound s) (hr : s.levelling.run = some r) :
    s.plan.play = .idle ∧ yielded s = false := h.run (by rw [hr]; rfl)

theorem Untested.of_some {s : State} {r : LevelRun} (h : s.levelling.run = some r) (hp : r.phase ≠ .sounding) : Untested s := by
  intro q hq
  rw [h, Option.mem_some_iff] at hq
  exact hq ▸ hp

theorem setRun_organ {s : State} {r : LevelRun} (h : OrganSound s) (hp : s.plan.play = .idle) (hy : yielded s = false)
    (phase : r.phase ≠ .sounding) : OrganSound (setRun (some r) s) :=
  h.unsounded hp hy (setRun_touches _ s) (setRun_tame _ s) (fun _ _ => rfl) (.of_some rfl phase)

theorem setRun_none_organ {s : State} (h : OrganSound s) (hp : s.plan.play = .idle) (hy : yielded s = false) :
    OrganSound (setRun none s) :=
  h.unsounded hp hy (setRun_touches _ s) (setRun_tame _ s) (fun _ _ => rfl) (.of_none rfl)

theorem enterDone_holders (r : LevelRun) (o : LevelOutcome) (s : State) (d : DivNo) (k : KeyNo) :
    key (enterDone r o s) d k = key s d k := by
  rw [enterDone, key_stopChange]
  exact key_congr (((setRun_touches _ _).after (reportLevel_touches r o s) (rs := [.run, .last, .outgoing, .link])).divisions) d k

theorem enterDone_organ {s : State} (r : LevelRun) (o : LevelOutcome) (h : OrganSound s) (hp : s.plan.play = .idle)
    (hy : yielded s = false) : OrganSound (enterDone r o s) :=
  h.unsounded hp hy (enterDone_touches r o s) (enterDone_tame r o s) (fun d k => by rw [enterDone_holders])
    (.of_some rfl nofun)

/-- The test key opens while no other valve is driven by a run, so the wind check covers it (R160, R182). -/
theorem enterSounding_organ {s : State} {r : LevelRun} (h : OrganSound s) (hr : s.levelling.run = some r)
    (phase : r.phase = .quietCheck) : OrganSound (enterSounding r s) := by
  obtain ⟨hp, hy⟩ := h.of_run hr
  have quiet : Untested s := .of_some hr (by rw [phase]; nofun)
  unfold enterSounding
  dsimp only
  split
  · exact enterDone_organ _ _ h hp hy
  · split
    · exact enterDone_organ _ _ h hp hy
    · next allowed =>
      generalize hq : ({ r with phase := .sounding, listening := true, opening := some s.now, deadline := some (addTu s.now 5000) } :
        LevelRun) = q
      have same : q.division = r.division ∧ q.key = r.key := by rw [← hq]; exact ⟨rfl, rfl⟩
      have drives (d : DivNo) (k : KeyNo) (hk : driven (setRun (some q) s) d k = true) :
          driven s d k = true ∨ (d = r.division ∧ k = r.key) := by
        simp only [driven, Bool.or_eq_true] at hk ⊢
        rcases hk with held | test
        · exact .inl (.inl held)
        · simp only [testDriven, setRun, Option.any_some, Bool.and_eq_true, beq_iff_eq] at test
          exact .inr ⟨test.1.2.symm.trans same.1, test.2.symm.trans same.2⟩
      have sounded : OrganSound (setRun (some q) s) := by
        refine h.levelled hp hy (setRun_touches _ s) (setRun_tame _ s) (fun _ _ => rfl) fun d => ?_
        by_cases hd : d = r.division
        · rw [hd]
          have fits : (drivenCount s r.division + 1) * drawnWeight (div s r.division) ≤ (div s r.division).capacity := by
            simpa [windAllows] using allowed
          exact Nat.le_trans (Nat.mul_le_mul_right _ (drivenCount_le_succ fun k hk => (drives _ k hk).imp_right And.right)) fits
        · exact Nat.le_trans (windDemand_le (s := s) (fun k hk => (drives d k hk).resolve_right fun c => hd c.1) rfl) (h.wind d)
      have opened (v : State) : Calm v (reportOpening r.division v) :=
        (reportOpening_touches _ v).calm (reportOpening_tame _ v)
      exact (opened _).organ sounded

theorem quietValue_organ {s : State} {r : LevelRun} (x : Option Int) (t : Time) (n : Nat) (h : OrganSound s)
    (hr : s.levelling.run = some r) : OrganSound (quietValue x t n r s) := by
  obtain ⟨hp, hy⟩ := h.of_run hr
  unfold quietValue
  split
  · exact h
  · next considered =>
    have phase : r.phase = .quietCheck := by
      simp only [Bool.not_eq_true, Bool.not_eq_false', Machine.considered, Bool.and_eq_true, beq_iff_eq] at considered
      exact considered.1
    have sets (q : LevelRun) (same : q.phase = r.phase) : OrganSound (setRun (some q) s) :=
      setRun_organ h hp hy (by rw [same, phase]; nofun)
    split
    · exact sets _ rfl
    · split
      · exact sets _ rfl
      · split
        · exact enterSounding_organ h hr phase
        · exact h

/-- A run whose phase and key stay drives the same valve. -/
theorem setRun_same_organ {s : State} {r q : LevelRun} (h : OrganSound s) (hr : s.levelling.run = some r)
    (phase : q.phase = r.phase) (division : q.division = r.division) (key : q.key = r.key) : OrganSound (setRun (some q) s) := by
  obtain ⟨hp, hy⟩ := h.of_run hr
  refine h.levelled hp hy (setRun_touches _ s) (setRun_tame _ s) (fun _ _ => rfl) fun d => ?_
  refine Nat.le_trans (windDemand_le (s := s) (s' := setRun (some q) s) (fun k hk => ?_) rfl) (h.wind d)
  have test : testDriven (setRun (some q) s) d k = testDriven s d k := by
    simp only [testDriven, setRun, hr, Option.any_some, phase, division, key]
  rw [driven, test] at hk
  exact hk

theorem pipeOnset_organ {s : State} {r : LevelRun} (t : Time) (h : OrganSound s) (hr : s.levelling.run = some r) :
    OrganSound (pipeOnset t r s) := by
  unfold pipeOnset
  split
  · exact h
  · split
    · exact setRun_same_organ h hr rfl rfl rfl
    · exact h

theorem onRun_organ {f : LevelRun → State → State} {s : State} (h : OrganSound s)
    (act : ∀ r, s.levelling.run = some r → OrganSound (f r s)) : OrganSound (onRun f s) := by
  unfold onRun
  split
  · exact act _ ‹_›
  · exact h

theorem takeBlock_organ {s : State} (m : MicNo) (first : Time) (samples : List (BitVec 12)) (h : OrganSound s) :
    OrganSound (takeBlock m first samples s) := by
  have heard : OrganSound (setMic m (afterBlock s.now (envelopeOf samples) first (mic s m)) s) :=
    (setMic_calm (by rw [afterBlock_gates]; exact List.length_filter_le _ _)).organ h
  unfold takeBlock
  dsimp only
  split
  · have checked := onRun_organ heard fun r hr =>
      quietValue_organ (excessOf (mic s m) (envelopeOf samples)) first (mic s m).settings.fall heard hr
    cases onsetOf s.now m (envelopeOf samples) first (mic s m) with
    | none => exact checked
    | some o => exact onRun_organ checked fun r hr => pipeOnset_organ o.tObs checked hr
  · cases onsetOf s.now m (envelopeOf samples) first (mic s m) with
    | none => exact heard
    | some o => exact ((routeOnset_touches o _).calm (routeOnset_tame o _)).organ heard

/-- What a run does at its deadline leaves it in a phase that holds no key. -/
theorem enterPhase_organ {s : State} {r : LevelRun} (q : LevelRun) (h : OrganSound s) (hr : s.levelling.run = some r)
    (phase : q.phase ≠ .sounding) : OrganSound (setRun (some q) s) :=
  setRun_organ h (h.of_run hr).1 (h.of_run hr).2 phase

theorem failNoisy_organ {s : State} {r : LevelRun} (h : OrganSound s) (hr : s.levelling.run = some r) :
    OrganSound (failNoisy r s) := by
  unfold failNoisy
  split
  · exact enterPhase_organ _ h hr nofun
  · exact enterDone_organ _ _ h (h.of_run hr).1 (h.of_run hr).2

theorem failNoSound_organ {s : State} {r : LevelRun} (h : OrganSound s) (hr : s.levelling.run = some r) :
    OrganSound (failNoSound r s) := by
  unfold failNoSound
  split
  · exact enterPhase_organ _ h hr nofun
  · exact enterDone_organ _ _ h (h.of_run hr).1 (h.of_run hr).2

theorem withSpeech_organ {s : State} (d : DivNo) (n : Nat) (h : OrganSound s) :
    OrganSound (setDiv d { div s d with speech := n } s) := by
  have same {α : Type} (f : Division → α) (hf : f { div s d with speech := n } = f (div s d)) (e : DivNo) :
      f (div (setDiv d { div s d with speech := n } s) e) = f (div s e) := by
    by_cases he : d = e
    · rw [← he, div_setDiv, hf]
    · rw [div_setDiv_ne _ _ he]
  have keys (e : DivNo) (k : KeyNo) : key (setDiv d { div s d with speech := n } s) e k = key s e k := by
    rw [key, same (fun x => x.keys) rfl, key]
  refine h.of_divisions (setDiv_touches _ _ _).mono (same drawnWeight rfl) (same (fun x => x.capacity) rfl)
    (fun e k => ?_) fun e stops => ?_
  · rw [keys]
    exact ⟨rfl, fun _ k => k⟩
  · rw [same (fun x => x.drawn) rfl, same (fun x => x.stopState) rfl]
    exact stops

theorem finishRun_organ {s : State} {r : LevelRun} (h : OrganSound s) (hr : s.levelling.run = some r) :
    OrganSound (finishRun r s) := by
  obtain ⟨hp, hy⟩ := h.of_run hr
  have stored (n : Nat) : OrganSound (retime (setDiv r.division { div s r.division with speech := n } s)) :=
    (retime_calm _).organ (withSpeech_organ _ n h)
  have t (n : Nat) := (retime_touches (setDiv r.division { div s r.division with speech := n } s)).after (setDiv_touches _ _ s)
    (rs := [.divisions, .queue, .counters])
  have done (n : Nat) (o : LevelOutcome) :
      OrganSound (enterDone r o (retime (setDiv r.division { div s r.division with speech := n } s))) :=
    enterDone_organ r o (stored n) ((t n).play.trans hp) ((t n).yielded.trans hy)
  unfold finishRun
  dsimp only
  split
  · exact enterDone_organ r _ h hp hy
  · exact done _ _
  · exact done _ _

theorem endRelease_organ {s : State} {r : LevelRun} (h : OrganSound s) (hr : s.levelling.run = some r) : OrganSound (endRelease r s) := by
  unfold endRelease
  split
  · exact finishRun_organ h hr
  · exact enterPhase_organ _ h hr nofun

theorem levelChangeEnd_organ {s : State} (d : DivNo) (h : OrganSound s) : OrganSound (levelChangeEnd d s) := by
  refine onRun_organ h fun r hr => ?_
  split
  · split
    · exact enterPhase_organ _ h hr nofun
    · exact setRun_none_organ h (h.of_run hr).1 (h.of_run hr).2
    all_goals exact h
  · exact h

theorem levelShorted_organ {s : State} (h : OrganSound s) : OrganSound (levelShorted s) := by
  refine onRun_organ h fun r hr => ?_
  split
  · exact enterDone_organ _ _ h (h.of_run hr).1 (h.of_run hr).2
  · exact h

end Sys2Proof.Machine

/-! PROOFS. The organ's invariant under STOP and LEVEL, the coil monitor, the yield and the resets; the step that keeps it. -/

namespace Sys2Proof.Machine

-- The proofs are elaborated one after another, which keeps the whole text within its memory.
set_option Elab.async false

theorem doStopNow_organ {s : State} (b : List Byte) (h : OrganSound s) : OrganSound (doStopNow b s).1 := by
  have ramps := (idleRamps_calm s).organ h
  unfold doStopNow
  split
  · exact h
  · split
    · next hp =>
      split
      · exact h
      · next r hr =>
        dsimp only
        split
        · exact ramps
        · exact enterDone_organ r _ ramps hp (h.of_run hr).2
    · exact tearDown_organ .stopped ((setPlan_calm { s.plan with queued := false } rfl).organ h)

theorem doLevel_organ {s : State} (b : List Byte) (h : OrganSound s) : OrganSound (doLevel b s).1 := by
  unfold doLevel
  split
  · exact h
  · split
    · exact h
    · next busy =>
      split
      · exact h
      · simp only [not_or, Classical.not_not, Bool.not_eq_true] at busy
        have t : Touches [.run, .divisions] s (stopChange (toFin 6 (byteAt b 0)) (BitVec.ofNat 16 (2 ^ byteAt b 1))
            (setRun (some (newRun b s)) s)) := (stopChange_touches _ _ _).after (setRun_touches _ s)
        refine h.unsounded busy.1 busy.2.1 t ((setRun_tame _ s).trans (stopChange_tame _ _ _)) (fun d k => ?_)
          (.of_some (r := newRun b s) rfl nofun)
        rw [key_stopChange]
        rfl

/-! ### Divisions and coils -/

theorem endStopChange_organ {s : State} (d : DivNo) (h : OrganSound s) : OrganSound (endStopChange d s) := by
  have same {α : Type} (f : Division → α) (hf : f { div s d with stopState := .settled } = f (div s d)) (e : DivNo) :
      f (div (setDiv d { div s d with stopState := .settled } s) e) = f (div s e) := by
    by_cases he : d = e
    · rw [← he, div_setDiv, hf]
    · rw [div_setDiv_ne _ _ he]
  have keys (e : DivNo) (k : KeyNo) : key (setDiv d { div s d with stopState := .settled } s) e k = key s e k := by
    rw [key, same (fun x => x.keys) rfl, key]
  refine levelChangeEnd_organ d (h.of_divisions (setDiv_touches _ _ _).mono (same drawnWeight rfl) (same (fun x => x.capacity) rfl)
    (fun e k => ?_) fun e stops => ?_)
  · rw [keys]
    exact ⟨rfl, fun _ k => k⟩
  · exact setDiv_forall (d := d) (x := { div s d with stopState := .settled }) (p := fun x => x.drawn = 0 ∧ x.stopState = .settled)
      (fun k => ⟨k.1, rfl⟩) e stops

theorem scanCounts_frame (b : Bool) (c : CoilCurrent) (k : KeyRecord) :
    (scanCounts b c k).holders = k.holders ∧ (scanCounts b c k).fault = k.fault := by
  unfold scanCounts
  split
  · cases c <;> exact ⟨rfl, rfl⟩
  · exact ⟨rfl, rfl⟩

theorem scanKey_holders (n : Nat) (b : Bool) (c : CoilCurrent) (k : KeyRecord) : (scanKey n b c k).holders = k.holders := by
  unfold scanKey
  split <;> exact (scanCounts_frame b c k).1

/-- A scan makes no key sound that was not. -/
theorem scanKey_sound {n : Nat} {b : Bool} {c : CoilCurrent} {k : KeyRecord} (h : (scanKey n b c k).sound = true) :
    k.sound = true := by
  unfold scanKey at h
  split at h
  · rwa [KeyRecord.sound, (scanCounts_frame b c k).2, ← KeyRecord.sound] at h
  · next found =>
    have normal : k.fault = .normal := by
      unfold scanFinding at found
      dsimp only at found
      split at found
      · cases found
      · split at found
        · split at found
          · next reached => exact reached.2
          · cases found
        · cases found
        · split at found <;> cases found
    rw [KeyRecord.sound, normal]
    rfl
  · cases h

theorem scanAll_div (r : CoilReadings) (s : State) (d : DivNo) : div (scanAll r s) d = { div s d with
    keys := mapIdx (fun k rec => if scanned s d k then scanKey s.drivers.debounce (driven s d k) r[d][k] rec else rec)
      (div s d).keys } := by
  rw [scanAll, div_mapDivisions]

theorem scanCoils_organ {s : State} (r : CoilReadings) (h : OrganSound s) : OrganSound (scanCoils r s) := by
  have marked : Touches [.clock] s { s with marks := { s.marks with scan := true } } := .of_merge rfl
  have scannedOrgan (v : State) (h : OrganSound v) : OrganSound (scanAll r v) := by
    have t : Touches [.divisions] v (scanAll r v) := mapDivisions_touches _ v
    refine h.of_divisions t.mono (fun d => ?_) (fun d => ?_) (fun d k => ?_) fun d stops => ?_
    · rw [scanAll_div]
      exact (withKeys_stops _ _).2.2.2
    · rw [scanAll_div]
    · simp only [key, scanAll_div, Fin.getElem_fin, mapIdx_getElem]
      split
      · exact ⟨scanKey_holders _ _ _ _, fun _ => scanKey_sound⟩
      · exact ⟨rfl, fun _ k => k⟩
    · rw [scanAll_div]
      exact stops
  unfold scanCoils
  dsimp only
  exact levelShorted_organ (foldl_organ (fun u n => (notice_calm n u).organ) _
    (scannedOrgan _ ((marked.calm marked.tame).organ h)))

/-! ### The yield -/

theorem yieldDivision_holders (x : Division) (k : KeyNo) : (yieldDivision x).keys[k].holders = 0 := by
  simp only [yieldDivision, Fin.getElem_fin, mapIdx_getElem]
  split <;> rfl

theorem yieldDivision_stops (x : Division) : (yieldDivision x).drawn = 0 ∧ (yieldDivision x).stopState = .settled := ⟨rfl, rfl⟩

/-- The part in the moment it gives up the organ, with the clock counted, before the run and the notice (R194). -/
def organGiven (s : State) : State :=
  let s := idleRamps (mapDivisions (fun _ x => yieldDivision x) (flush s))
  setYielding { s.yielding with state := .yielded, rejoin := none } (followerYield s)

theorem grant_eq (src : YieldSource) (s : State) : grant src s =
    notice (grantedNotice src s.yielding.state (levelYield (organGiven (syncRamps s)))) (levelYield (organGiven (syncRamps s))) := rfl

theorem organGiven_div (s : State) (d : DivNo) : div (organGiven s) d = yieldDivision (div s d) := by
  have same : (organGiven s).drivers = (mapDivisions (fun _ x => yieldDivision x) s).drivers := rfl
  rw [div, same, ← div, div_mapDivisions]

theorem organGiven_given (s : State) : HandedOver (organGiven s) := by
  refine ⟨rfl, rfl, allReleased_iff.2 fun d k => ?_, fun d => ?_, fun d => ?_⟩
  · rw [key, organGiven_div]
    exact yieldDivision_holders _ k
  · rw [organGiven_div]
    exact yieldDivision_stops _
  · have same : (organGiven s).expression = (mapShutters (fun _ sh => idleShutter sh) s).expression := rfl
    rw [shutter, same, ← shutter, shutter_mapShutters]
    exact ⟨rfl, rfl⟩

theorem levelYield_run (s : State) : (levelYield s).levelling.run = none := by
  unfold levelYield onRun
  split
  · rfl
  · exact ‹_›

theorem grant_organ {s : State} (src : YieldSource) (h : OrganSound s) : OrganSound (grant src s) := by
  rw [grant_eq]
  replace h := (syncRamps_calm s).organ h
  generalize syncRamps s = u at h ⊢
  have t := levelYield_touches (organGiven u)
  have given := organGiven_given u
  have map : (organGiven u).map.current = u.map.current := rfl
  have play : (organGiven u).plan.play = u.plan.play := rfl
  have yield : yielded (levelYield (organGiven u)) = true := t.yielded.trans rfl
  have keys : allReleased (levelYield (organGiven u)) = true := (allReleased_congr t.divisions).trans given.keys
  refine (notice_calm _ _).organ ⟨wind_of_silence keys (.of_none (levelYield_run _)), fun hp => ?_, fun hr => ?_, fun _ => ?_⟩
  · exact ⟨t.queue.trans given.queue, keys, (t.current.trans map).trans (h.idle (play.symm.trans (t.play.symm.trans hp))).2.2⟩
  · rw [levelYield_run] at hr
    cases hr
  · refine ⟨t.queue.trans given.queue, t.cues.trans given.cues, keys, fun d => ?_, fun d => ?_⟩
    · rw [div_congr t.divisions]
      exact given.stops d
    · have := given.ramps d
      rw [shutter] at this ⊢
      rwa [t.shutters]

theorem setSource_calm (src : YieldSource) (b : Bool) (s : State) : Calm s (setSource src b s) :=
  (setSource_touches src b s).calm (setSource_touches src b s).tame

theorem claim_organ {s : State} (src : YieldSource) (h : OrganSound s) : OrganSound (claim src s) := by
  have present := (setSource_calm src true s).organ h
  unfold claim sourcePresent
  dsimp only
  split
  · exact closeIfHeld_organ present
  · exact closeIfHeld_organ (grant_organ src present)

theorem sourceAbsent_organ {s : State} (src : YieldSource) (h : OrganSound s) : OrganSound (sourceAbsent src s) := by
  have gone := (setSource_calm src false s).organ h
  unfold sourceAbsent
  dsimp only
  split
  · next back =>
    split
    · next hp =>
      have hy : yielded (setSource src false s) = true := by
        simp only [awaiting, Bool.and_eq_true] at back
        exact back.2.1
      have t := releaseYield_touches (setSource src false s)
      exact startQueued_organ (releaseYield_organ gone) (t.play.trans ((setSource_touches src false s).play.trans hp))
        (t.run.trans (gone.run_none_of_yielded hy))
    · exact awaitTest_organ gone
  · exact gone

/-! ### Resets -/

theorem quietDivision_holders (x : Division) (k : KeyNo) : (quietDivision x).keys[k].holders = 0 := by
  simp only [quietDivision, Fin.getElem_fin, mapIdx_getElem, KeyRecord.released]

/-- The part after QUIET_RESET, with the clock counted. -/
def quieted (s : State) : State :=
  let s := mapDivisions (fun _ x => quietDivision x) (quietFollower (quietStore (idleRamps s)))
  { s with
    plan := .powerOn, front := quietFront s.now s.front, expander := quietExpander s.expander, queue := []
    levelling := { s.levelling with run := none }, yielding := { YieldUnit.powerOn with filter := filterStart s }
    counters := s.counters.playCleared }

theorem quietReset_eq (s : State) : quietReset s = quieted (syncRamps s) := rfl

theorem quieted_div (s : State) (d : DivNo) : div (quieted s) d = quietDivision (div s d) := by
  have same : (quieted s).drivers = (mapDivisions (fun _ x => quietDivision x) s).drivers := rfl
  rw [div, same, ← div, div_mapDivisions]

theorem quietReset_organ (s : State) : OrganSound (quietReset s) := by
  rw [quietReset_eq]
  generalize syncRamps s = u
  have keys : allReleased (quieted u) = true := allReleased_iff.2 fun d k => by
    rw [key, quieted_div]
    exact quietDivision_holders _ k
  exact ⟨wind_of_silence keys (.of_none rfl), fun _ => ⟨rfl, keys, rfl⟩, nofun, nofun⟩

theorem reset_organ : OrganSound .reset := ⟨by decide, fun _ => by decide, nofun, nofun⟩

theorem release_organ {s : State} (rate1 rate0 : Bool) (h : OrganSound s) : OrganSound (release rate1 rate0 s) := by
  have started (u : State) (l : ServiceLink) (f : CtFilter) :
      Calm u (setFilter f { u with now := 0, rstHeld := false, marks := .taken, link := l }) :=
    ⟨rfl, rfl, rfl, .rfl, rfl, Nat.le_refl _, Nat.le_refl _, id⟩
  exact ((started _ _ _).trans (notice_calm _ _)).organ h

/-! ### The step -/

theorem organSound_about : About [.queue, .divisions, .current, .plan, .run, .yieldState, .cues, .shutters] OrganSound := by
  intro ps s s' t away h
  have out {p : Part} (hp : p ∈ [Part.queue, .divisions, .current, .plan, .run, .yieldState, .cues, .shutters] := by decide) :
      p ∉ ps := away p hp
  refine Calm.organ ⟨t.divisions out, t.run out, t.yielded out, by rw [t.play out], t.current out, Nat.le_of_eq ?_, Nat.le_of_eq ?_,
    fun idle d => ?_⟩ h
  · rw [t.queue out]
  · rw [t.cues out]
  · have := idle d
    rw [shutter] at this ⊢
    rwa [t.shutters out]

theorem exec_organ (i : Instr) (s s' : State)
    (hi : ∃ p ∈ [Part.queue, .divisions, .current, .plan, .run, .yieldState, .cues, .shutters], p ∈ partsOf i)
    (hx : exec i s = .next s') (h : OrganSound s) : OrganSound s' := by
  have keeps {t : Time} {p : State → Bool} {act : State → State} (hx : event t p act s = .next s')
      (acts : ∀ u, p u = true → OrganSound u → OrganSound (act u)) : OrganSound s' := organSound_about.event_keeps hx h acts
  have calm {t : Time} {p : State → Bool} {act : State → State} (hx : event t p act s = .next s')
      (acts : ∀ u, Calm u (act u)) : OrganSound s' := keeps hx fun u _ => (acts u).organ
  have answers {t : Time} {f : Frame} {mine lengthOk : Bool} {act : Handler} (hx : request t f mine lengthOk act s = .next s')
      (acts : ∀ u, OrganSound u → OrganSound (act u).1) : OrganSound s' := organSound_about.request_keeps hx h acts
  cases i <;> dsimp only [exec] at hx
  case resetAssert =>
    cases hx
    exact organSound_about (ps := [.outside]) (.of_merge rfl) (by decide) reset_organ
  case resetRelease rate1 rate0 =>
    unfold execResetRelease at hx
    cases hx
    split
    · exact release_organ rate1 rate0 h
    · exact h
  case quietReset t g b => exact answers hx fun u _ => quietReset_organ u
  case planSet t g b => exact answers hx fun _ => doPlanSet_organ b
  case planCancel t g b => exact answers hx fun _ => doPlanCancel_organ
  case planStartNow t g b => exact answers hx fun _ => doPlanStartNow_organ b
  case planStartNext t g b => exact answers hx fun _ => doPlanStartNext_organ
  case stopNow t g b => exact answers hx fun _ => doStopNow_organ b
  case stopLine t g b => exact answers hx fun _ => stopPartAtOnce_organ true
  case stopVerse t g b => exact answers hx fun _ => stopPartAtOnce_organ false
  case verses t g b => exact answers hx fun _ => versesAtOnce_organ b
  case tempo t g b => exact answers hx fun _ => doTempo_organ b
  case micSet t g b => exact answers hx fun _ => doMicSet_organ b
  case divisionSet t g b => exact answers hx fun _ => doDivisionSet_organ b
  case stopsSet t g b => exact answers hx fun _ => doStopsSet_organ b
  case curveSet t g b => exact answers hx fun _ => doCurveSet_organ b
  case expressNow t g b => exact answers hx fun _ => doExpress_organ b placeNow
  case expressNext t g b => exact answers hx fun _ => doExpress_organ b placeNext
  case level t g b => exact answers hx fun _ => doLevel_organ b
  case yield t g b => exact answers hx fun _ => claim_organ .link
  case resume t g b => exact answers hx fun _ => sourceAbsent_organ .link
  case faultClear t g b => exact answers hx fun _ => doFaultClear_organ b
  case tempReading t r =>
    refine keeps hx fun u _ hu => afterLeads_organ _ ?_
    exact organSound_about ((takeReading_touches r _).after (ps := [.clock]) (.of_merge rfl) (rs := [.clock, .history, .acoustic,
      .outgoing, .link])) (by decide) hu
  case envelopeBlock t m first samples => exact keeps hx fun _ _ => takeBlock_organ m first samples
  case onsetTaken t => exact keeps hx fun _ _ => onsetAtOnce_organ
  case cueExpiry t => exact calm hx fun u => (missCue_touches _ u).calm (missCue_tame _ u)
  case matchedRecordRemoval t => exact calm hx fun u => (removeMatched_touches u).calm (removeMatched_tame u)
  case pauseStart t => exact keeps hx fun u _ hu => settle_organ u (actPauseStart_organ hu)
  case pauseEnd t => exact keeps hx fun u _ hu => settle_organ u (actPauseEnd_organ hu)
  case segmentStart t =>
    exact keeps hx fun u due hu => settle_organ u (startSegment_organ hu (segmentStartDue_ne_idle due))
  case segmentEnd t => exact keeps hx fun u due hu => settle_organ u (endSegment_organ hu (segmentEndDue_ne_idle due))
  case hymnClose t => exact keeps hx fun _ closing hu => closeHymn_organ hu closing
  case idleClockTick t => exact calm hx idleTick_calm
  case rampDelayEnd t d => exact calm hx (rampAct_calm d)
  case rampStep t d => exact calm hx (rampAct_calm d)
  case rampHoldEnd t d => exact calm hx (rampAct_calm d)
  case expansion t => exact keeps hx fun _ _ => expandAtOnce_organ
  case entryFallsDue t => exact keeps hx fun _ _ => headAtOnce_organ
  case stopChangeEnd t d => exact keeps hx fun _ _ => endStopChange_organ d
  case coilScan t r => exact keeps hx fun _ _ => scanCoils_organ r
  case quietCheckDeadline t => exact keeps hx fun _ _ hu => onRun_organ hu fun _ => failNoisy_organ hu
  case pipeHoldEnd t => exact keeps hx fun _ _ hu => onRun_organ hu fun _ hr => enterPhase_organ _ hu hr nofun
  case listenDeadline t => exact keeps hx fun _ _ hu => onRun_organ hu fun _ => failNoSound_organ hu
  case releaseEnd t => exact keeps hx fun _ _ hu => onRun_organ hu fun _ => endRelease_organ hu
  case spacingEnd t => exact keeps hx fun _ _ hu => onRun_organ hu fun _ hr => enterPhase_organ _ hu hr nofun
  case ctTouchHeld t =>
    exact keeps hx fun _ _ hu => claim_organ .pin (organSound_about (ps := [.yielding]) (.of_merge rfl) (by decide) hu)
  case ctReleaseDelayEnd t =>
    exact keeps hx fun _ _ hu => sourceAbsent_organ .pin (organSound_about (ps := [.yielding]) (.of_merge rfl) (by decide) hu)
  case rejoinTime t => exact keeps hx fun _ due hu => rejoined_organ hu due
  all_goals simp [partsOf, requestParts] at hi

/-- Settles O60: an opening is driven only within the wind, a hymn ends with no key held, a run holds its key only in IDLE, and
a yield hands everything over at once. -/
theorem stepKeepsOrgan : Obligations.StepKeepsOrgan :=
  fun _ _ hs h => organSound_about.step_keeps exec_organ hs h

/-- Settles O55: each unit's power-on values meet its invariant. -/
theorem resetSound : Obligations.ResetSound :=
  ⟨reset_bounded, storeSound_of_powerOn rfl, planSound_of_powerOn rfl, followSound_of_powerOn rfl rfl, reset_organ⟩

end Sys2Proof.Machine

/-! PROOFS. The step, the operations that many commands share, the resets and the link's FIFOs and receiver (chapter 12). -/

namespace Sys2Proof.Machine

-- The proofs are elaborated one after another, which keeps the whole text within its memory.
set_option Elab.async false

/-! ### The step -/

/-- Settles O1: the front of the queue of commands decides the step. -/
theorem stepRunsFront : Obligations.StepRunsFront := fun _ _ _ => rfl

/-- Settles O2: one equation of the idle step for each length of the list of due events. -/
theorem stepOnEmptyQueue : Obligations.StepOnEmptyQueue := by
  intro s empty
  have own : step s = idle s := by rw [step, stepOf, empty]
  refine ⟨fun held => ?_, fun runs none => ?_, fun c runs one => ?_⟩
  · rw [own, idle, if_pos held]
  · rw [own, idle, if_neg (by simp [runs]), none]
    rfl
  · rw [own, idle, if_neg (by simp [runs]), one]
    rfl

/-! ### Notices and waits -/

theorem notice_of_room {s : State} (n : Notice) (h : noticeCount s.link < 16) : notice n s = noticed n s := by
  rw [notice, if_pos h]
  rfl

theorem notice_of_full {s : State} (n : Notice) (h : 16 ≤ noticeCount s.link) :
    notice n s = { s with link := { s.link with lost := true } } := by
  rw [notice, if_neg (Nat.not_lt.2 h)]

/-- What a command does not have to act on: no entry, and come already when the command began (R206). -/
theorem stands_iff {b : State} {w : Wait} : stands b w = true ↔ w ≠ .entry ∧ ∃ vs ∈ comeWaits b, w ∈ vs := by
  simp [stands]

theorem mem_dueWaits_iff {b s : State} {w : Wait} : w ∈ dueWaits b s ↔ ∃ before after, (before ++ w :: after) ∈ comeWaits s ∧
    (w ≠ .entry → ∀ vs ∈ comeWaits b, w ∉ vs) ∧ ∀ v ∈ before, v ≠ .entry ∧ ∃ vs ∈ comeWaits b, v ∈ vs := by
  have moved : (!stands b w) = true ↔ (w ≠ .entry → ∀ vs ∈ comeWaits b, w ∉ vs) := by
    rw [Bool.not_eq_true', ← Bool.not_eq_true, stands_iff]
    simp only [not_and, not_exists]
  simp only [dueWaits, List.mem_filterMap, List.find?_eq_some_iff_append, moved, Bool.not_not, stands_iff]
  constructor
  · rintro ⟨ws, mem, new, before, after, rfl, stood⟩
    exact ⟨before, after, mem, new, stood⟩
  · rintro ⟨before, after, mem, new, stood⟩
    exact ⟨_, mem, new, before, after, rfl, stood⟩

/-- The states that `settleFor` passes through. -/
def settleChain (before : State) : Nat → State → List State
  | 0, s => [s]
  | n + 1, s => if dueWaits before s = [] then [s] else s :: settleChain before n (actOnOne (dueWaits before s) s)

theorem settleChain_head (before : State) (n : Nat) (s : State) : (settleChain before n s).head? = some s := by
  cases n with
  | zero => rfl
  | succ n =>
    unfold settleChain
    split <;> rfl

theorem settleChain_ne_nil (before : State) (n : Nat) (s : State) : settleChain before n s ≠ [] := fun h => by
  have := settleChain_head before n s
  rw [h] at this
  cases this

theorem settleChain_last (before : State) (n : Nat) (s : State) :
    (settleChain before n s).getLast? = some (settleFor before n s) := by
  induction n generalizing s with
  | zero => rfl
  | succ n ih =>
    unfold settleChain settleFor
    split
    · rfl
    · rw [List.getLast?_cons, ih]
      rfl

theorem settleChain_length (before : State) (n : Nat) (s : State) : (settleChain before n s).length ≤ n + 1 := by
  induction n generalizing s with
  | zero => exact Nat.le_refl _
  | succ n ih =>
    unfold settleChain
    split
    · simp
    · simpa using ih _

/-- A chain that stops short has nothing left to do. -/
theorem settleChain_rests (before : State) (n : Nat) (s : State) (h : (settleChain before n s).length < n + 1) :
    dueWaits before (settleFor before n s) = [] := by
  induction n generalizing s with
  | zero => simp [settleChain] at h
  | succ n ih =>
    unfold settleChain at h
    unfold settleFor
    split at h
    · next rest => rwa [if_pos rest]
    · next rest =>
      rw [if_neg rest]
      exact ih _ (by simpa using h)

/-- The wait that is acted on is one of those due; picking among several counts a choice (log 8). -/
theorem actOnOne_eq {ws : List Wait} {s : State} (h : ws ≠ []) :
    ∃ w ∈ ws, actOnOne ws s = actOn w (if ws.length = 1 then s else { s with choices := s.choices + 1 }) := by
  match ws with
  | [] => exact absurd rfl h
  | [w] => exact ⟨w, by simp, rfl⟩
  | w :: w' :: rest => exact ⟨_, getD_mem (l := w :: w' :: rest) (d := w) (by simp), by rw [if_neg (by simp)]; rfl⟩

theorem settleChain_step (before : State) (n : Nat) (s : State) (i : Nat) (x y : State)
    (hx : (settleChain before n s)[i]? = some x) (hy : (settleChain before n s)[i + 1]? = some y) :
    ∃ w ∈ dueWaits before x, y = actOn w (if (dueWaits before x).length = 1 then x else { x with choices := x.choices + 1 }) := by
  induction n generalizing s i with
  | zero => simp [settleChain] at hy
  | succ n ih =>
    unfold settleChain at hx hy
    split at hx
    · next rest => simp [rest] at hy
    · next due =>
      rw [if_neg due, List.getElem?_cons_succ] at hy
      cases i with
      | zero =>
        rw [List.getElem?_cons_zero, Option.some.injEq] at hx
        rw [← List.head?_eq_getElem?, settleChain_head, Option.some.injEq] at hy
        subst hx hy
        exact actOnOne_eq due
      | succ i =>
        rw [List.getElem?_cons_succ] at hx
        exact ih _ i hx hy

/-- Settles O3: the waits due are read off the lists of those that have come, and settling runs through a chain of states. -/
theorem noticesAndWaits : Obligations.NoticesAndWaits := by
  refine ⟨fun n s => ⟨notice_of_room n, notice_of_full n⟩, fun b x w => mem_dueWaits_iff, fun b s => ?_⟩
  exact ⟨settleChain b settleFuel s, settleChain_head b _ s, settleChain_last b _ s, settleChain_length b _ s,
    settleChain_rests b _ s, settleChain_step b _ s⟩

/-! ### Resets -/

/-- Settles O7: the state that the release of RST makes, read off its definition. -/
theorem resetReleaseStarts : Obligations.ResetReleaseStarts := by
  intro r1 r0 s held
  have rate : (BitVec.ofNat 2 ((if r1 then 2 else 0) + (if r0 then 1 else 0))).toNat =
      (if r1 then 2 else 0) + (if r0 then 1 else 0) := by
    cases r1 <;> cases r0 <;> rfl
  have runs : exec (.resetRelease r1 r0) s = .next (release r1 r0 s) := by
    show Host.Outcome.next (if s.rstHeld then release r1 r0 s else s) = _
    rw [if_pos held]
  refine ⟨release r1 r0 s, runs, rfl, rfl, rate, rfl, rfl, ?_⟩
  rw [← held]
  rfl

theorem div_reset (d : DivNo) : div .reset d = .powerOn := by simp [div, State.reset, Drivers.powerOn]

theorem mic_reset (m : MicNo) : mic .reset m = .powerOn := by simp [mic, State.reset, FrontEnd.powerOn]

theorem voicing_reset (m : Fin 16) (v : Voice) :
    State.reset.expander.voicing[m].get v = ⟨if v = .D then none else some ⟨0, 0⟩, none⟩ := by
  simp only [State.reset, Expander.powerOn, Fin.getElem_fin, Vector.getElem_replicate]
  cases v <;> rfl

theorem curves_reset (c : Fin 5) (i : Fin 9) : State.reset.expression.curves[c][i] = min (16 * i.val) 127 := by
  have points : ∀ i : Fin 9, curvePowerOn[i] = min (16 * i.val) 127 := by decide
  simp only [State.reset, Expression.powerOn, Fin.getElem_fin, Vector.getElem_replicate]
  exact points i

/-- Settles O6: each block's power-on values, those of divisions, keys, microphones and modes read at any index. -/
theorem resetAssertPowersOn : Obligations.ResetAssertPowersOn := by
  intro s
  have slots (i : Fin 16) : slot .reset i = .empty := by simp [slot, State.reset, Store.powerOn]
  have shutters (d : DivNo) : shutter .reset d = .powerOn := by simp [shutter, State.reset, Expression.powerOn]
  have registrations (g : Fin 8) (d : DivNo) : State.reset.drivers.registrations[g][d] = 0 := by
    simp [State.reset, Drivers.powerOn]
  have mics (m : MicNo) : (mic .reset m).settings = ⟨false, 0, 8, 256, 64, 1500, 6, .gate, 400⟩ ∧ (mic .reset m).envelope = none ∧
      (mic .reset m).floor = none ∧ (mic .reset m).fired = false ∧ (mic .reset m).lastFiring = none ∧
      (mic .reset m).gates = [] := by
    rw [mic_reset]
    decide
  have divisions (d : DivNo) : (div .reset d).present = false ∧ (div .reset d).kind = .manual ∧ (div .reset d).compass = 61 ∧
      (div .reset d).base = 36 ∧ (div .reset d).enclosed = false ∧ (div .reset d).choirDistance = 0 ∧
      (∀ m : Fin 4, (div .reset d).micDistance[m] = 0) ∧ (div .reset d).speech = 0 ∧ (div .reset d).release = 0 ∧
      (div .reset d).stopAction = 1000 ∧ (div .reset d).capacity = 4095 ∧ (div .reset d).reserve = 0 ∧
      (div .reset d).weights = [] ∧ (div .reset d).drawn = 0 ∧ (div .reset d).stopState = .settled ∧
      ∀ k, key .reset d k = ⟨0, .normal, 0, 0⟩ := by
    simp only [key, div_reset]
    exact ⟨rfl, rfl, rfl, rfl, rfl, rfl, fun m => by simp [Division.powerOn], rfl, rfl, rfl, rfl, rfl, rfl, rfl, rfl,
      fun k => by simp [Division.powerOn, KeyRecord.powerOn]⟩
  exact ⟨_, rfl, rfl, rfl, rfl, rfl, rfl, slots, rfl, rfl, rfl, rfl, rfl, rfl, rfl, rfl, rfl, rfl, rfl, rfl, rfl, rfl, rfl, rfl,
    rfl, rfl, rfl, rfl, rfl, rfl, mics, voicing_reset, rfl, fun v => by cases v <;> rfl, rfl, rfl, rfl, divisions, registrations,
    rfl, shutters, curves_reset, rfl, rfl, rfl, rfl, rfl, rfl, rfl, rfl, rfl⟩

/-! ### The link's FIFOs -/

/-- Settles O9: each event of the FIFOs acts, or finds no room and does not. -/
theorem linkFifosMove : Obligations.LinkFifosMove := by
  rintro t b s runs a rfl
  have received := event_acts (t := t) (p := fun _ => true) (receive b) runs rfl
  refine ⟨fun room => received.trans ?_, fun full => received.trans ?_, fun m rest out room => ?_, fun m rest out full => ?_,
    fun b rest tx => ?_⟩
  · rw [receive, if_pos room]
  · rw [receive, if_neg (Nat.not_lt.2 full)]
    rfl
  · have found : sendable (arrive t s) = some m := by
      rw [sendable, arrive_link, out]
      exact if_pos room
    refine (event_acts (t := t) (p := fun s => (sendable s).isSome) sendMessage runs (by rw [found]; rfl)).trans ?_
    simp only [sendMessage, found, arrive_link, out, List.drop_one, List.tail_cons]
  · have stays : sendable (arrive t s) = none := by
      rw [sendable, arrive_link, out]
      exact if_neg (Nat.not_le.2 full)
    exact event_idle (t := t) (p := fun s => (sendable s).isSome) sendMessage runs (by rw [stays]; rfl)
  · refine (event_acts (t := t) (p := fun s => s.txen) byteSent runs (by simp [State.txen, tx])).trans ?_
    simp only [byteSent, arrive_link, tx, List.drop_one, List.tail_cons]

/-! ### The receiver -/

theorem receiverStep_moves {b : Byte} {u : Time} {r' : Receiver} {long : Bool} {s : State}
    (h : receiverMoves s.link.receiver b u r' long) : receiverStep b u s = { s with
      link := { s.link with receiver := r' }
      counters := { s.counters with length := if long then bump s.counters.length else s.counters.length } } := by
  unfold receiverStep
  cases hr : s.link.receiver with
  | hunt =>
    rw [hr] at h
    obtain ⟨rfl, rfl⟩ := h
    dsimp only
    split
    · rfl
    · rw [← hr]
      rfl
  | awaitLen v =>
    rw [hr] at h
    dsimp only
    by_cases long? : b.toNat ≤ 240
    · obtain ⟨rfl, rfl⟩ := h.1 long?
      rw [if_neg (Nat.not_lt.2 long?)]
      rfl
    · obtain ⟨rfl, rfl⟩ := h.2 (Nat.lt_of_not_le long?)
      rw [if_pos (Nat.lt_of_not_le long?)]
      rfl
  | checkLow v k g got high =>
    rw [hr] at h
    exact absurd h id
  | awaitKind v n =>
    rw [hr] at h
    obtain ⟨rfl, rfl⟩ := h
    rfl
  | awaitTag v n k =>
    rw [hr] at h
    obtain ⟨rfl, rfl⟩ := h
    rfl
  | body v n k g got =>
    rw [hr] at h
    obtain ⟨rfl, rfl⟩ := h
    rfl
  | checkHigh v k g got =>
    rw [hr] at h
    obtain ⟨rfl, rfl⟩ := h
    rfl

/-- The receiver takes the oldest byte, with a gap before it or without (R204). -/
theorem exec_receiverByte {s : State} {t u : Time} {b : Byte} {rest : List (Byte × Time)} (runs : Runs s)
    (rx : s.link.rx = (b, u) :: rest) (waiting : s.link.waiting = none) : exec (.receiverByte t) s =
      .next (receiverStep b u (if gapAt (arrive t s) u
        then discardStalled { arrive t s with link := { (arrive t s).link with rx := rest } }
        else { arrive t s with link := { (arrive t s).link with rx := rest } })) := by
  refine (event_acts (t := t) (p := receiverReady) takeByte runs (by simp [receiverReady, rx, waiting])).trans ?_
  unfold takeByte
  rw [arrive_link, rx]

/-- Settles O8: the receiver's table, with the byte before which a gap shows taken from HUNT. -/
theorem receiverTakesBytes : Obligations.ReceiverTakesBytes := by
  rintro t s runs a rfl
  refine ⟨fun b u rest rx waiting => ?_, fun u rx last gap => ?_⟩
  · refine ⟨fun gap => ?_, fun gap r' long moves => ?_, fun gap v k g got high state => ?_⟩
    · rw [exec_receiverByte runs rx waiting, if_pos gap]
      exact congrArg _ (receiverStep_moves (s := discardStalled _) (long := false) ⟨rfl, rfl⟩)
    · rw [exec_receiverByte runs rx waiting, if_neg (by rw [gap]; exact Bool.false_ne_true)]
      exact congrArg _ (receiverStep_moves (s := { arrive t s with link := { (arrive t s).link with rx := rest } }) moves)
    · rw [exec_receiverByte runs rx waiting, if_neg (by rw [gap]; exact Bool.false_ne_true)]
      unfold receiverStep
      dsimp only
      rw [state]
      dsimp only [checkFrame]
      split <;> rfl
  · refine (event_acts (t := t) (p := frameGapDue) discardStalled runs ?_).trans rfl
    simpa [frameGapDue, gapAt, rx, last, Config.frameGapTime] using gap

/-! ### Frames -/

/-- The body's bytes, from the first on, bring the receiver to the check with the whole body read. -/
theorem receive_body (n : Nat) (k g : Byte) (t : Time) (s : State) (rest got : List Byte) (ne : rest ≠ [])
    (h : got.length + rest.length = n) : rest.foldl (fun s b => receiverStep b t s) (setReceiver (.body t n k g got) s) =
      setReceiver (.checkHigh t k g (got ++ rest)) s := by
  induction rest generalizing got with
  | nil => exact absurd rfl ne
  | cons b rest ih =>
    rw [List.foldl_cons]
    have step : receiverStep b t (setReceiver (.body t n k g got) s) =
        setReceiver (if n ≤ got.length + 1 then .checkHigh t k g (got ++ [b]) else .body t n k g (got ++ [b])) s := rfl
    rw [step]
    cases rest with
    | nil =>
      rw [if_pos (by simp at h; omega)]
      rfl
    | cons c rest =>
      rw [if_neg (by simp at h; omega), ih (got ++ [b]) (by simp) (by simp at h ⊢; omega)]
      simp

/-- The bytes before the check bring the receiver to it. -/
theorem receive_head (f : Frame) (t : Time) (s : State) (hb : f.body.length ≤ 240) (hr : s.link.receiver = .hunt) :
    (0xA5 :: BitVec.ofNat 8 f.body.length :: f.kind :: f.tag :: f.body).foldl (fun s b => receiverStep b t s) s =
      setReceiver (.checkHigh t f.kind f.tag f.body) s := by
  have sync : receiverStep 0xA5 t s = setReceiver (.awaitLen t) s := by
    unfold receiverStep
    rw [hr]
    rfl
  have len : (BitVec.ofNat 8 f.body.length).toNat = f.body.length := by simp; omega
  have length : receiverStep (BitVec.ofNat 8 f.body.length) t (setReceiver (.awaitLen t) s) =
      setReceiver (.awaitKind t f.body.length) s := by
    show (if Config.maxBody < _ then _ else _) = _
    rw [len, if_neg (Nat.not_lt.2 hb)]
    rfl
  have head : receiverStep f.tag t (receiverStep f.kind t (setReceiver (.awaitKind t f.body.length) s)) =
      setReceiver (if f.body.length = 0 then .checkHigh t f.kind f.tag [] else .body t f.body.length f.kind f.tag []) s := rfl
  rw [List.foldl_cons, List.foldl_cons, List.foldl_cons, List.foldl_cons, sync, length, head]
  by_cases empty : f.body = []
  · rw [empty]
    rfl
  · rw [if_neg (by simpa using empty)]
    exact receive_body _ _ _ _ _ _ _ empty (by simp)

theorem receive_check (f : Frame) (t : Time) (s : State) (hi lo : Byte) :
    [hi, lo].foldl (fun s b => receiverStep b t s) (setReceiver (.checkHigh t f.kind f.tag f.body) s) =
      checkFrame f (hi.toNat * 256 + lo.toNat) s := rfl

theorem setReceiver_of_hunt {s : State} (h : s.link.receiver = .hunt) : setReceiver .hunt s = s := by
  rw [setReceiver, ← h]

/-- Settles O5: the header and the body bring the receiver to the check, which the frame's own bytes pass. -/
theorem frameRoundTrip : Obligations.FrameRoundTrip := by
  intro f t s hb hr
  have all : f.bytes = (0xA5 :: BitVec.ofNat 8 f.body.length :: f.kind :: f.tag :: f.body) ++ e16 f.check.toNat := rfl
  refine ⟨?_, fun hi lo damaged => ?_⟩
  · have own : (BitVec.ofNat 8 (f.check.toNat / 256)).toNat * 256 + (BitVec.ofNat 8 f.check.toNat).toNat = f.check.toNat := by
      have := f.check.isLt
      simp only [BitVec.toNat_ofNat]
      omega
    rw [all, List.foldl_append, receive_head f t s hb hr, e16, receive_check, checkFrame, if_pos own, setReceiver_of_hunt hr]
  · have head : f.bytes.take (4 + f.body.length) = 0xA5 :: BitVec.ofNat 8 f.body.length :: f.kind :: f.tag :: f.body := by
      rw [all]
      exact List.take_left' (by simp; omega)
    rw [head, List.foldl_append, receive_head f t s hb hr, receive_check, checkFrame, if_neg damaged, setReceiver_of_hunt hr]

end Sys2Proof.Machine

/-! PROOFS. The handler: what it refuses and what it holds (R206; log 6). -/

namespace Sys2Proof.Machine

-- The proofs are elaborated one after another, which keeps the whole text within its memory.
set_option Elab.async false

/-- A row that takes frames of one kind whole. -/
def TakesKind (t : Time) (kind tag : Byte) (body : List Byte) (i : Instr) : Prop := ∃ (fits : Bool) (h : Handler),
  (isRequestKind kind = true → fits = lengthAllowed kind body) ∧ ∀ s, exec i s = request t ⟨kind, tag, body⟩ true fits h s

/-- A row that takes a form of its kind, where the body is of that form. -/
theorem TakesKind.of_form {t : Time} {kind tag : Byte} {body : List Byte} {i : Instr} {mine : Bool} {h : Handler}
    (form : mine = true) (rows : ∀ s, exec i s = request t ⟨kind, tag, body⟩ mine (lengthAllowed kind body) h s) :
    TakesKind t kind tag body i := ⟨_, h, fun _ => rfl, fun s => form ▸ rows s⟩

theorem rowOf_takesKind (t : Time) (kind tag : Byte) (body : List Byte) : TakesKind t kind tag body (rowOf t kind tag body) := by
  have kindOf {n : Nat} (h : kind.toNat = n) : BitVec.ofNat 8 n = kind := by rw [← h, BitVec.ofNat_toNat, BitVec.setWidth_eq]
  unfold rowOf
  split
  case h_11 h =>
    obtain rfl := kindOf h
    split
    · exact .of_form ‹_› fun _ => rfl
    · exact .of_form (mine := !isPlanNext body) (by simp_all) fun _ => rfl
  case h_12 h =>
    obtain rfl := kindOf h
    split
    · exact .of_form ‹_› fun _ => rfl
    · split
      · exact .of_form ‹_› fun _ => rfl
      · exact .of_form (mine := !isStopLine body && !isStopVerse body) (by simp_all) fun _ => rfl
  case h_22 h =>
    obtain rfl := kindOf h
    split
    · exact .of_form ‹_› fun _ => rfl
    · exact .of_form (mine := !isExpressNext body) (by simp_all) fun _ => rfl
  case h_28 =>
    have none : isRequestKind kind = false := by
      rw [isRequestKind, Bool.and_eq_false_iff, decide_eq_false_iff_not, decide_eq_false_iff_not]
      simp only [imp_false] at *
      omega
    refine ⟨true, fun s => (s, refuse .badKind), fun h => ?_, fun s => ?_⟩
    · rw [none] at h
      cases h
    · show request t ⟨kind, tag, body⟩ (!isRequestKind kind) true _ s = _
      rw [none]
      rfl
  all_goals
    rename_i h
    obtain rfl := kindOf h
    exact .of_form rfl fun _ => rfl

section
variable {t : Time} {kind tag : Byte} {body : List Byte} {fits : Bool} {h : Handler} {s : State}

/-- A part that runs deals with a frame whose body fits as `takeFrame` says. -/
theorem request_runs (runs : Runs s) (hb : body.length ≤ 240) :
    request t ⟨kind, tag, body⟩ true fits h s = .next (takeFrame ⟨kind, tag, body⟩ fits h (arrive t s)) := by
  have body' : bodyFits body = true := decide_eq_true hb
  rw [request, running_runs _ runs]
  simp only [body', Bool.and_self, if_true]

theorem takeFrame_held (busy : handlerFree s.link = false) (waiting : s.link.waiting = none) (f : Frame) :
    takeFrame f fits h s = { s with link := { s.link with waiting := some f } } := by
  rw [takeFrame, waiting]
  simp only [busy, Bool.false_eq_true, if_false]

theorem takeFrame_busy {f : Frame} (busy : handlerFree s.link = false) (waiting : s.link.waiting = some f) :
    takeFrame f fits h s = s := by
  rw [takeFrame, waiting]
  simp only [busy, Bool.false_eq_true, and_false, if_false]

/-- The frame that waits is taken as one that comes now. -/
theorem takeFrame_waiting {f : Frame} (free : handlerFree s.link = true) (waiting : s.link.waiting = some f) :
    takeFrame f fits h s = takeFrame f fits h (clearWaiting s) := by
  have free' : handlerFree (clearWaiting s).link = true := free
  have none : (clearWaiting s).link.waiting = none := rfl
  have same : handle f fits h s = handle f fits h (clearWaiting s) := rfl
  rw [takeFrame, waiting, takeFrame, none]
  simp only [free, free', and_self, if_true]
  exact same

end

theorem arrive_clearWaiting (t : Time) (s : State) : arrive t (clearWaiting s) = clearWaiting (arrive t s) := by
  unfold arrive clearWaiting
  dsimp only
  split <;> rfl

/-- Settles O10: every row of the table is a request of its kind, so one account of the handler serves them all. -/
theorem handlerRefusesAndHolds : Obligations.HandlerRefusesAndHolds := by
  rintro t kind tag body s hb a rfl
  obtain ⟨fits, h, allowed, rows⟩ := rowOf_takesKind t kind tag body
  have link : (arrive t s).link = s.link := arrive_link t s
  refine ⟨fun hs none => ?_, fun hs some length => ?_, fun runs busy none => ?_, fun runs busy some => ?_, fun runs free some => ?_⟩
  · exact request_taken _ hs (decide_eq_true hb) (by rw [none]; rfl) rfl
  · rw [rows]
    exact request_badLength h hs (decide_eq_true hb) rfl ((allowed some).trans length)
  · rw [rows, request_runs runs hb, takeFrame_held (link ▸ busy) (link ▸ none)]
  · rw [rows, request_runs runs hb, takeFrame_busy (link ▸ busy) (link ▸ some)]
  · rw [rows, rows, request_runs runs hb, takeFrame_waiting (link ▸ free) (link ▸ some), ← arrive_clearWaiting]
    exact (request_runs (s := clearWaiting s) runs hb).symm

end Sys2Proof.Machine

/-! PROOFS. QUIET_RESET, and the requests that report: STATUS, COUNTERS, TABLE_READ and TUNE_READ. -/

namespace Sys2Proof.Machine

-- The proofs are elaborated one after another, which keeps the whole text within its memory.
set_option Elab.async false

/-- Counting the ramps changes the clock as shown and the shutters, and no more (R170). -/
theorem syncRamps_eq (s : State) : ∃ n x, syncRamps s = { s with
    plan := { s.plan with clockShown := n }, expression := { s.expression with shutters := x } } := by
  unfold syncRamps readClock
  split <;> exact ⟨_, _, rfl⟩

/-! ### QUIET_RESET -/

theorem quieted_slot (s : State) (i : Fin 16) : slot (quieted s) i = (slot s i).quiet := by
  have same : (quieted s).store = (quietStore s).store := rfl
  rw [slot, same, quietStore]
  simp only [Fin.getElem_fin, mapIdx_getElem, slot]

theorem quieted_mic (s : State) (m : MicNo) : mic (quieted s) m = (mic s m).afresh s.now := by
  have front : (quieted s).front.mics = mapIdx (fun _ m => m.afresh s.now) s.front.mics := by
    unfold quieted quietFront mapDivisions quietFollower followerOff enterMode quietStore idleRamps mapShutters
    rfl
  simp only [mic, front, Fin.getElem_fin, mapIdx_getElem]

theorem quieted_shutter (s : State) (d : DivNo) : shutter (quieted s) d = idleShutter (shutter s d) := by
  have same : (quieted s).expression = (idleRamps s).expression := rfl
  rw [shutter, same, ← shutter, idleRamps, shutter_mapShutters]

theorem quieted_key (s : State) (d : DivNo) (k : KeyNo) : key (quieted s) d k =
    ⟨0, if (key s d k).fault = .clearedPending then .normal else (key s d k).fault, 0, 0⟩ := by
  rw [key, quieted_div, quietDivision]
  simp only [Fin.getElem_fin, mapIdx_getElem, KeyRecord.released, key, beq_iff_eq]
  rfl

/-- What a quiet reset leaves of each unit, but for the slots, microphones, divisions and shutters. -/
theorem quieted_frame (s : State) : ∃ store mics divisions shutters, quieted s = { s with
    store := store, plan := .powerOn
    map := { s.map with current := none, anchor := none, pauses := [] }
    follower := { mode := .off, credit := s.follower.settings.allowance, rejoinRun := 0, lastMatch := none, owed := false
                  lastPosted := none, cues := [], settings := s.follower.settings }
    front := { s.front with mics := mics, onsets := [] }
    expander := { Expander.powerOn with voicing := s.expander.voicing }
    queue := [], drivers := { s.drivers with divisions := divisions }
    expression := { s.expression with shutters := shutters }
    levelling := { s.levelling with run := none }
    yielding := { YieldUnit.powerOn with filter := if s.ct then .touching s.now else .quiet }
    counters := s.counters.playCleared } := by
  unfold quieted quietFront quietFollower followerOff enterMode quietStore idleRamps mapShutters mapDivisions quietExpander
  exact ⟨_, _, _, _, rfl⟩

/-- Settles O11: after the ramps are counted every block takes its own quiet reset; what they leave is read off. -/
theorem quietResetKeeps : Obligations.QuietResetKeeps := by
  rintro t tag s hs a rfl
  refine ⟨answer 0x03 tag .ok [] (quieted (syncRamps (arrive t s))),
    request_taken (f := ⟨0x03, tag, []⟩) doQuietReset hs rfl rfl rfl, ?_⟩
  have held : (arrive t s).rstHeld = false := (arrive_rstHeld t s).trans hs.1
  generalize arrive t s = a at held ⊢
  obtain ⟨n, x, counted⟩ := syncRamps_eq a
  have slots (i : Fin 16) : slot (quieted (syncRamps a)) i = match slot a i with
      | .empty => .empty
      | .loading _ _ => .empty
      | .ready x => .ready x := by
    rw [quieted_slot, slot, syncRamps_store, ← slot]
    cases slot a i <;> rfl
  have mics (m : MicNo) : mic (quieted (syncRamps a)) m = (mic a m).afresh a.now := by
    rw [quieted_mic, mic, syncRamps_front, ← mic, syncRamps_now]
  have divisions (d : DivNo) : div (quieted (syncRamps a)) d = { div a d with
      drawn := 0, stopState := .settled, keys := (div (quieted (syncRamps a)) d).keys } := by
    rw [quieted_div, div, syncRamps_drivers, ← div]
    rfl
  have keys (d : DivNo) (k : KeyNo) : key (quieted (syncRamps a)) d k =
      ⟨0, if (key a d k).fault = .clearedPending then .normal else (key a d k).fault, 0, 0⟩ := by
    rw [quieted_key, key, div, syncRamps_drivers, ← div, ← key]
  have shutters (d : DivNo) := quieted_shutter (syncRamps a) d
  obtain ⟨store, mic', divisions', shutters', frame⟩ := quieted_frame (syncRamps a)
  generalize quieted (syncRamps a) = q at slots mics divisions keys shutters frame ⊢
  rw [counted] at frame
  have is {α : Type} (f : State → α) := congrArg f frame
  exact ⟨is (·.now), (is (·.rstHeld)).trans held, is (·.ct), is fun u => (answer 0x03 tag .ok [] u).link, slots,
    is (·.plan.staged), is (·.plan.active), is (·.plan.queued), is (·.plan.order), is (·.plan.play), is (·.plan.stopped),
    is (·.map), is (·.follower), is (·.acoustic), is (·.front.fallback), is (·.front.onsets),
    fun m => ⟨congrArg (·.settings) (mics m), congrArg (·.envelope) (mics m), congrArg (·.floor) (mics m), congrArg (·.fired) (mics m),
      congrArg (·.lastFiring) (mics m), congrArg (·.gates) (mics m)⟩,
    is (·.expander), is (·.queue), is (·.drivers.registrations), is (·.drivers.debounce), divisions, keys, is (·.expression.curves),
    fun d => ⟨congrArg (·.running) (shutters d), congrArg (·.queued) (shutters d), congrArg (·.position) (shutters d)⟩,
    is (·.levelling), is (·.yielding), is (·.counters), is (·.marks), is (·.choices), is (·.pending)⟩

end Sys2Proof.Machine

/-! PROOFS. STATUS, COUNTERS and TABLE_READ (R210 to R212; 12, 12.6). -/

namespace Sys2Proof.Machine

-- The proofs are elaborated one after another, which keeps the whole text within its memory.
set_option Elab.async false

/-! ### The time of arrival -/

@[simp] theorem slot_arrive (t : Time) (s : State) (i : Fin 16) : slot (arrive t s) i = slot s i := by simp [slot]
@[simp] theorem mic_arrive (t : Time) (s : State) (m : MicNo) : mic (arrive t s) m = mic s m := by simp [mic]
@[simp] theorem div_arrive (t : Time) (s : State) (d : DivNo) : div (arrive t s) d = div s d := by simp [div]
@[simp] theorem shutter_arrive (t : Time) (s : State) (d : DivNo) : shutter (arrive t s) d = shutter s d := by simp [shutter]

/-! ### STATUS and COUNTERS -/

theorem statusFields_eq (s : State) : statusFields s = e8 s.plan.play.code ++
    (match currentSegment s with
      | some g => eOpt8 s.map.current ++ e8 g.kind.code ++ e8 g.verse
      | none => [0xFF#8, 0xFF#8, 0#8]) ++
    e8 ((currentLine s).elim 0 (·.number)) ++ e16 (reportedPosition s) ++ e16 s.map.period ++
    e16 (roundNat 6000000 s.map.period) ++ e8 s.follower.mode.code ++ e8 s.follower.credit ++
    e8 s.yielding.state.code ++ e8 (s.levelling.run.elim 0 (·.phase.code)) ++ e16 s.queue.length ++
    e16i s.acoustic.inUse ++ e8 (if s.link.lost then 1 else 0) ++ e16 s.store.free ++
    e8 ((if s.plan.staged.isSome then 1 else 0) + (if s.plan.queued then 2 else 0)) ++ e32 s.now := by
  unfold statusFields
  cases currentSegment s with
  | none => rfl
  | some g =>
    simp only [Option.isSome_some, if_true, Option.map_some, Option.elim_some, eOpt8, List.append_assoc, tempoReport, eFlag,
      planFlags]

/-! ### The request -/

theorem byte_of_le {n : Nat} (h : n ≤ 255) : (BitVec.ofNat 8 n).toNat = n := by
  rw [BitVec.toNat_ofNat]
  omega

/-- The body that spells a table, two indices and a first item is read back (12, 12.6). -/
theorem tableBody {table i j first : Nat} (ht : table ≤ 255) (hi : i ≤ 255) (hj : j ≤ 65535) (hf : first ≤ 255) :
    byteAt (e8 table ++ e8 i ++ e16 j ++ e8 first) 0 = table ∧ byteAt (e8 table ++ e8 i ++ e16 j ++ e8 first) 1 = i ∧
      wordAt (e8 table ++ e8 i ++ e16 j ++ e8 first) 2 = j ∧ byteAt (e8 table ++ e8 i ++ e16 j ++ e8 first) 4 = first := by
  refine ⟨byte_of_le ht, byte_of_le hi, ?_, byte_of_le hf⟩
  show (BitVec.ofNat 8 (j / 256)).toNat * 256 + (BitVec.ofNat 8 j).toNat = j
  simp only [BitVec.toNat_ofNat]
  omega

section
variable {t : Time} {tag : Byte} {s : State}

theorem exec_tableRead {b : List Byte} {u : State} {x : Answer} (hs : Listens s) (hb : b.length = 5)
    (hx : doTableRead b (arrive t s) = (u, x)) :
    exec (.tableRead t tag b) s = .next (answer 0x1B tag x.status x.fields u) :=
  request_of_handler (f := ⟨0x1B, tag, b⟩) hs (by simp [bodyFits, hb, Config.maxBody]) (by simp [lengthAllowed, hb]) hx

theorem doTableRead_eq {b : List Byte} {s : State} {x : Option (List Byte)}
    (h : tableFields (byteAt b 0) (byteAt b 1) (wordAt b 2) (byteAt b 4) s = x) :
    doTableRead b s = (s, x.elim (refuse .badField) ok) := by
  rw [doTableRead, h]
  cases x <;> rfl

theorem tableGives_of_fields {table i j first : Nat} {fields : List Byte} (hs : Listens s) (ht : table ≤ 255) (hi : i ≤ 255)
    (hj : j ≤ 65535) (hf : first ≤ 255) (h : tableFields table i j first (arrive t s) = some fields) :
    tableGives t tag s table i j first fields := by
  obtain ⟨bt, bi, bj, bf⟩ := tableBody ht hi hj hf
  exact exec_tableRead hs rfl (doTableRead_eq (x := some fields) (by rw [bt, bi, bj, bf, h]))

end

/-- TABLE_READ answers for the tables and indices in range, and for no other (R212). -/
theorem tableFields_isSome (table i j first : Nat) (s : State) :
    (tableFields table i j first s).isSome = tableInRange table i j := by
  have guarded {p : Prop} [Decidable p] (x : List Byte) : (if p then some x else none).isSome = decide p := by
    by_cases h : p <;> simp [h]
  unfold tableFields tableInRange
  split
  case h_19 =>
    have beyond : 17 < table := by
      simp only [imp_false] at *
      omega
    split <;> simp_all
  all_goals simp [guarded]

/-! ### Entries -/

theorem voices_flatMap {α : Type} (f : Voice → List α) : ([Voice.S, .A, .T, .B, .D].flatMap f) = f .S ++ f .A ++ f .T ++ f .B ++ f .D := by
  simp [List.flatMap_cons]

/-- An event's record, its pitches sent one by one (12, 12.6). -/
theorem eventRecord_eq (e : Event) {pitch : Voice → List Byte} (h : ∀ v, pitch v = eOpt8 (e.pitch.get v)) :
    eOptRecord 12 (some (eventFields e)) = e8 1 ++ e16 e.pos ++ e16 e.len ++ ([Voice.S, .A, .T, .B, .D].flatMap pitch) ++
      e8 e.voiceId.val ++ e8 ((if e.cue then 1 else 0) + (if e.fermata then 2 else 0) + (if e.breath then 4 else 0) +
        (if e.lineEnd then 8 else 0) + (if e.amen then 16 else 0)) ++
      e8 ((if e.tie.s then 1 else 0) + (if e.tie.a then 2 else 0) + (if e.tie.t then 4 else 0) + (if e.tie.b then 8 else 0) +
        (if e.tie.d then 16 else 0)) := by
  simp only [eOptRecord, voices_flatMap, h, eventFields, maskOf, PerVoice.get, List.append_assoc]

/-- The carried voices, their pitches sent one by one (R112; log 46). -/
theorem carriedFields_eq (c : PerVoice (Option Nat)) {pitch : Voice → List Byte} (h : ∀ v, pitch v = eOpt8 (c.get v)) :
    carriedFields c = e8 ((if c.s.isSome then 1 else 0) + (if c.a.isSome then 2 else 0) + (if c.t.isSome then 4 else 0) +
      (if c.b.isSome then 8 else 0) + (if c.d.isSome then 16 else 0)) ++ ([Voice.S, .A, .T, .B, .D].flatMap pitch) := by
  simp only [carriedFields, allVoices, voices_flatMap, h]
  rfl

/-- As many items of one length as fit the room are sent. -/
theorem fitItems_of_length {n : Nat} (pos : 0 < n) (room : Nat) (xs : List (List Byte)) (h : ∀ x ∈ xs, x.length = n) :
    fitItems room xs = (xs.take (room / n)).flatten := by
  induction xs generalizing room with
  | nil => simp [fitItems]
  | cons x xs ih =>
    have hx : x.length = n := h x (by simp)
    unfold fitItems
    split
    · next fits =>
      have more : room / n = (room - n) / n + 1 := by
        rw [← Nat.add_div_right _ pos, Nat.sub_add_cancel (hx ▸ fits)]
      rw [ih _ fun y hy => h y (List.mem_cons_of_mem _ hy), hx, more, List.take_succ_cons, List.flatten_cons]
    · next small =>
      rw [hx, Nat.not_le] at small
      rw [Nat.div_eq_of_lt small]
      rfl

theorem tableOnsets_eq (s : State) (first : Nat) : tableOnsets s first = e8 s.front.onsets.length ++
    ((s.front.onsets.drop first).take 34).flatMap fun o => e32 o.tObs ++ e8 o.mic.val ++ e16 o.strength := by
  rw [tableOnsets, withItems, List.length_map, fitItems_of_length (n := 7) (by decide) _ _ fun x hx => ?_]
  · rw [← List.map_drop, ← List.map_take, List.flatMap_def]
    rfl
  · obtain ⟨o, -, rfl⟩ := List.mem_map.1 (List.mem_of_mem_drop hx)
    rfl

/-- A ramp at rest stays where it is while su rise (R170). -/
theorem shutter_syncRamps_idle {s : State} {d : DivNo} (h : (shutter s d).running = .idle) :
    shutter (syncRamps s) d = { shutter s d with uncounted := 0 } := by
  have counted (u : State) (h : (shutter u d).running = .idle) : shutter (countAll u) d = { shutter u d with uncounted := 0 } := by
    rw [countAll, shutter_mapShutters, settleShutter, countRisen_idle h, absorb]
    simp only [h]
  have read : shutter (readClock s) d = shutter s d := by
    unfold readClock
    split
    · rfl
    · rw [raiseClock, shutter_mapShutters]
      show riseShutter _ (shutter s d) = _
      rw [riseShutter, h]
  rw [syncRamps, counted _ (read ▸ h), read]

theorem shutOutput_isSome (s : State) (d : DivNo) : (shutOutput s d).isSome =
    decide ((div s d).present = true ∧ (div s d).enclosed = true ∧ s.yielding.state ≠ .yielded) := by
  unfold shutOutput enclosed yielded
  cases (div s d).present <;> cases (div s d).enclosed <;> cases s.yielding.state <;> rfl

theorem tableExpression_atRest {s : State} {d : DivNo} (h : (shutter s d).running = .idle) (k : (shutter s d).queued = none) :
    tableExpression s d = e8 (shutter s d).position ++
      e8 (if (div s d).present = true ∧ (div s d).enclosed = true ∧ s.yielding.state ≠ .yielded then 1 else 0) ++
      allOnes 8 ++ e8 0 ++ allOnes 3 ++ e8 0 ++ allOnes 8 := by
  rw [tableExpression, shutter_syncRamps_idle h, shutOutput_isSome]
  simp only [h, k, eFlag, decide_eq_true_eq, runningFields, Option.map_none, eOptRecord, eAbsent, allOnes, List.append_assoc]
  rfl

theorem actionFields_releaseSide (e : Entry) : entryFields e = match e.action with
    | .keyOn d k v m nb => e8 0 ++ e8 d.val ++ e8 k.val ++ e8 v.code ++ e16 m.toNat ++ e8 e.segment ++ e16 e.pos ++ e8 0 ++
        allOnes 2 ++ (match nb with | some u => e32 u | none => allOnes 4) ++ allOnes 2 ++ e32 e.issue
    | .keyOff d k v m l => e8 1 ++ e8 d.val ++ e8 k.val ++ e8 v.code ++ e16 m.toNat ++ e8 e.segment ++ e16 e.pos ++ e8 1 ++
        (match l with | some u => e16 u.toNat | none => allOnes 2) ++ allOnes 6 ++ e32 e.issue
    | .stopSet d r => e8 2 ++ e8 d.val ++ allOnes 4 ++ e8 e.segment ++ e16 e.pos ++ e8 1 ++ allOnes 6 ++ e16 r.toNat ++
        e32 e.issue := by
  unfold entryFields
  cases e.action with
  | keyOn d k v m nb => cases nb <;> rfl
  | keyOff d k v m l => cases l <;> rfl
  | stopSet d r => rfl

theorem entryFields_keyOn {e : Entry} {d k v m nb} (h : e.action = .keyOn d k v m nb) : entryFields e =
    e8 0 ++ e8 d.val ++ e8 k.val ++ e8 v.code ++ e16 m.toNat ++ e8 e.segment ++ e16 e.pos ++ e8 0 ++
      allOnes 2 ++ eOpt32 nb ++ allOnes 2 ++ e32 e.issue := by
  rw [entryFields, h]
  simp only [actionFields, actionExtras, Action.releaseSide, List.append_assoc]
  rfl

theorem entryFields_keyOff {e : Entry} {d k v m l} (h : e.action = .keyOff d k v m l) : entryFields e =
    e8 1 ++ e8 d.val ++ e8 k.val ++ e8 v.code ++ e16 m.toNat ++ e8 e.segment ++ e16 e.pos ++ e8 1 ++
      eOpt16 (l.map (·.toNat)) ++ allOnes 6 ++ e32 e.issue := by
  rw [entryFields, h]
  simp only [actionFields, actionExtras, Action.releaseSide, List.append_assoc]
  rfl

theorem entryFields_stopSet {e : Entry} {d r} (h : e.action = .stopSet d r) : entryFields e =
    e8 2 ++ e8 d.val ++ allOnes 4 ++ e8 e.segment ++ e16 e.pos ++ e8 1 ++ allOnes 6 ++ e16 r.toNat ++ e32 e.issue := by
  rw [entryFields, h]
  simp only [actionFields, actionExtras, Action.releaseSide, List.append_assoc]
  rfl

theorem tableMic_off {s : State} {m : MicNo} (off : (mic s m).settings.enable = false) (first : Nat) : tableMic s m first =
    e8 0 ++ e16 (mic s m).settings.choirDistance ++ e8 (mic s m).settings.averaging ++ e16 (mic s m).settings.rise ++
      e16 (mic s m).settings.fall ++ e16 (mic s m).settings.minimumGap ++ e8 (mic s m).settings.floorShift ++
      e8 (match (mic s m).settings.policy with | .open_ => 0 | .gate => 1) ++ e16 (mic s m).settings.gateLength ++
      e16i s.front.fallback ++ allOnes 13 ++ e8 0 := by
  rw [tableMic]
  simp only [off, Bool.false_eq_true, if_false, withItems, micSettingsFields, List.drop_nil, List.append_assoc]
  rfl

/-- The fields of the yield unit, with those of its filter, its rejoin point and the time of it (R201). -/
theorem tableYield_eq {s : State} {y : YieldUnit} (h : s.yielding = y) {filter point time : List Byte}
    (hf : filterFields y.filter = filter)
    (hp : eOptRecord 5 (y.rejoin.map fun p => e8 p.segment ++ e16 p.event ++ e16 p.pos) = point)
    (ht : eOpt32 (if y.state = .rejoining then y.rejoin.bind fun p => positionTime s p.segment p.pos false else none) = time) :
    tableYield s = e8 y.state.code ++ e8 (if y.pin then 1 else 0) ++ e8 (if y.link then 1 else 0) ++ filter ++ point ++ time ++
      e8 (if y.state = .yielded ∧ y.pin = false ∧ y.link = false then 1 else 0) := by
  have waits : awaiting s = decide (y.state = .yielded ∧ y.pin = false ∧ y.link = false) := by
    unfold awaiting anySource yielded
    rw [h]
    cases y.state <;> cases y.pin <;> cases y.link <;> rfl
  rw [← hf, ← hp, ← ht]
  simp only [tableYield, eFlag, waits, decide_eq_true_eq, rejoinTimeOf, h]

theorem tablesRead {t : Time} {tag : Byte} {s : State} (hs : Listens s) : TablesRead t tag s where
  event i n f es hn hf held := by
    have events : slotEvents (slot s i) = es := by
      rcases held with ⟨h, rfl⟩ | ⟨h, e⟩ | ⟨x, h, rfl⟩
      · rw [h]; rfl
      · rw [e]; rfl
      · rw [h]; rfl
    have read (fields : List Byte) (h : eOptRecord 12 (es[n]?.map eventFields) = fields) : tableGives t tag s 0 i.val n f fields := by
      refine tableGives_of_fields hs (by decide) (by omega) (by omega) hf ?_
      rw [← h, ← events, tableFields, if_pos ⟨Nat.le_of_lt_succ i.isLt, hn⟩, toFin_val, tableEvent, slot_arrive]
    refine ⟨fun none => read _ (by rw [none]; rfl), fun e some => read _ ?_⟩
    rw [some, Option.map_some]
    exact eventRecord_eq e fun v => by cases e.pitch.get v <;> rfl
  microphone m j f x hj hf hx off := by
    subst hx
    refine tableGives_of_fields hs (by decide) (by omega) hj hf ?_
    rw [tableFields, if_pos (Nat.le_of_lt_succ m.isLt), toFin_val, tableMic_off (by rw [mic_arrive]; exact off)]
    simp only [mic_arrive, arrive_front] <;> rfl
  onsets i j f hi hj hf := by
    refine tableGives_of_fields hs (by decide) hi hj hf ?_
    simp [tableFields, tableOnsets_eq]
  cursor i j f hi hj hf c hc := by
    subst hc
    refine tableGives_of_fields hs (by decide) hi hj hf ?_
    rw [tableFields, tableCursor, arrive_expander]
    have carried := carriedFields_eq s.expander.carried
      (pitch := fun v => match s.expander.carried.get v with | some p => e8 p | none => allOnes 1)
      fun v => by cases s.expander.carried.get v <;> rfl
    rw [carried]
    simp only [List.append_assoc]
    cases s.expander.cursor <;> rfl
  entry i n f hi hn hf := by
    have read (fields : List Byte) (h : eOptRecord 22 (s.queue[n]?.map entryFields) = fields) : tableGives t tag s 9 i n f fields := by
      refine tableGives_of_fields hs (by decide) hi (by omega) hf ?_
      rw [← h]
      simp [tableFields, tableEntry, hn]
    refine ⟨fun none => read _ (by rw [none]; rfl), fun x some => ⟨fun d k v m nb h => read _ ?_, fun d k v m l h => read _ ?_,
      fun d r h => read _ ?_⟩⟩
    · rw [some, Option.map_some, eOptRecord, entryFields_keyOn h]
      cases nb <;> rfl
    · rw [some, Option.map_some, eOptRecord, entryFields_keyOff h]
      cases l <;> rfl
    · rw [some, Option.map_some, eOptRecord, entryFields_stopSet h]
      rfl
  registration g j f hj hf := by
    refine tableGives_of_fields hs (by decide) (by omega) hj hf ?_
    rw [tableFields, if_pos (Nat.le_of_lt_succ g.isLt), toFin_val, tableRegistration, arrive_drivers]
    rfl
  debounce i j f hi hj hf := by
    refine tableGives_of_fields hs (by decide) hi hj hf ?_
    simp [tableFields, tableDebounce]
  shutterAtRest d j f hj hf idle empty := by
    refine tableGives_of_fields hs (by decide) (by omega) hj hf ?_
    rw [tableFields, if_pos (Nat.le_of_lt_succ d.isLt), toFin_val, tableExpression_atRest (by rw [shutter_arrive]; exact idle)
      (by rw [shutter_arrive]; exact empty)]
    simp only [shutter_arrive, div_arrive, arrive_yielding]
  yielding i j f hi hj hf y hy := by
    subst hy
    refine tableGives_of_fields hs (by decide) hi hj hf ?_
    refine congrArg some (tableYield_eq (arrive_yielding t s) ?_ ?_ ?_)
    · cases s.yielding.filter <;> rfl
    · cases s.yielding.rejoin <;> rfl
    · cases s.yielding.rejoin with
      | none => cases s.yielding.state <;> rfl
      | some p =>
        cases s.yielding.state with
        | rejoining =>
          rw [if_pos rfl, Option.bind_some]
          dsimp only
          cases positionTime (arrive t s) p.segment p.pos false <;> rfl
        | playingFree => rfl
        | yielded => rfl

/-- Settles O12: the reports field by field, and the tables' entries as their chapters order them. -/
theorem readRequestsReply : Obligations.ReadRequestsReply := by
  rintro t tag s hs a rfl
  refine ⟨fun table i j1 j0 first => ?_, tablesRead hs, ?_, fun c hc => ?_⟩
  · have some? := tableFields_isSome table.toNat i.toNat (j1.toNat * 256 + j0.toNat) first.toNat (arrive t s)
    cases hx : tableFields table.toNat i.toNat (j1.toNat * 256 + j0.toNat) first.toNat (arrive t s) with
    | none =>
      rw [hx] at some?
      refine ⟨fun inside => absurd (some?.trans inside) Bool.false_ne_true, fun _ => ?_⟩
      exact exec_tableRead hs rfl (doTableRead_eq (b := [table, i, j1, j0, first]) hx)
    | some fields =>
      rw [hx] at some?
      refine ⟨fun _ => ⟨fields, ?_⟩, fun outside => absurd (outside.symm.trans some?.symm) Bool.false_ne_true⟩
      exact exec_tableRead hs rfl (doTableRead_eq (b := [table, i, j1, j0, first]) hx)
  · refine (request_taken (f := ⟨0x01, tag, []⟩) doStatus hs rfl rfl rfl).trans ?_
    show Host.Outcome.next (answer 0x01 tag .ok (statusFields (arrive t s)) _) = _
    rw [statusFields_eq] <;> rfl
  · subst hc
    exact request_taken (f := ⟨0x02, tag, []⟩) doCounters hs rfl rfl rfl

end Sys2Proof.Machine

/-! PROOFS. The first failing field of a request (R207), the leads that a setting moves (R58), and the requests that write the
follower's, the microphones' and the divisions' settings. -/

namespace Sys2Proof.Machine

-- The proofs are elaborated one after another, which keeps the whole text within its memory.
set_option Elab.async false

/-! ### The first failing field -/

/-- The checks examine the ranges in order, from a place on; a range that holds of itself need not be examined (R207). -/
inductive Examines : Nat → List (Nat × Bool) → List Prop → Prop
  | nil (n : Nat) : Examines n [] []
  | field {n : Nat} {b : Bool} {p : Prop} {cs : List (Nat × Bool)} {ps : List Prop} (check : b = true ↔ p)
      (rest : Examines (n + 1) cs ps) : Examines n ((n, b) :: cs) (p :: ps)
  | idle {n : Nat} {p : Prop} {cs : List (Nat × Bool)} {ps : List Prop} (holds : p) (rest : Examines (n + 1) cs ps) :
      Examines n cs (p :: ps)

theorem Examines.accepts {n : Nat} {cs : List (Nat × Bool)} {ps : List Prop} (h : Examines n cs ps) (all : AllHold ps) :
    firstFailing cs = none := by
  induction h with
  | nil => rfl
  | field check _ ih => rw [firstFailing, if_pos (check.2 all.1), ih all.2]
  | idle _ _ ih => exact ih all.2

theorem Examines.refuses {n : Nat} {cs : List (Nat × Bool)} {ps : List Prop} (h : Examines n cs ps) {place : Nat}
    (fails : FirstFails ps place) : firstFailing cs = some (n + place) := by
  induction h generalizing place with
  | nil => exact fails.elim
  | field check _ ih =>
    cases place with
    | zero => rw [firstFailing, if_neg fun k => fails (check.1 k), Nat.add_zero]
    | succ place => rw [firstFailing, if_pos (check.2 fails.1), ih fails.2, Nat.add_right_comm, Nat.add_assoc]
  | idle holds _ ih =>
    cases place with
    | zero => exact absurd holds fails
    | succ place => rw [ih fails.2, Nat.add_right_comm, Nat.add_assoc]

theorem Examines.append {n m : Nat} {cs ds : List (Nat × Bool)} {ps qs : List Prop} (h : Examines n cs ps)
    (k : Examines m ds qs) (at_ : m = n + ps.length) : Examines n (cs ++ ds) (ps ++ qs) := by
  induction h with
  | nil => simpa [at_] using k
  | field check _ ih => exact .field check (ih (by rw [at_, List.length_cons]; omega))
  | idle holds _ ih => exact .idle holds (ih (by rw [at_, List.length_cons]; omega))

/-- A field for each of some numbers, in order. -/
theorem Examines.range {n : Nat} {f : Nat → Nat × Bool} {p : Nat → Prop} (m : Nat) (place : ∀ i, (f i).1 = n + i)
    (check : ∀ i, (f i).2 = true ↔ p i) : Examines n ((List.range m).map f) ((List.range m).map p) := by
  induction m with
  | zero => exact .nil _
  | succ m ih =>
    rw [List.range_succ, List.map_append, List.map_append]
    refine ih.append (m := n + m) ?_ (by simp)
    have one : [m].map f = [(n + m, (f m).2)] := by rw [← place m]; rfl
    rw [one]
    exact .field (check m) (.nil _)

/-- Either every range holds or one is the first to fail. -/
theorem allHold_or_firstFails (ps : List Prop) : AllHold ps ∨ ∃ place, FirstFails ps place := by
  induction ps with
  | nil => exact .inl trivial
  | cons p ps ih =>
    by_cases hp : p
    · rcases ih with all | ⟨place, fails⟩
      · exact .inl ⟨hp, all⟩
      · exact .inr ⟨place + 1, hp, fails⟩
    · exact .inr ⟨0, hp⟩

theorem inRange_zero_iff (x hi : Nat) : inRange x 0 hi = true ↔ x ≤ hi := by simp [inRange]

section
variable {cs : List (Nat × Bool)} {ps : List Prop} {accept : Handler} {s : State} (h : Examines 0 cs ps)
include h

theorem guarded_refuses {place : Nat} (fails : FirstFails ps place) :
    guarded cs accept s = (s, ⟨.badField, e8 place⟩) := by
  rw [guarded, h.refuses fails, Nat.zero_add]

theorem guarded_busy (all : AllHold ps) (closed : s.plan.play ≠ .idle ∨ runActive s = true) :
    guarded cs accept s = (s, refuse .busy) := by
  have closed' : settingsClosed s = true := by simpa [settingsClosed] using closed
  simp only [guarded, h.accepts all, closed', if_true]

theorem guarded_accepts (all : AllHold ps) (idle : s.plan.play = .idle) (free : runActive s = false) :
    guarded cs accept s = accept s := by
  have open_ : settingsClosed s = false := by simp [settingsClosed, idle, free]
  simp only [guarded, h.accepts all, open_, Bool.false_eq_true, if_false]

theorem checked_refuses {place : Nat} (fails : FirstFails ps place) :
    checked cs accept s = (s, ⟨.badField, e8 place⟩) := by
  rw [checked, h.refuses fails, Nat.zero_add]

theorem checked_accepts (all : AllHold ps) : checked cs accept s = accept s := by
  simp only [checked, h.accepts all]

end

/-! ### The leads -/

theorem leadsDiffer_iff (a u : State) : leadsDiffer a u = true ↔ leadsMoved a u := by
  simp [leadsDiffer, leadsMoved, allFin]

theorem afterLeads_moves (a u : State) : afterMove a u (afterLeads a u) := by
  unfold afterLeads
  refine ⟨fun still => ?_, fun moved => ?_⟩
  · rw [if_neg fun k => still ((leadsDiffer_iff a u).1 k)]
  · rw [if_pos ((leadsDiffer_iff a u).2 moved)]

/-! ### FOLLOW_SET -/

theorem followChecks_examine (b : List Byte) : Examines 0 (followChecks b) [3 ≤ byteAt b 0 ∧ byteAt b 0 ≤ 24, byteAt b 1 ≤ 16,
    byteAt b 2 ≤ 128, 1 ≤ byteAt b 3 ∧ byteAt b 3 ≤ 8, 1 ≤ byteAt b 4 ∧ byteAt b 4 ≤ 4, 8000 ≤ wordAt b 5 ∧ wordAt b 5 ≤ 40000,
    100 ≤ wordAt b 7 ∧ wordAt b 7 ≤ 1000, 1 ≤ byteAt b 9 ∧ byteAt b 9 ≤ 8, 5000 ≤ wordAt b 10 ∧ wordAt b 10 ≤ 50000] :=
  .field (inRange_iff _ _ _) <| .field (inRange_zero_iff _ _) <| .field (inRange_zero_iff _ _) <| .field (inRange_iff _ _ _) <|
    .field (inRange_iff _ _ _) <| .field (inRange_iff _ _ _) <| .field (inRange_iff _ _ _) <| .field (inRange_iff _ _ _) <|
    .field (inRange_iff _ _ _) <| .nil _

section
variable {s u : State} {t : Time} {tag : Byte} {b : List Byte} {x : Answer} (hs : Listens s)
include hs

theorem exec_followSet (hb : b.length = 12) (hx : doFollowSet b (arrive t s) = (u, x)) :
    exec (.followSet t tag b) s = .next (answer 0x0F tag x.status x.fields u) :=
  request_of_handler (f := ⟨0x0F, tag, b⟩) hs (by simp [bodyFits, hb, Config.maxBody]) (by simp [lengthAllowed, hb]) hx

theorem exec_micSet (hb : b.length = 17) (hx : doMicSet b (arrive t s) = (u, x)) :
    exec (.micSet t tag b) s = .next (answer 0x10 tag x.status x.fields u) :=
  request_of_handler (f := ⟨0x10, tag, b⟩) hs (by simp [bodyFits, hb, Config.maxBody]) (by simp [lengthAllowed, hb]) hx

theorem exec_divisionSet (hb : b.length = 26) (hx : doDivisionSet b (arrive t s) = (u, x)) :
    exec (.divisionSet t tag b) s = .next (answer 0x11 tag x.status x.fields u) :=
  request_of_handler (f := ⟨0x11, tag, b⟩) hs (by simp [bodyFits, hb, Config.maxBody]) (by simp [lengthAllowed, hb]) hx

theorem exec_level (hb : b.length = 7) (hx : doLevel b (arrive t s) = (u, x)) :
    exec (.level t tag b) s = .next (answer 0x17 tag x.status x.fields u) :=
  request_of_handler (f := ⟨0x17, tag, b⟩) hs (by simp [bodyFits, hb, Config.maxBody]) (by simp [lengthAllowed, hb]) hx

end

/-! ### MIC_SET -/

theorem isAveraging_iff (n : Nat) : isAveraging n = true ↔ n = 4 ∨ n = 8 ∨ n = 16 ∨ n = 32 := by
  simp [isAveraging, or_assoc]

theorem signedWordAt_eq (b : List Byte) (i : Nat) :
    signedWordAt b i = if wordAt b i < 32768 then (wordAt b i : Int) else (wordAt b i : Int) - 65536 := by
  have h1 := byteAt_lt b i
  have h2 := byteAt_lt b (i + 1)
  have lt : wordAt b i < 65536 := by unfold wordAt; omega
  rw [signedWordAt, BitVec.toInt_eq_toNat_cond, BitVec.toNat_ofNat, Nat.mod_eq_of_lt lt]
  split <;> split <;> omega

theorem micChecks_examine (b : List Byte) : Examines 0 (micChecks b) [byteAt b 0 ≤ 3, byteAt b 1 ≤ 1, wordAt b 2 ≤ 3000,
    byteAt b 4 = 4 ∨ byteAt b 4 = 8 ∨ byteAt b 4 = 16 ∨ byteAt b 4 = 32, 16 ≤ wordAt b 5 ∧ wordAt b 5 ≤ 2048,
    wordAt b 7 < wordAt b 5, 500 ≤ wordAt b 9 ∧ wordAt b 9 ≤ 5000, 2 ≤ byteAt b 11 ∧ byteAt b 11 ≤ 10,
    byteAt b 12 ≤ 1, 50 ≤ wordAt b 13 ∧ wordAt b 13 ≤ 2000, -100 ≤ signedWordAt b 15 ∧ signedWordAt b 15 ≤ 400] :=
  .field (inRange_zero_iff _ _) <| .field (inRange_zero_iff _ _) <| .field (inRange_zero_iff _ _) <| .field (isAveraging_iff _) <|
    .field (inRange_iff _ _ _) <| .field decide_eq_true_iff <| .field (inRange_iff _ _ _) <| .field (inRange_iff _ _ _) <|
    .field (inRange_zero_iff _ _) <| .field (inRange_iff _ _ _) <| .field (by simp) <| .nil _

theorem updateInUse_eq (s : State) : updateInUse s = { s with
    acoustic := { s.acoustic with inUse := inUseAfter s.acoustic.history s.front.fallback s.acoustic.inUse } } := by
  unfold updateInUse averageTemp inUseAfter
  dsimp only
  split <;> split <;> rfl

theorem withSettings_toggled {t : Time} {new : MicSettings} {x : Mic} (h : new.enable ≠ x.settings.enable) :
    x.withSettings t new = ⟨new, t, true, none, none, false, none, []⟩ := by
  unfold Mic.withSettings
  rw [if_pos (by simpa using h)]
  rfl

theorem withSettings_kept {t : Time} {new : MicSettings} {x : Mic} (h : new.enable = x.settings.enable) :
    x.withSettings t new = { x with
      settings := new
      blockFrom := if new.averaging = x.settings.averaging then x.blockFrom else t
      fresh := if new.averaging = x.settings.averaging then x.fresh else true
      gates := if x.settings.policy = .gate ∧ new.policy = .open_ then [] else x.gates } := by
  unfold Mic.withSettings
  rw [if_neg (by simpa using h)]
  by_cases ha : new.averaging = x.settings.averaging <;>
    by_cases hp : x.settings.policy = .gate ∧ new.policy = .open_ <;>
    simp [ha, hp]

theorem withSettings_settings (t : Time) (new : MicSettings) (x : Mic) : (x.withSettings t new).settings = new := by
  by_cases h : new.enable = x.settings.enable
  · rw [withSettings_kept h]
  · rw [withSettings_toggled h]

/-- Settles O27: the ranges are the checks' in order, and the accepted settings are written whole. -/
theorem followAndMicSet : Obligations.FollowAndMicSet := by
  rintro t tag b s hs a rfl
  refine ⟨fun hb ranges hr => ?_, fun hb fall hf ranges hr => ?_⟩
  · have ex := followChecks_examine b
    rw [← hr] at ex
    exact ⟨fun place fails => exec_followSet hs hb (guarded_refuses ex fails),
      fun all closed => exec_followSet hs hb (guarded_busy ex all closed),
      fun all idle free => exec_followSet hs hb (guarded_accepts ex all idle free)⟩
  · have ex := micChecks_examine b
    rw [signedWordAt_eq, ← hf, ← hr] at ex
    refine ⟨fun place fails => exec_micSet hs hb (guarded_refuses ex fails),
      fun all closed => exec_micSet hs hb (guarded_busy ex all closed), fun all idle free m hm => ?_⟩
    have done := exec_micSet (tag := tag) hs hb (guarded_accepts ex all idle free)
    rw [updateInUse_eq, toFin_of_eq_val hm.symm, signedWordAt_eq, ← hf] at done
    refine ⟨(mic (arrive t s) m).withSettings (arrive t s).now (micOf b), _, _, withSettings_settings _ _ _,
      fun h => ?_, fun h => ?_, rfl, afterLeads_moves _ _, done⟩
    all_goals rw [withSettings_settings] at h ⊢
    · exact withSettings_toggled h
    · exact withSettings_kept h

end Sys2Proof.Machine

/-! PROOFS. The requests that write a division's record, its stops and the registrations. -/

namespace Sys2Proof.Machine

-- The proofs are elaborated one after another, which keeps the whole text within its memory.
set_option Elab.async false

/-! ### DIVISION_SET -/

theorem divisionChecks_examine (b : List Byte) : Examines 0 (divisionChecks b) [byteAt b 0 ≤ 5, byteAt b 1 ≤ 1, byteAt b 2 ≤ 1,
    1 ≤ byteAt b 3 ∧ byteAt b 3 ≤ (if byteAt b 2 = 1 then 32 else 61), byteAt b 4 ≤ 127, byteAt b 5 ≤ 1, wordAt b 6 ≤ 12000,
    wordAt b 8 ≤ 12000, wordAt b 10 ≤ 12000, wordAt b 12 ≤ 12000, wordAt b 14 ≤ 12000, wordAt b 16 ≤ 3000,
    wordAt b 18 ≤ 1000, 200 ≤ wordAt b 20 ∧ wordAt b 20 ≤ 4000, 1 ≤ wordAt b 22 ∧ wordAt b 22 ≤ 4095,
    wordAt b 24 ≤ wordAt b 22] :=
  .field (inRange_zero_iff _ _) <| .field (inRange_zero_iff _ _) <| .field (inRange_zero_iff _ _) <| .field (inRange_iff _ _ _) <|
    .field (inRange_zero_iff _ _) <| .field (inRange_zero_iff _ _) <| .field (inRange_zero_iff _ _) <|
    .field (inRange_zero_iff _ _) <| .field (inRange_zero_iff _ _) <| .field (inRange_zero_iff _ _) <|
    .field (inRange_zero_iff _ _) <| .field (inRange_zero_iff _ _) <| .field (inRange_zero_iff _ _) <|
    .field (inRange_iff _ _ _) <| .field (inRange_iff _ _ _) <| .field (inRange_zero_iff _ _) <| .nil _

/-- The shutter that a written division is left with (R143, R166). -/
def shutterAfterSet (x : Division) (sh : Shutter) : Shutter := if (x.present && x.enclosed) = true then sh else idleShutter sh

theorem writeDivision_eq (d : DivNo) (x : Division) (s : State) : writeDivision d x s = { s with
    drivers := { s.drivers with divisions := s.drivers.divisions.set d x }
    expression := { s.expression with shutters := s.expression.shutters.set d (shutterAfterSet x (shutter s d)) } } := by
  unfold writeDivision shutterAfterSet enclosed
  dsimp only
  rw [div_setDiv]
  split
  · rw [show s.expression.shutters.set d (shutter s d) = s.expression.shutters from Vector.set_getElem_self _]
    rfl
  · rfl

theorem keysAfterSet_key (present : Bool) (compass : Nat) (x : Division) (k : KeyNo) :
    (keysAfterSet present compass x)[k] = if (x.present = true ∧ present = false) ∨ compass ≤ k.val ∨ x.compass ≤ k.val
      then ⟨x.keys[k].holders, .normal, 0, 0⟩ else x.keys[k] := by
  simp only [keysAfterSet, Fin.getElem_fin, mapIdx_getElem, KeyRecord.cleared, Bool.or_eq_true, Bool.and_eq_true,
    Bool.not_eq_true', decide_eq_true_eq]
  exact ite_congr (propext (or_congr_right (by omega))) (fun _ => rfl) fun _ => rfl

/-- Settles O28: the ranges are the checks' in order, and the accepted record is written whole. -/
theorem divisionSetWrites : Obligations.DivisionSetWrites := by
  rintro t tag b s hs hb a rfl ranges hr
  have ex := divisionChecks_examine b
  rw [← hr] at ex
  refine ⟨fun place fails => exec_divisionSet hs hb (guarded_refuses ex fails),
    fun all closed => exec_divisionSet hs hb (guarded_busy ex all closed), fun all idle free d hd => ?_⟩
  have done := exec_divisionSet (tag := tag) hs hb (guarded_accepts ex all idle free)
  rw [writeDivision_eq, toFin_of_eq_val hd.symm] at done
  have absent : (byteAt b 1 == 1) = false ↔ byteAt b 1 = 0 := by
    rw [hr] at all
    have le : byteAt b 1 ≤ 1 := all.2.1
    rw [beq_eq_false_iff_ne]
    omega
  refine ⟨divisionAfterSet b (div (arrive t s) d), shutterAfterSet _ _, _, _, ?_, fun k => ?_, ?_, rfl, afterLeads_moves _ _,
    done⟩
  · simp only [divisionAfterSet, beq_iff_eq]
  · exact (keysAfterSet_key _ _ _ _).trans (by simp only [absent]; rfl)
  · simp only [shutterAfterSet, divisionAfterSet, Bool.and_eq_true, beq_iff_eq]
    rfl

/-! ### STOPS_SET and REGISTRATION_SET -/

theorem stopsChecks_examine (b : List Byte) : Examines 0 (stopsChecks b) ([byteAt b 0 ≤ 5, byteAt b 1 ≤ 16] ++
    (List.range (byteAt b 1)).map fun i => 1 ≤ byteAt b (2 + i) ∧ byteAt b (2 + i) ≤ 64) :=
  .field (inRange_zero_iff _ _) <| .field (inRange_zero_iff _ _) <|
    .range _ (fun _ => rfl) fun _ => inRange_iff _ _ _

theorem existing_getLsbD {x : Division} (h : x.weights.length ≤ 16) (i : Nat) :
    (existing x).getLsbD i = decide (i < x.weights.length) := by
  rw [existing, Nat.min_eq_left h, BitVec.getLsbD_ofNat, Nat.testBit_two_pow_sub_one, ← Bool.decide_and]
  exact decide_eq_decide.2 ⟨fun k => k.2, fun k => ⟨by omega, k⟩⟩

/-- A count above 16 fails at its own place, unless the division does before it. -/
theorem stopsChecks_count {b : List Byte} (h : 16 < byteAt b 1) :
    firstFailing (stopsChecks b) = some (if byteAt b 0 ≤ 5 then 1 else 0) := by
  have count : inRange (byteAt b 1) 0 16 = false := by simpa [inRange] using h
  by_cases hd : byteAt b 0 ≤ 5
  · simp [stopsChecks, firstFailing, count, (inRange_zero_iff _ 5).2 hd, hd]
  · have out : inRange (byteAt b 0) 0 5 = false := by simpa [inRange] using hd
    simp [stopsChecks, firstFailing, out, hd]

theorem stopsLength_allowed {b : List Byte} (h2 : 2 ≤ b.length) (h18 : b.length ≤ 18)
    (hc : b.length = 2 + byteAt b 1 ∨ 16 < byteAt b 1) : lengthAllowed 0x12 b = true := by
  change (decide (2 ≤ b.length) && decide (b.length ≤ 18) &&
    (decide (16 < byteAt b 1) || b.length == 2 + byteAt b 1)) = true
  simp only [h2, h18, decide_true, Bool.true_and, Bool.or_eq_true, decide_eq_true_eq, beq_iff_eq]
  exact hc.symm

section
variable {s u : State} {t : Time} {tag : Byte} {b : List Byte} {x : Answer} (hs : Listens s)
include hs

theorem exec_stopsSet (h2 : 2 ≤ b.length) (h18 : b.length ≤ 18) (hc : b.length = 2 + byteAt b 1 ∨ 16 < byteAt b 1)
    (hx : doStopsSet b (arrive t s) = (u, x)) : exec (.stopsSet t tag b) s = .next (answer 0x12 tag x.status x.fields u) :=
  request_of_handler (f := ⟨0x12, tag, b⟩) hs (by simp [bodyFits, Config.maxBody]; omega)
    (stopsLength_allowed h2 h18 hc) hx

theorem exec_registrationSet (hb : b.length = 13) (hx : doRegistrationSet b (arrive t s) = (u, x)) :
    exec (.registrationSet t tag b) s = .next (answer 0x13 tag x.status x.fields u) :=
  request_of_handler (f := ⟨0x13, tag, b⟩) hs (by simp [bodyFits, hb, Config.maxBody]) (by simp [lengthAllowed, hb]) hx

end

theorem wordAt_lt (b : List Byte) (i : Nat) : wordAt b i < 65536 := by
  have h1 := byteAt_lt b i
  have h2 := byteAt_lt b (i + 1)
  unfold wordAt
  omega

/-- Settles O29. -/
theorem stopsAndRegistrationSet : Obligations.StopsAndRegistrationSet := by
  rintro t tag b s hs a rfl
  refine ⟨fun n hb hc hn ranges hr => ?_, fun n hb hc h2 h18 => ?_, fun hb => ⟨fun hg => ?_, fun g hg => ?_⟩⟩
  · obtain rfl := hc
    have ex := stopsChecks_examine b
    rw [← hr] at ex
    have run {u : State} {x : Answer} (hx : doStopsSet b (arrive t s) = (u, x)) :=
      exec_stopsSet (tag := tag) hs (by omega) (by omega) (.inl hb) hx
    refine ⟨fun place fails => run (guarded_refuses ex fails), fun all closed => run (guarded_busy ex all closed),
      fun all idle free d hd => ?_⟩
    have done := run (guarded_accepts ex all idle free)
    rw [toFin_of_eq_val hd.symm] at done
    refine ⟨_, rfl, by simp [withStops], fun i hi => by simp [withStops, hi], fun i => ?_, done⟩
    rw [withStops, BitVec.getLsbD_and, existing_getLsbD (by simpa using hn), Bool.and_comm]
    simp
  · have hx : doStopsSet b (arrive t s) = (arrive t s, ⟨.badField, e8 (if byteAt b 0 ≤ 5 then 1 else 0)⟩) := by
      rw [doStopsSet, guarded, stopsChecks_count hc]
    exact exec_stopsSet hs (by omega) (by omega) (.inr hc) hx
  · exact exec_registrationSet hs hb (if_pos hg)
  · have keep : ¬ 7 < byteAt b 0 := by have := g.isLt; omega
    have written : doRegistrationSet b (arrive t s) = ({ arrive t s with drivers := { (arrive t s).drivers with
        registrations := (arrive t s).drivers.registrations.set g (registrationOf b) } }, ok []) := by
      obtain rfl := toFin_of_eq_val hg
      exact if_neg keep
    have done := exec_registrationSet (t := t) (tag := tag) hs hb written
    refine ⟨registrationOf b, fun d => ?_, done⟩
    simp [registrationOf, Nat.mod_eq_of_lt (wordAt_lt _ _)]

/-! ### LEVEL -/

theorem levelChecks_examine (b : List Byte) : Examines 0 (levelChecks b) [byteAt b 0 ≤ 5, byteAt b 1 ≤ 15, byteAt b 2 ≤ 60,
    byteAt b 3 ≤ 3, byteAt b 4 = 4 ∨ byteAt b 4 = 8 ∨ byteAt b 4 = 16, 3000 ≤ wordAt b 5 ∧ wordAt b 5 ≤ 20000] :=
  .field (inRange_zero_iff _ _) <| .field (inRange_zero_iff _ _) <| .field (inRange_zero_iff _ _) <|
    .field (inRange_zero_iff _ _) <| .field (by simp [or_assoc]) <| .field (inRange_iff _ _ _) <| .nil _

theorem levelOffers_examine {b : List Byte} {s : State} {d : DivNo} {k : KeyNo} {m : MicNo} (hd : d.val = byteAt b 0)
    (hk : k.val = byteAt b 2) (hm : m.val = byteAt b 3) : Examines 0 (levelOffers b s) [(div s d).present = true,
      byteAt b 1 < (div s d).weights.length, k.val < (div s d).compass, (mic s m).settings.enable = true] := by
  rw [levelOffers, toFin_of_eq_val hd.symm, toFin_of_eq_val hm.symm, ← hk]
  exact .field .rfl <| .field decide_eq_true_iff <| .field decide_eq_true_iff <| .field .rfl <| .nil _

/-- The test stop alone is drawn, where the division has it. -/
theorem drawsOn_single {x : Division} {i : Nat} (h : i < x.weights.length) (h16 : i < 16) (j : Nat) :
    (drawsOn x (BitVec.ofNat 16 (2 ^ i))).getLsbD j = decide (j = i) := by
  rw [drawsOn, existing, BitVec.getLsbD_and, BitVec.getLsbD_ofNat, BitVec.getLsbD_ofNat, Nat.testBit_two_pow_sub_one,
    Nat.testBit_two_pow]
  by_cases hj : j = i
  · subst hj
    simp only [decide_eq_true h16, decide_eq_true (Nat.lt_min.2 ⟨h, h16⟩), decide_true, Bool.and_self]
  · simp [hj, Ne.symm hj]

section
variable {b : List Byte} {s : State} {place : Nat}

theorem doLevel_refuses (h : firstFailing (levelChecks b) = some place) : doLevel b s = (s, ⟨.badField, e8 place⟩) := by
  simp only [doLevel, h]

theorem doLevel_busy (h : firstFailing (levelChecks b) = none)
    (busy : s.plan.play ≠ .idle ∨ yielded s = true ∨ runActive s = true) : doLevel b s = (s, refuse .busy) := by
  simp only [doLevel, h, if_pos busy]

theorem doLevel_misses (h : firstFailing (levelChecks b) = none)
    (free : ¬(s.plan.play ≠ .idle ∨ yielded s = true ∨ runActive s = true)) (h' : firstFailing (levelOffers b s) = some place) :
    doLevel b s = (s, ⟨.badField, e8 place⟩) := by
  simp only [doLevel, h, if_neg free, h']

theorem doLevel_begins (h : firstFailing (levelChecks b) = none)
    (free : ¬(s.plan.play ≠ .idle ∨ yielded s = true ∨ runActive s = true)) (h' : firstFailing (levelOffers b s) = none) :
    doLevel b s =
      (stopChange (toFin 6 (byteAt b 0)) (BitVec.ofNat 16 (2 ^ byteAt b 1)) (setRun (some (newRun b s)) s), ok []) := by
  simp only [doLevel, h, if_neg free, h']

end

/-- Settles O32. -/
theorem levelBegins : Obligations.LevelBegins := by
  rintro t tag b s hs hb a rfl ranges hr
  have ex := levelChecks_examine b
  rw [← hr] at ex
  refine ⟨fun place fails => ?_, fun all closed => ?_, fun all idle free none_ d k m hd hk hm offers ho => ?_⟩
  · have refused := doLevel_refuses (s := arrive t s) (ex.refuses fails)
    rw [Nat.zero_add] at refused
    exact exec_level hs hb refused
  · exact exec_level hs hb (doLevel_busy (ex.accepts all) closed)
  · have opened : ¬((arrive t s).plan.play ≠ .idle ∨ yielded (arrive t s) = true ∨ runActive (arrive t s) = true) := by
      rw [idle, free, none_]
      decide
    have ex' := levelOffers_examine (s := arrive t s) hd hk hm
    rw [← ho] at ex'
    refine ⟨fun place fails => ?_, fun offered => ?_⟩
    · have missed := doLevel_misses (ex.accepts all) opened (ex'.refuses fails)
      rw [Nat.zero_add] at missed
      exact exec_level hs hb missed
    · have done := exec_level (tag := tag) hs hb (doLevel_begins (ex.accepts all) opened (ex'.accepts offered))
      simp only [newRun, toFin_of_eq_val hd.symm, toFin_of_eq_val hk.symm, toFin_of_eq_val hm.symm, stopChange,
        addTu_natCast] at done
      refine ⟨_, rfl, fun i => drawsOn_single ?_ ?_ i, done⟩
      · rw [ho] at offered
        exact offered.2.1
      · rw [hr] at all
        exact Nat.lt_succ_of_le all.2.1

/-! ### FAULT_CLEAR -/

theorem exec_faultClear {s u : State} {t : Time} {tag : Byte} {b : List Byte} {x : Answer} (hs : Listens s)
    (hb : b.length = 3) (hx : doFaultClear b (arrive t s) = (u, x)) :
    exec (.faultClear t tag b) s = .next (answer 0x1A tag x.status x.fields u) :=
  request_of_handler (f := ⟨0x1A, tag, b⟩) hs (by simp [bodyFits, hb, Config.maxBody]) (by simp [lengthAllowed, hb]) hx

theorem clearedFault_eq (k : KeyRecord) (h : k.fault ≠ .openCoil) (h' : k.fault ≠ .shorted) : clearedFault k = k.fault := by
  unfold clearedFault
  split
  · contradiction
  · contradiction
  · rfl

theorem clearNames_iff (b : List Byte) (x : Division) (k : KeyNo) : clearNames b x k = true ↔
    x.present = true ∧ (if byteAt b 1 = 255 then k.val < x.compass else k.val = byteAt b 1) := by
  unfold clearNames
  split <;> simp

theorem clearDivision_key (b : List Byte) (x : Division) (k : KeyNo) :
    (clearDivision b x).keys[k] = if clearNames b x k = true then clearKey x.keys[k] else x.keys[k] := by
  simp only [clearDivision, Fin.getElem_fin, mapIdx_getElem]

theorem clearedCount_eq (b : List Byte) (x y : Division) (h : y = clearDivision b x) : clearedCount b x =
    ((allFin 61).filter fun k => decide (y.keys[k].fault ≠ x.keys[k].fault)).length := by
  unfold clearedCount
  refine congrArg List.length (List.filter_congr fun k _ => ?_)
  rw [h, clearDivision_key]
  by_cases named : clearNames b x k = true
  · rw [if_pos named]
    rw [named, Bool.true_and, Bool.eq_iff_iff, bne_iff_ne, decide_eq_true_iff]
    exact .rfl
  · rw [if_neg named]
    simp [named]

theorem clearRefused_iff (b : List Byte) (s : State) : clearRefused b s = true ↔ 5 < byteAt b 0 ∨
    ¬((byteAt b 1 = 255 ∨ byteAt b 1 < (div s (toFin 6 (byteAt b 0))).compass) ∧ 1 ≤ byteAt b 2 ∧ byteAt b 2 ≤ 8) := by
  simp only [clearRefused, inRange, Bool.or_eq_true, Bool.and_eq_true, Bool.not_eq_true', Bool.and_eq_false_iff,
    decide_eq_true_eq, decide_eq_false_iff_not, bne_iff_ne, or_assoc]
  omega

theorem doFaultClear_refuses {b : List Byte} {s : State} (h : clearRefused b s = true) :
    doFaultClear b s = (s, refuse .badField) := if_pos h

theorem doFaultClear_clears {b : List Byte} {s : State} {d : DivNo} (h : ¬clearRefused b s = true) (hd : byteAt b 0 = d.val)
    {y : Division} (hy : y = clearDivision b (div s d)) : doFaultClear b s =
      ({ s with drivers := { s.drivers with divisions := s.drivers.divisions.set d y, debounce := byteAt b 2 } },
        ok (e8 ((allFin 61).filter fun k => decide (y.keys[k].fault ≠ (key s d k).fault)).length)) := by
  rw [doFaultClear, if_neg h, toFin_of_eq_val hd]
  dsimp only
  rw [clearedCount_eq b _ y hy, hy]
  rfl

theorem clearDivision_names {b : List Byte} {x y : Division} (hy : y = clearDivision b x) (k : KeyNo) : y.keys[k] =
    if x.present = true ∧ (if byteAt b 1 = 255 then k.val < x.compass else k.val = byteAt b 1) then clearKey x.keys[k]
    else x.keys[k] := by
  rw [hy, clearDivision_key]
  simp only [clearNames_iff]

/-- Settles O36. -/
theorem faultClearResets : Obligations.FaultClearResets := by
  rintro t tag dv ky db s hs a rfl
  have refused (h : clearRefused [dv, ky, db] (arrive t s) = true) :
      exec (.faultClear t tag [dv, ky, db]) s = .next (answer 0x1A tag .badField [] (arrive t s)) :=
    exec_faultClear hs rfl (doFaultClear_refuses h)
  refine ⟨fun h => refused ((clearRefused_iff _ _).2 (.inl h)), fun d hd ranges hr => ?_⟩
  have iff := clearRefused_iff [dv, ky, db] (arrive t s)
  rw [toFin_of_eq_val (x := byteAt [dv, ky, db] 0) hd.symm] at iff
  refine ⟨fun h => refused (iff.2 (.inr (hr ▸ h))), fun h => ?_⟩
  have taken : ¬clearRefused [dv, ky, db] (arrive t s) = true := by
    rw [iff]
    have := d.isLt
    rintro (big | out)
    · exact absurd big (by change ¬5 < dv.toNat; omega)
    · exact out (hr ▸ h)
  generalize hy : clearDivision [dv, ky, db] (div (arrive t s) d) = y
  refine ⟨y, by rw [← hy]; rfl, fun k => (clearDivision_names hy.symm k).trans ?_,
    exec_faultClear hs rfl (doFaultClear_clears taken hd.symm hy.symm)⟩
  rfl

/-! ### TEMP_READING -/

theorem temperatureOf_eq (r : BitVec 12) : temperatureOf r = ((r.toNat * 5 / 16 : Nat) : Int) - 400 := by
  rw [temperatureOf, floorDiv, Int.fdiv_eq_ediv_of_nonneg _ (by decide)]
  rfl

theorem joinHistory_eq (x : Int) (h : List Int) : joinHistory x h = (if h.length < 8 then h else h.drop 1) ++ [x] := by
  unfold joinHistory Config.maxHistory
  split <;> rfl

theorem takeReading_valid {r : BitVec 12} {s : State} (low : 16 ≤ r.toNat) (high : r.toNat ≤ 4079) :
    takeReading r s = { s with acoustic := ⟨joinHistory (temperatureOf r) s.acoustic.history,
      inUseAfter (joinHistory (temperatureOf r) s.acoustic.history) s.front.fallback s.acoustic.inUse, false⟩ } := by
  have valid : validReading r = true := by simp [validReading, low, high]
  rw [takeReading, if_pos valid, updateInUse_eq]

theorem takeReading_faulty {r : BitVec 12} {s : State} (h : r.toNat ≤ 15 ∨ 4080 ≤ r.toNat) : takeReading r s =
    if s.acoustic.sensorFault = true then s
    else notice (.tempFault r) { s with acoustic := { s.acoustic with sensorFault := true } } := by
  have invalid : ¬validReading r = true := by simp [validReading]; omega
  rw [takeReading, if_neg invalid]

/-- The leads read the divisions and the temperature in use alone. -/
theorem afterLeads_of_same {a u : State} (drivers : u.drivers = a.drivers) (inUse : u.acoustic.inUse = a.acoustic.inUse) :
    afterLeads a u = u := by
  refine (afterLeads_moves a u).1 ?_
  simp [leadsMoved, leadOn, leadOff, travelToChoir, travel, div, drivers, inUse]

theorem notice_eq (n : Notice) (s : State) : ∃ l, notice n s = { s with link := l } := by
  rcases notice_cases n s with ⟨-, h⟩ | ⟨-, h⟩ <;> exact ⟨_, h⟩

theorem leads_of_notice (n : Notice) {a u : State} (drivers : u.drivers = a.drivers)
    (inUse : u.acoustic.inUse = a.acoustic.inUse) : afterLeads a (notice n u) = notice n u := by
  obtain ⟨l, h⟩ := notice_eq n u
  rw [h]
  exact afterLeads_of_same drivers inUse

/-- Settles O37. -/
theorem tempReadingTaken : Obligations.TempReadingTaken := by
  rintro t r s runs a rfl at_ fresh b rfl
  have acts := event_acts (t := t) (p := tempDue) (fun s =>
    let s := { s with marks := { s.marks with temp := true } }
    afterLeads s (takeReading r s)) runs (by simp [tempDue, at_, fresh])
  refine ⟨fun low high => ?_, fun faulty => ⟨fun clear => acts.trans ?_, fun set => acts.trans ?_⟩⟩
  · refine ⟨_, _, rfl, ?_, acts⟩
    rw [← temperatureOf_eq, ← joinHistory_eq]
    dsimp only
    rw [takeReading_valid low high]
    exact afterLeads_moves _ _
  · dsimp only
    rw [takeReading_faulty faulty, if_neg (ne_true_of_eq_false clear)]
    exact congrArg _ (leads_of_notice _ rfl rfl)
  · dsimp only
    rw [takeReading_faulty faulty, if_pos set, afterLeads_of_same rfl rfl]

end Sys2Proof.Machine

/-! PROOFS. VOICING_SET, TEMPO, TUNE_READ and the requests of the Plan Unit that refuse, queue, stage and cancel. -/

namespace Sys2Proof.Machine

-- The proofs are elaborated one after another, which keeps the whole text within its memory.
set_option Elab.async false

/-! ### More checks of a body -/

theorem allHold_iff (ps : List Prop) : AllHold ps ↔ ∀ p ∈ ps, p := by
  induction ps with
  | nil => simp [AllHold]
  | cons p ps ih => rw [AllHold, ih, List.forall_mem_cons]

/-- Groups of fields of one length, one group for each of some numbers, in order. -/
theorem Examines.flatMap_range {n : Nat} {f : Nat → List (Nat × Bool)} {p : Nat → List Prop} (k : Nat)
    (len : ∀ i, (p i).length = k) (each : ∀ i, Examines (n + k * i) (f i) (p i)) (m : Nat) :
    Examines n ((List.range m).flatMap f) ((List.range m).flatMap p) := by
  induction m with
  | zero => exact .nil _
  | succ m ih =>
    rw [List.range_succ, List.flatMap_append, List.flatMap_append, List.flatMap_singleton, List.flatMap_singleton]
    refine ih.append (each m) ?_
    rw [List.length_flatMap, funext len, List.map_const', List.length_range, List.sum_replicate_nat, Nat.mul_comm]

theorem signedByteAt_eq (b : List Byte) (i : Nat) :
    signedByteAt b i = if byteAt b i < 128 then (byteAt b i : Int) else (byteAt b i : Int) - 256 := by
  have lt := byteAt_lt b i
  rw [signedByteAt, BitVec.toInt_eq_toNat_cond]
  change (if 2 * byteAt b i < 2 ^ 8 then (byteAt b i : Int) else (byteAt b i : Int) - (2 ^ 8 : Nat)) = _
  split <;> split <;> omega

/-! ### VOICING_SET -/

theorem targetChecks_examine (b : List Byte) (i : Nat) : Examines i (targetChecks b i) [byteAt b i ≤ 1,
    byteAt b i = 1 → byteAt b (i + 1) ≤ 5, byteAt b i = 1 → -2 ≤ signedByteAt b (i + 2) ∧ signedByteAt b (i + 2) ≤ 2] := by
  refine .field (inRange_zero_iff _ _) ?_
  by_cases one : byteAt b i = 1
  · rw [if_pos one]
    exact .field (by simp [one, inRange]) <| .field (by simp [one]) <| .nil _
  · rw [if_neg one]
    exact .idle (fun h => absurd h one) <| .idle (fun h => absurd h one) <| .nil _

theorem voicingChecks_examine (b : List Byte) : Examines 0 (voicingChecks b) ((byteAt b 0 ≤ 15) ::
    (List.range 10).flatMap fun j => [byteAt b (1 + 3 * j) ≤ 1, byteAt b (1 + 3 * j) = 1 → byteAt b (2 + 3 * j) ≤ 5,
      byteAt b (1 + 3 * j) = 1 → -2 ≤ signedByteAt b (3 + 3 * j) ∧ signedByteAt b (3 + 3 * j) ≤ 2]) :=
  .field (inRange_zero_iff _ _) <| .flatMap_range 3 (fun _ => rfl) (fun j => by
    have h := targetChecks_examine b (1 + 3 * j)
    rwa [show 1 + 3 * j + 1 = 2 + 3 * j by omega, show 1 + 3 * j + 2 = 3 + 3 * j by omega] at h) 10

theorem targetAt_absent {b : List Byte} {i : Nat} (h : byteAt b i = 0) : targetAt b i = none := by simp [targetAt, h]

theorem targetAt_present {b : List Byte} {i : Nat} (h : byteAt b i = 1) (h5 : byteAt b (i + 1) ≤ 5) :
    ∃ g : Target, targetAt b i = some g ∧ g.division.val = byteAt b (i + 1) ∧ g.shift = signedByteAt b (i + 2) :=
  ⟨_, if_pos h, Nat.mod_eq_of_lt (by omega), rfl⟩

theorem targetsAt_get (b : List Byte) (v : Voice) : (PerVoice.of (targetsAt b)).get v = targetsAt b v := by cases v <;> rfl

section
variable {s u : State} {t : Time} {tag : Byte} {b : List Byte} {x : Answer} (hs : Listens s)
include hs

theorem exec_voicingSet (hb : b.length = 31) (hx : doVoicingSet b (arrive t s) = (u, x)) :
    exec (.voicingSet t tag b) s = .next (answer 0x14 tag x.status x.fields u) :=
  request_of_handler (f := ⟨0x14, tag, b⟩) hs (by simp [bodyFits, hb, Config.maxBody]) (by simp [lengthAllowed, hb]) hx

theorem exec_curveSet (hb : b.length = 10) (hx : doCurveSet b (arrive t s) = (u, x)) :
    exec (.curveSet t tag b) s = .next (answer 0x15 tag x.status x.fields u) :=
  request_of_handler (f := ⟨0x15, tag, b⟩) hs (by simp [bodyFits, hb, Config.maxBody]) (by simp [lengthAllowed, hb]) hx

theorem exec_tempo {p1 p0 : Byte} (hx : doTempo [p1, p0] (arrive t s) = (u, x)) :
    exec (.tempo t tag [p1, p0]) s = .next (answer 0x0E tag x.status x.fields u) :=
  request_of_handler (f := ⟨0x0E, tag, [p1, p0]⟩) hs rfl rfl hx

theorem exec_tuneRead {sl : Byte} (hx : doTuneRead [sl] (arrive t s) = (u, x)) :
    exec (.tuneRead t tag [sl]) s = .next (answer 0x08 tag x.status x.fields u) :=
  request_of_handler (f := ⟨0x08, tag, [sl]⟩) hs rfl rfl hx

theorem exec_planCancel (hx : doPlanCancel (arrive t s) = (u, x)) :
    exec (.planCancel t tag []) s = .next (answer 0x0A tag x.status x.fields u) :=
  request_of_handler (f := ⟨0x0A, tag, []⟩) hs rfl rfl hx

theorem exec_planStartNow {form : Byte} (other : form ≠ 1) (hx : doPlanStartNow [form] (arrive t s) = (u, x)) :
    exec (.planStartNow t tag [form]) s = .next (answer 0x0B tag x.status x.fields u) := by
  have taken := request_taken (t := t) (f := ⟨0x0B, tag, [form]⟩) (mine := !isPlanNext [form]) (doPlanStartNow [form]) hs rfl
    (by simpa [isPlanNext] using other) rfl (lengthOk := lengthAllowed 0x0B [form])
  rw [hx] at taken
  exact taken

theorem exec_planStartNext (hx : doPlanStartNext (arrive t s) = (u, x)) :
    exec (.planStartNext t tag [1]) s = .next (answer 0x0B tag x.status x.fields u) :=
  request_of_handler (f := ⟨0x0B, tag, [1]⟩) hs rfl rfl hx

theorem exec_planSet {n : Nat} (h1 : 1 ≤ n) (h12 : n ≤ 12) (hb : b.length = 13 + 14 * n)
    (hx : doPlanSet b (arrive t s) = (u, x)) : exec (.planSet t tag b) s = .next (answer 0x09 tag x.status x.fields u) :=
  request_of_handler (f := ⟨0x09, tag, b⟩) hs (by simp [bodyFits, hb, Config.maxBody]; omega)
    (by simp [lengthAllowed, hb]; omega) hx

end

theorem curveChecks_examine (b : List Byte) : Examines 0 (curveChecks b)
    ((3 ≤ byteAt b 0 ∧ byteAt b 0 ≤ 7) :: (List.range 9).map fun i => byteAt b (1 + i) ≤ 127) :=
  .field (inRange_iff _ _ _) <| .range _ (fun _ => rfl) fun _ => inRange_zero_iff _ _

theorem voice_code_lt (v : Voice) : v.code < 5 := by cases v <;> decide

theorem syncRamps_curves (s : State) : (syncRamps s).expression.curves = s.expression.curves := by
  obtain ⟨n, x, h⟩ := syncRamps_eq s
  rw [h]

/-- Settles O30. -/
theorem voicingAndCurveSet : Obligations.VoicingAndCurveSet := by
  rintro t tag b s hs a rfl
  refine ⟨fun hb shiftAt hshift ranges hr => ?_, fun hb ranges hr => ?_⟩
  · obtain rfl : shiftAt = signedByteAt b := funext fun i => (hshift i).trans (signedByteAt_eq b i).symm
    have ex := voicingChecks_examine b
    rw [← hr] at ex
    refine ⟨fun place fails => exec_voicingSet hs hb (checked_refuses ex fails), fun all m hm => ?_⟩
    have done := exec_voicingSet (tag := tag) hs hb (checked_accepts (s := arrive t s) ex all)
    obtain rfl := toFin_of_eq_val hm.symm
    refine ⟨.of (targetsAt b), fun v j hj i hi y hy => ?_, done⟩
    have read : y = targetAt b i := by
      rw [targetsAt_get] at hy
      obtain rfl | rfl : j = 0 ∨ j = 1 := by omega
      · exact hy.trans (congrArg (targetAt b) (by omega))
      · exact hy.trans (congrArg (targetAt b) (by omega))
    refine ⟨fun h => read.trans (targetAt_absent h), fun h => ?_⟩
    rw [hr] at all
    have group := (allHold_iff _).1 all.2 (byteAt b (1 + 3 * (2 * v.code + j)) = 1 → byteAt b (2 + 3 * (2 * v.code + j)) ≤ 5)
      (List.mem_flatMap.2 ⟨2 * v.code + j, List.mem_range.2 (by have := voice_code_lt v; omega), by simp⟩)
    rw [← hi, show 2 + 3 * (2 * v.code + j) = i + 1 by omega] at group
    rw [read]
    exact targetAt_present h (group h)
  · have ex := curveChecks_examine b
    rw [← hr] at ex
    refine ⟨fun place fails => exec_curveSet hs hb (checked_refuses ex fails), fun all c hc => ?_⟩
    refine ⟨pointsOf b, fun i => by simp [pointsOf], ?_⟩
    rintro v rfl
    have done := exec_curveSet (tag := tag) hs hb (checked_accepts (s := arrive t s) ex all)
    obtain rfl : c = toFin 5 (byteAt b 0 - 3) := (toFin_of_eq_val (by omega)).symm
    rw [← syncRamps_curves]
    exact done

/-! ### TUNE_READ -/

theorem doTuneRead_reports {b : List Byte} {s : State} {i : Fin 16} (hi : byteAt b 0 = i.val) {used : Nat}
    (hu : InUse s i → used = 1) (hn : ¬InUse s i → used = 0) : doTuneRead b s =
      (s, ok (e8 (slot s i).code ++ e8 used ++ e16 s.store.free ++ (slot s i).readFields)) := by
  have flag : eFlag (slotInUse s i) = e8 used := by
    by_cases h : InUse s i
    · rw [(slotInUse_iff s i).2 h, hu h]
      rfl
    · rw [slotInUse_eq_false h, hn h]
      rfl
  simp only [doTuneRead, not_badSlot hi, toFin_of_eq_val hi, if_false, flag]

/-- Settles O17. -/
theorem tuneReadReports : Obligations.TuneReadReports := by
  rintro t tag sl s hs a rfl
  refine ⟨fun bad => exec_tuneRead hs (if_pos bad), fun i used hi hu hn => ?_⟩
  have done := exec_tuneRead (tag := tag) hs (doTuneRead_reports (b := [sl]) hi hu hn)
  refine ⟨fun empty => ?_, fun h es loading => ?_, fun x ready => ?_⟩
  · rw [empty] at done
    exact done.trans (by simp [Slot.readFields, Slot.code, ok])
  · rw [loading] at done
    exact done.trans (by simp [Slot.readFields, Slot.code, ok, TuneHeader.fields])
  · rw [ready] at done
    refine done.trans ?_
    cases h : x.amen <;> simp [Slot.readFields, Slot.code, ok, TuneHeader.fields, h, eList, eFlag, eAbsent, List.flatMap_def,
      allOnes]

/-! ### PLAN_CANCEL and PLAN_START -/

/-- Settles O19. -/
theorem planCancelUndoes : Obligations.PlanCancelUndoes := by
  rintro t tag s hs a rfl
  refine ⟨fun queued => ?_, fun free staged => ?_, fun free none_ => ?_⟩
  · exact exec_planCancel hs (if_pos queued)
  · exact exec_planCancel hs ((if_neg (ne_true_of_eq_false free)).trans (if_pos staged))
  · exact exec_planCancel hs ((if_neg (ne_true_of_eq_false free)).trans (if_neg (by rw [none_]; decide)))

theorem tuneOf_eq_some (s : State) (i : Fin 16) (x : Tune) : tuneOf s i = some x ↔ slot s i = .ready x := by
  unfold tuneOf
  cases slot s i <;> simp

theorem startable_some {s : State} {p : Plan} {x : Tune} (hp : s.plan.staged = some p) (hx : slot s p.slot = .ready x) :
    startable s = some (p, x) := by simp [startable, hp, tuneOf, hx]

theorem startable_none {s : State} (h : ∀ p x, s.plan.staged = some p → slot s p.slot ≠ .ready x) : startable s = none := by
  cases hx : startable s with
  | none => rfl
  | some y =>
    obtain ⟨hs, ht⟩ := startable_cases hx
    exact absurd ((tuneOf_eq_some _ _ _).1 ht) (h _ _ hs)

theorem startRefusal_busy {s : State} (h : runActive s = true ∨ yielded s = true) : startRefusal s = some .busy := by
  unfold startRefusal
  rcases h with h | h
  · rw [if_pos h]
  · rw [if_pos h, ite_self]

theorem startRefusal_free {s : State} (run : runActive s = false) (free : yielded s = false) :
    startRefusal s = if (startable s).isSome = true then none else some .notReady := by
  unfold startRefusal
  rw [if_neg (ne_true_of_eq_false run), if_neg (ne_true_of_eq_false free)]
  cases startable s <;> rfl

theorem doPlanStartNow_refuses {b : List Byte} {s : State} {st : Status} (now : byteAt b 0 = 0)
    (h : startRefusal s = some st) : doPlanStartNow b s = (s, refuse st) := by
  simp only [doPlanStartNow, now, ne_eq, not_true_eq_false, if_false, h]

theorem doPlanStartNext_refuses {s : State} {st : Status} (h : startRefusal s = some st) :
    doPlanStartNext s = (s, refuse st) := by simp only [doPlanStartNext, h]

theorem doPlanStartNext_queues {s : State} (h : startRefusal s = none) (play : s.plan.play ≠ .idle) :
    doPlanStartNext s = (setPlan { s.plan with queued := true } s, ok (e8 1)) := by
  simp only [doPlanStartNext, h, if_neg play]

/-- Settles O22. -/
theorem planStartRefusesOrQueues : Obligations.PlanStartRefusesOrQueues := by
  rintro t tag s hs a rfl
  refine ⟨fun form h => ?_, fun st busy notReady missing => ?_, fun p x run free hp hx play => ?_⟩
  · have h0 : form.toNat ≠ 0 := by omega
    exact exec_planStartNow hs (by rintro rfl; exact absurd h (by decide)) (if_pos h0)
  · have refused : startRefusal (arrive t s) = some st := by
      by_cases closed : runActive (arrive t s) = true ∨ yielded (arrive t s) = true
      · rw [startRefusal_busy closed, busy closed]
      · obtain ⟨run, free⟩ := not_or.1 closed
        rw [Bool.not_eq_true] at run free
        rw [startRefusal_free run free, startable_none (missing run free), notReady ⟨run, free⟩]
        rfl
    exact ⟨exec_planStartNow hs (by decide : (0 : Byte) ≠ 1) (doPlanStartNow_refuses rfl refused),
      exec_planStartNext hs (doPlanStartNext_refuses refused)⟩
  · have open_ : startRefusal (arrive t s) = none := by
      rw [startRefusal_free run free, startable_some hp hx]
      rfl
    exact exec_planStartNext hs (doPlanStartNext_queues open_ play)

/-! ### PLAN_SET -/

theorem optInRange_byte_iff (b : List Byte) (i hi : Nat) :
    optInRange (optByteAt b i) 0 hi = true ↔ byteAt b i ≤ hi ∨ byteAt b i = 255 := by
  unfold optByteAt
  split
  next absent => simp [optInRange, absent]
  next present => simp [optInRange, inRange, present]

theorem optInRange_word_iff (b : List Byte) (i lo hi : Nat) :
    optInRange (optWordAt b i) lo hi = true ↔ (lo ≤ wordAt b i ∧ wordAt b i ≤ hi) ∨ wordAt b i = 65535 := by
  unfold optWordAt
  split
  next absent => simp [optInRange, absent]
  next present => simp [optInRange, inRange_iff, present]

theorem planChecks_examine (b : List Byte) : Examines 0 (planChecks b) (planRanges b) :=
  .field (inRange_zero_iff _ _) <| .field (inRange_zero_iff _ _) <| .field (inRange_zero_iff _ _) <|
    .field (inRange_zero_iff _ _) <| .field (optInRange_word_iff _ _ _ _) <| .field (inRange_zero_iff _ _) <|
    .field (inRange_iff _ _ _) <| .field (inRange_zero_iff _ _) <| .field (inRange_zero_iff _ _) <|
    .field (inRange_zero_iff _ _) <| .field (inRange_iff _ _ _) <| .field (inRange_zero_iff _ _) <| .nil _

theorem rampChecks_examine (b : List Byte) (i n : Nat) : Examines n (rampChecks b i n) (rampRanges b i) :=
  .field (optInRange_byte_iff _ _ _) <| .field (inRange_zero_iff _ _) <| .field (inRange_iff _ _ _) <|
    .field (inRange_zero_iff _ _) <| .field (inRange_zero_iff _ _) <| .field (inRange_zero_iff _ _) <| .nil _

/-- Ranges that a condition guards are examined where it holds, and hold where it does not. -/
theorem Examines.guarded {n : Nat} {cs : List (Nat × Bool)} {ps : List Prop} (c : Prop) [Decidable c] (h : Examines n cs ps) :
    Examines n (if c then cs else []) (ps.map fun p => c → p) := by
  by_cases hc : c
  · rw [if_pos hc]
    simpa [hc] using h
  · rw [if_neg hc]
    clear h
    induction ps generalizing n with
    | nil => exact .nil _
    | cons p ps ih => exact .idle (fun k => absurd k hc) ih

theorem verseChecks_examine (b : List Byte) (i : Nat) : Examines 0 (verseChecks b i) (verseRanges b i) :=
  .append (.append
    (.field (inRange_zero_iff _ _) <| .field (inRange_zero_iff _ _) <| .field (optInRange_byte_iff _ _ _) <|
      .field (inRange_zero_iff _ _) <| .field (inRange_zero_iff _ _) <| .nil _)
    (.guarded _ (rampChecks_examine b (i + 5) 5)) rfl)
    (m := 11) (.field (inRange_zero_iff _ _) <| .nil _) rfl

theorem findSome_range_first {α : Type} {f : Nat → Option α} {j n : Nat} {x : α} (hj : j < n) (before : ∀ i, i < j → f i = none)
    (hit : f j = some x) : (List.range n).findSome? f = some x := by
  induction n with
  | zero => omega
  | succ n ih =>
    rw [List.range_succ, List.findSome?_append]
    by_cases h : j < n
    · rw [ih h, Option.some_or]
    · obtain rfl : j = n := by omega
      have none_ : (List.range j).findSome? f = none := List.findSome?_eq_none_iff.2 fun i hi => before i (List.mem_range.1 hi)
      rw [none_, Option.none_or, List.findSome?_singleton, hit]

theorem spellsRamp_rampAt {b : List Byte} {i : Nat} (h : byteAt b (i + 7) ≤ 7) : spellsRamp b i (rampAt b i) :=
  ⟨rfl, rfl, rfl, rfl, rfl, Nat.mod_eq_of_lt (by omega)⟩

theorem voiceMask_get (m : Nat) (v : Voice) : (voiceMask m).get v = m.testBit v.code := by cases v <;> rfl

theorem spellsVerse_verseAt {b : List Byte} {i : Nat} (h : AllHold (verseRanges b i)) : spellsVerse b i (verseAt b i) := by
  obtain ⟨registration, -, mode, -, -, -, -, -, -, -, curve, -, -⟩ := h
  refine ⟨Nat.mod_eq_of_lt (by omega), fun x => voiceMask_get _ x, ?_, rfl, fun none_ => ?_, fun one => ?_, rfl⟩
  · unfold verseAt optByteAt
    by_cases absent : byteAt b (i + 2) = 255
    · simp [absent]
    · have lt : byteAt b (i + 2) < 16 := by omega
      simp [absent, toFin, Nat.mod_eq_of_lt lt]
  · simp [verseAt, none_]
  · exact ⟨_, if_pos one, spellsRamp_rampAt (curve one)⟩

theorem spellsPlan_planOf {b : List Byte} {n : Nat} (hb : b.length = 13 + 14 * n) (own : AllHold (planRanges b))
    (verses : ∀ j, j < n → AllHold (verseRanges b (13 + 14 * j))) : spellsPlan b n (planOf b) := by
  have records : verseRecords b = n := by unfold verseRecords; omega
  obtain ⟨slot, -, introduction, -, -, -, -, -, amen, -⟩ := own
  refine ⟨Nat.mod_eq_of_lt (by omega), ?_, Nat.mod_eq_of_lt (by omega), fun x => voiceMask_get _ x, rfl, rfl, rfl, rfl,
    Nat.mod_eq_of_lt (by omega), rfl, rfl, rfl, by simp [planOf, records], fun j v hv => ?_⟩
  · rfl
  · obtain ⟨hj, rfl⟩ := List.getElem?_eq_some_iff.1 hv
    simp only [planOf, records, List.length_map, List.length_range] at hj
    simpa [planOf] using spellsVerse_verseAt (verses j hj)

theorem doPlanSet_refuses {b : List Byte} {s : State} {place verse : Nat} (free : s.plan.queued = false)
    (h : planFault b = some (place, verse)) : doPlanSet b s = (s, ⟨.badField, e8 place ++ e8 verse⟩) := by
  simp only [doPlanSet, free, Bool.false_eq_true, if_false, h]

theorem doPlanSet_stages {b : List Byte} {s : State} (free : s.plan.queued = false) (h : planFault b = none) :
    doPlanSet b s = (setPlan { s.plan with staged := some (planOf b) } s, ok []) := by
  simp only [doPlanSet, free, Bool.false_eq_true, if_false, h]

/-- Settles O18. -/
theorem planSetStages : Obligations.PlanSetStages := by
  rintro t tag b n s hs h1 h12 hb a rfl
  have records : verseRecords b = n := by unfold verseRecords; omega
  have ex := planChecks_examine b
  have exV (j : Nat) := verseChecks_examine b (13 + 14 * j)
  refine ⟨fun queued => exec_planSet hs h1 h12 hb (if_pos queued), fun place free fails => ?_,
    fun j place free own hj before fails => ?_, fun free own verses => ?_⟩
  · have fault : planFault b = some (0 + place, 0) := by simp only [planFault, ex.refuses fails]
    rw [Nat.zero_add] at fault
    exact exec_planSet hs h1 h12 hb (doPlanSet_refuses free fault)
  · have fault : planFault b = some (0 + place, j + 1) := by
      simp only [planFault, ex.accepts own, records]
      exact findSome_range_first hj (fun i hi => by rw [(exV i).accepts (before i hi)]; rfl)
        (by rw [(exV j).refuses fails]; rfl)
    rw [Nat.zero_add] at fault
    exact exec_planSet hs h1 h12 hb (doPlanSet_refuses free fault)
  · have sound : planFault b = none := by
      simp only [planFault, ex.accepts own, records]
      exact List.findSome?_eq_none_iff.2 fun j hj => by rw [(exV j).accepts (verses j (List.mem_range.1 hj))]; rfl
    exact ⟨planOf b, spellsPlan_planOf hb own verses, exec_planSet hs h1 h12 hb (doPlanSet_stages free sound)⟩

/-! ### TEMPO -/

theorem syncRamps_reads (s : State) : positionNow (syncRamps s) = positionNow s ∧
    runningPause (syncRamps s) = runningPause s ∧ (∀ p, clampPeriod (syncRamps s) p = clampPeriod s p) := by
  obtain ⟨n, x, h⟩ := syncRamps_eq s
  rw [h]
  exact ⟨rfl, rfl, fun _ => rfl⟩

theorem tempoAnchor_frame (s : State) : tempoAnchor s = { s with map := { s.map with
    anchor := (tempoAnchor s).map.anchor, pauses := (tempoAnchor s).map.pauses } } := by
  unfold tempoAnchor
  split
  · split <;> rfl
  · rfl

theorem tempoAnchor_moves {s : State} {y : Nat} (play : s.plan.play = .segment) (run : runningPause s = none)
    (at_ : positionNow s = some y) : tempoAnchor s = reAnchor s.now y s := by
  have open_ : s.plan.play = .segment ∧ (runningPause s).isNone = true := ⟨play, by rw [run]; rfl⟩
  simp only [tempoAnchor, if_pos open_, at_]

theorem tempoAnchor_stays {s : State}
    (h : s.plan.play ≠ .segment ∨ (runningPause s).isSome = true ∨ positionNow s = none) : tempoAnchor s = s := by
  unfold tempoAnchor
  split
  next open_ =>
    have none_ : positionNow s = none := by
      rcases h with h | h | h
      · exact absurd open_.1 h
      · rw [Option.isNone_iff_eq_none.1 open_.2] at h
        exact absurd h (by decide)
      · exact h
    rw [none_]
  next => rfl

theorem setTempo_eq (p : Nat) (s : State) : setTempo p s = { syncRamps s with
    map := { s.map with anchor := (tempoAnchor (syncRamps s)).map.anchor, pauses := (tempoAnchor (syncRamps s)).map.pauses
                        period := clampPeriod s p }
    follower := { s.follower with lastMatch := none } } := by
  have clamp : clampPeriod (tempoAnchor (syncRamps s)) p = clampPeriod s p := by
    rw [tempoAnchor_frame]
    exact (syncRamps_reads s).2.2 p
  unfold setTempo
  dsimp only
  rw [clamp, tempoAnchor_frame]
  simp only [syncRamps_map, syncRamps_follower]

theorem clampPeriod_eq {s : State} {x : Tune} (h : activeTune s = some x) (p : Nat) : clampPeriod s p =
    if p < x.header.minimum then x.header.minimum else if x.header.maximum < p then x.header.maximum else p := by
  rw [clampPeriod, h]
  rfl

theorem doTempo_refuses {b : List Byte} (s : State) (h : wordAt b 0 < 2000 ∨ 20000 < wordAt b 0) :
    doTempo b s = (s, refuse .badField) := by
  have out : (!inRange (wordAt b 0) 2000 20000) = true := by simp [inRange]; omega
  rw [doTempo, if_pos out]

theorem doTempo_in_range {b : List Byte} (s : State) (low : 2000 ≤ wordAt b 0) (high : wordAt b 0 ≤ 20000) : doTempo b s =
    if s.plan.play = .idle then (s, refuse .notPlaying)
    else (settle s (mapChanged (setTempo (wordAt b 0) s)),
      ok (e16 (clampPeriod s (wordAt b 0)) ++ e16 (tempoReport (clampPeriod s (wordAt b 0))))) := by
  have in_ : ¬(!inRange (wordAt b 0) 2000 20000) = true := by simp [inRange, low, high]
  rw [doTempo, if_neg in_]

/-- Settles O26. -/
theorem tempoMovesPeriod : Obligations.TempoMovesPeriod := by
  rintro t tag p1 p0 s hs a rfl p hp
  have word : wordAt [p1, p0] 0 = p := hp.symm
  rw [← word]
  refine ⟨fun out => exec_tempo hs (doTempo_refuses _ out),
    fun low high idle => exec_tempo hs ((doTempo_in_range _ low high).trans (if_pos idle)), ?_⟩
  rintro x low high play tune q rfl
  generalize ha : arrive t s = a at *
  have done := exec_tempo (tag := tag) hs (t := t) (p1 := p1) (p0 := p0) (s := s)
    (ha ▸ (doTempo_in_range a low high).trans (if_neg play))
  rw [ha, clampPeriod_eq tune, setTempo_eq, clampPeriod_eq tune] at done
  obtain ⟨position, pause, -⟩ := syncRamps_reads a
  refine ⟨(tempoAnchor (syncRamps a)).map.anchor, (tempoAnchor (syncRamps a)).map.pauses, fun y seg run at_ => ?_,
    fun stays => ?_, done⟩
  · rw [tempoAnchor_moves (by rwa [syncRamps_play]) (pause.trans run) (position.trans at_), syncRamps_now]
    simp only [reAnchor, syncRamps_map]
    exact ⟨trivial, trivial⟩
  · rw [← pause, ← position, ← syncRamps_play a] at stays
    rw [tempoAnchor_stays stays, syncRamps_map]
    exact ⟨rfl, rfl⟩

end Sys2Proof.Machine

/-! PROOFS. The states of a ramp (R171): what a transition leads to, EXPRESS, the idle clock and the ends of DELAY, a step and
HOLD. -/

namespace Sys2Proof.Machine

-- The proofs are elaborated one after another, which keeps the whole text within its memory.
set_option Elab.async false

/-! ### Passing states whose count is 0 -/

section
variable {x : Expression} {sh : Shutter}

theorem passStates_counting (h : suNeeded sh ≠ some 0) (n : Nat) : passStates x n sh = sh := by
  cases n with
  | zero => rfl
  | succ n => exact if_neg h

theorem passStates_passed (h : suNeeded sh = some 0) (n : Nat) :
    passStates x (n + 1) sh = passStates x n (rampTransition x sh) := if_pos h

end

section
variable {x : Expression} {r : Ramp} {st u p n : Nat} {q : Option Ramp} (len : 0 < r.stepLength)
include len

theorem passStates_runsAt {before : Shutter} (hq : before.queued = q) :
    RunsAt r st u before (passStates x (n + 2) ⟨p, .active r (.run st) 0, q, u⟩) p := by
  subst hq
  refine ⟨fun apart => ?_, fun there hold => ?_, fun there none_ last => ?_⟩
  · have counts : suNeeded ⟨p, .active r (.run st) 0, before.queued, u⟩ ≠ some 0 := by
      simp only [suNeeded, if_neg apart]
      simpa using Nat.ne_of_gt len
    exact passStates_counting counts _
  all_goals
    rw [passStates_passed (by simp only [suNeeded, if_pos there])]
    simp only [rampTransition, if_pos there]
  · exact passStates_counting (by simpa [suNeeded] using Nat.ne_of_gt hold) _
  · rw [passStates_passed (by simp [suNeeded, none_])]
    simp only [rampTransition, moveUp, last]
    exact passStates_counting (by simp [suNeeded]) _

omit len in
/-- With a hold of 0 and a ramp queued, the step passes to the queued ramp's DELAY. -/
theorem passStates_movesOn {q : Ramp} (there : st = r.toStep) (none_ : r.hold = 0) :
    passStates x (n + 2) ⟨p, .active r (.run st) 0, some q, u⟩ = passStates x n ⟨p, .active q .delay 0, none, u⟩ := by
  rw [passStates_passed (by simp only [suNeeded, if_pos there])]
  simp only [rampTransition, if_pos there]
  rw [passStates_passed (by simp [suNeeded, none_])]
  rfl

end

theorem passStates_delay {x : Expression} {r : Ramp} {u p : Nat} {q : Option Ramp} (h : 0 < r.delay) (n : Nat) :
    passStates x n ⟨p, .active r .delay 0, q, u⟩ = ⟨p, .active r .delay 0, q, u⟩ :=
  passStates_counting (by simpa [suNeeded] using Nat.ne_of_gt h) n

theorem passStates_noDelay {x : Expression} {r : Ramp} {u p : Nat} {q : Option Ramp} (h : r.delay = 0) (n : Nat) :
    passStates x (n + 1) ⟨p, .active r .delay 0, q, u⟩ =
      passStates x n ⟨curveAt x r.curve (startStep x r p), .active r (.run (startStep x r p)) 0, q, u⟩ :=
  passStates_passed (by simp [suNeeded, h]) n

theorem passStates_movesUp (x : Expression) (q : Ramp) (p left n : Nat) :
    MovesUp x q p left (passStates x (n + 3) ⟨p, .active q .delay 0, none, left⟩) := by
  refine ⟨fun h => passStates_delay h _, fun h len st hst => ?_⟩
  rw [passStates_noDelay h, show startStep x q p = st from hst.symm]
  exact passStates_runsAt len rfl

theorem passStates_comesTo {x : Expression} {r : Ramp} {st left : Nat} {before : Shutter} (len : 0 < r.stepLength) (n : Nat) :
    ComesTo x r st left before
      (passStates x (n + 5) ⟨curveAt x r.curve st, .active r (.run st) 0, before.queued, left⟩) := by
  refine ⟨passStates_runsAt len rfl, fun there none_ q hq => ?_⟩
  rw [hq, passStates_movesOn there none_]
  exact passStates_movesUp _ _ _ _ _

/-- The transition of an active ramp, with the states it passes, is the one R171 gives. -/
theorem rampTransition_moves {x : Expression} {r : Ramp} {phase : RampPhase} {c left : Nat} {before : Shutter}
    (h : before.running = .active r phase c) (apart : ∀ step, phase = .run step → step ≠ r.toStep) (len : 0 < r.stepLength)
    (n : Nat) : RampMoves x r phase left before (passStates x (n + 5) (rampTransition x { before with uncounted := left })) := by
  cases phase with
  | delay =>
    rintro st rfl
    simp only [rampTransition, h]
    exact passStates_comesTo len n
  | run step =>
    rintro st rfl
    simp only [rampTransition, h, if_neg (apart step rfl)]
    exact passStates_comesTo len n
  | hold =>
    refine ⟨fun none_ => ?_, fun q hq => ?_⟩
    · simp only [rampTransition, h, moveUp, none_]
      exact passStates_counting (by simp [suNeeded]) _
    · simp only [rampTransition, h, moveUp, hq]
      exact passStates_movesUp _ _ _ _ _

/-! ### Counting -/

theorem suNeeded_active {sh : Shutter} {r : Ramp} {phase : RampPhase} {c : Nat} (h : sh.running = .active r phase c)
    (apart : ∀ step, phase = .run step → step ≠ r.toStep) : suNeeded sh = some (rampCount r phase - c) := by
  cases phase with
  | delay => simp only [suNeeded, h, rampCount]
  | run step => simp only [suNeeded, h, rampCount, if_neg (apart step rfl)]
  | hold => simp only [suNeeded, h, rampCount]

theorem rampTransition_uncounted {x : Expression} {sh : Shutter} (h : sh.uncounted = 0) : (rampTransition x sh).uncounted = 0 := by
  unfold rampTransition
  split
  · exact h
  · exact h
  · split <;> exact h
  · unfold moveUp
    split
    · rfl
    · exact h

theorem countRisen_stays {x : Expression} {sh : Shutter} (h : rampMove x sh = none) (n : Nat) : countRisen x n sh = sh := by
  cases n with
  | zero => rfl
  | succ n => simp only [countRisen, h]

theorem countRisen_moves {x : Expression} {sh sh' : Shutter} (h : rampMove x sh = some sh') (n : Nat) :
    countRisen x (n + 1) sh = countRisen x n sh' := by simp only [countRisen, h]

/-- With no su left to count, counting passes the states whose count is 0 and no more. -/
theorem countRisen_uncounted {x : Expression} {sh : Shutter} (h : sh.uncounted = 0) (n : Nat) :
    countRisen x n sh = passStates x n sh ∧ (countRisen x n sh).uncounted = 0 := by
  induction n generalizing sh with
  | zero => exact ⟨rfl, h⟩
  | succ n ih =>
    have same : ({ sh with uncounted := 0 } : Shutter) = sh := by rw [← h]
    by_cases pass : suNeeded sh = some 0
    · have move : rampMove x sh = some (rampTransition x sh) := by simp [rampMove, pass, h, same]
      rw [passStates_passed pass, countRisen_moves move]
      exact ih (rampTransition_uncounted h)
    · have stay : rampMove x sh = none := by
        unfold rampMove
        split
        · rfl
        next m hm => rw [if_neg (by rw [h]; rintro k; exact pass (by rw [hm, Nat.le_zero.1 k]))]
      rw [passStates_counting pass, countRisen_stays stay]
      exact ⟨rfl, h⟩

theorem absorb_uncounted {sh : Shutter} (h : sh.uncounted = 0) : absorb sh = sh := by
  obtain ⟨p, running, q, u⟩ := sh
  obtain rfl : u = 0 := h
  cases running <;> rfl

/-- One su of the idle clock counted by an active ramp. -/
theorem settleShutter_rise {x : Expression} {sh : Shutter} {r : Ramp} {phase : RampPhase} {c : Nat}
    (h : sh.running = .active r phase c) (none_ : sh.uncounted = 0)
    (apart : ∀ step, phase = .run step → step ≠ r.toStep) :
    (c + 1 < rampCount r phase → settleShutter x (riseShutter 1 sh) = { sh with running := .active r phase (c + 1) }) ∧
    (c + 1 = rampCount r phase → 0 < r.stepLength → RampMoves x r phase 0 sh (settleShutter x (riseShutter 1 sh))) := by
  have risen : riseShutter 1 sh = { sh with uncounted := 1 } := by rw [riseShutter, h]; simp [none_]
  have needs : suNeeded { sh with uncounted := 1 } = some (rampCount r phase - c) := suNeeded_active (sh := { sh with uncounted := 1 }) h apart
  rw [risen]
  refine ⟨fun more => ?_, fun last len => ?_⟩
  · have stay : rampMove x { sh with uncounted := 1 } = none := by
      simp only [rampMove, needs]
      exact if_neg (by omega)
    rw [settleShutter, countRisen_stays stay]
    simp only [absorb, h]
    rw [← none_]
  · have move : rampMove x { sh with uncounted := 1 } = some (rampTransition x { sh with uncounted := 0 }) := by
      simp only [rampMove, needs]
      rw [if_pos (by omega), show rampCount r phase - c = 1 by omega]
    obtain ⟨passed, counted⟩ := countRisen_uncounted (x := x) (rampTransition_uncounted (x := x)
      (sh := { sh with uncounted := 0 }) rfl) 511
    rw [settleShutter, countRisen_moves move 511, absorb_uncounted counted, passed]
    exact rampTransition_moves h apart len 506

/-! ### The events of a ramp -/

section
variable {s : State} {d : DivNo} {r : Ramp} {phase : RampPhase} {c : Nat}
  (h : (shutter (readClock s) d).running = .active r phase c) (apart : ∀ step, phase = .run step → step ≠ r.toStep)
  (due : rampCount r phase - c ≤ (shutter (readClock s) d).uncounted)
include h apart due

theorem rampDue_of_risen {inState : RampPhase → Bool} (state : inState phase = true) : rampDue inState d s = true := by
  have needs := suNeeded_active h apart
  simp only [rampDue, h, state, needs, Option.any_some, decide_eq_true due, Bool.and_true]

theorem rampAct_eq : rampAct d s = setShutter d (passStates (readClock s).expression passFuel
    (rampTransition (readClock s).expression { shutter (readClock s) d with
      uncounted := (shutter (readClock s) d).uncounted - (rampCount r phase - c) })) (readClock s) := by
  have move := (congrArg (fun n => match n with
    | none => none
    | some n => if n ≤ (shutter (readClock s) d).uncounted then some (rampTransition (readClock s).expression
        { shutter (readClock s) d with uncounted := (shutter (readClock s) d).uncounted - n }) else none)
    (suNeeded_active h apart)).trans (if_pos due)
  unfold rampAct
  dsimp only
  rw [show rampMove _ _ = _ from move]

end

theorem readClock_curves (s : State) : ∃ v, (readClock s).expression = { s.expression with shutters := v } := by
  unfold readClock
  split
  · exact ⟨_, rfl⟩
  · exact ⟨_, rfl⟩

/-- Settles O46: the idle clock's tick counts one su on every ramp, and a completed count brings the transition of R171. -/
theorem rampsCount : Obligations.RampsCount := by
  rintro t s runs a rfl
  refine ⟨fun idle at_ fresh => ?_, fun d r phase c h apart due len => ?_⟩
  · have acts := event_acts (t := t) (p := idleTickDue) idleTick runs (by simp only [idleTickDue, idle, at_, fresh]; rfl)
    generalize arrive t s = a at *
    refine ⟨mapIdx (fun _ sh => settleShutter a.expression (riseShutter 1 sh)) a.expression.shutters, fun d rest none_ => ?_,
      fun d r phase c h none_ apart => ?_, acts⟩
    · rw [Fin.getElem_fin, mapIdx_getElem]
      change settleShutter _ (riseShutter 1 (shutter a d)) = _
      have still : riseShutter 1 (shutter a d) = shutter a d := by rw [riseShutter, rest]
      rw [still, settleShutter, countRisen_idle rest, absorb_uncounted none_]
    · rw [Fin.getElem_fin, mapIdx_getElem]
      exact settleShutter_rise h none_ apart
  · have acts (inState : RampPhase → Bool) (state : inState phase = true) :=
      event_acts (t := t) (p := rampDue inState d) (rampAct d) runs (rampDue_of_risen h apart due state)
    rw [rampAct_eq h apart due] at acts
    generalize arrive t s = a at *
    obtain ⟨v, hv⟩ := readClock_curves a
    have tables (y : Vector Shutter 6) : { (readClock a).expression with shutters := y } = { a.expression with shutters := y } := by
      rw [hv]
    have same : RampMoves (readClock a).expression r phase = RampMoves a.expression r phase := by
      rw [hv]
      rfl
    refine ⟨_, same ▸ rampTransition_moves h apart len 3, ?_⟩
    rintro u rfl
    rw [← tables]
    exact ⟨fun e => acts RampPhase.isDelay (e ▸ rfl), fun _ e => acts RampPhase.isRun (e ▸ rfl),
      fun e => acts RampPhase.isHold (e ▸ rfl)⟩

/-! ### EXPRESS -/

theorem Examines.isSome_iff {n : Nat} {cs : List (Nat × Bool)} {ps : List Prop} (h : Examines n cs ps) :
    (firstFailing cs).isSome = true ↔ ¬AllHold ps := by
  refine ⟨fun some_ all => ?_, fun fails => ?_⟩
  · rw [h.accepts all] at some_
    exact absurd some_ (by decide)
  · obtain ⟨place, first⟩ := (allHold_or_firstFails ps).resolve_left fails
    rw [h.refuses first]
    rfl

theorem expressRefusal_badField {b : List Byte} (s : State)
    (h : ¬(byteAt b 0 ≤ 5 ∧ byteAt b 1 ≤ 1 ∧ AllHold (rampRanges b 2))) : expressRefusal b s = some .badField := by
  refine if_pos ?_
  rw [(rampChecks_examine b 2 2).isSome_iff]
  by_cases hd : byteAt b 0 ≤ 5
  · by_cases hf : byteAt b 1 ≤ 1
    · exact .inr (.inr fun all => h ⟨hd, hf, all⟩)
    · exact .inr (.inl (by omega))
  · exact .inl (by omega)

theorem expressRefusal_eq {b : List Byte} {s : State} {d : DivNo}
    (h : byteAt b 0 ≤ 5 ∧ byteAt b 1 ≤ 1 ∧ AllHold (rampRanges b 2)) (hd : d.val = byteAt b 0) : expressRefusal b s =
      if !enclosed s d then some .notEnclosed else if yielded s then some .busy else none := by
  obtain ⟨division, form, ramp⟩ := h
  rw [expressRefusal, if_neg, toFin_of_eq_val hd.symm]
  rw [(rampChecks_examine b 2 2).isSome_iff]
  rintro (out | out | out)
  · omega
  · omega
  · exact out ramp

theorem exec_express {s u : State} {t : Time} {tag : Byte} {b : List Byte} {x : Answer} (hs : Listens s) (hb : b.length = 10)
    (hx : doExpress b (if byteAt b 1 = 1 then placeNext else placeNow) (arrive t s) = (u, x)) {c : Instr}
    (hc : c = if byteAt b 1 = 1 then Instr.expressNext t tag b else .expressNow t tag b) :
    exec c s = .next (answer 0x16 tag x.status x.fields u) := by
  subst hc
  have fits : bodyFits b = true := by simp [bodyFits, hb, Config.maxBody]
  have allowed : lengthAllowed 0x16 b = true := by simp [lengthAllowed, hb]
  have form : isExpressNext b = decide (byteAt b 1 = 1) := by
    rw [isExpressNext, hb, beq_self_eq_true, Bool.true_and, Bool.eq_iff_iff, beq_iff_eq, decide_eq_true_iff]
    exact ⟨fun k => by rw [byteAt, k]; rfl, fun k => BitVec.eq_of_toNat_eq k⟩
  by_cases next : byteAt b 1 = 1
  · rw [if_pos next] at hx ⊢
    have taken := request_taken (t := t) (f := ⟨0x16, tag, b⟩) (doExpress b placeNext) hs fits
      (form.trans (decide_eq_true next)) allowed
    rw [hx] at taken
    exact taken
  · rw [if_neg next] at hx ⊢
    have taken := request_taken (t := t) (f := ⟨0x16, tag, b⟩) (doExpress b placeNow) hs fits
      (by rw [form, decide_eq_false next]; rfl) allowed (mine := !isExpressNext b)
    rw [hx] at taken
    exact taken

theorem doExpress_refuses {b : List Byte} {s : State} {st : Status} (place : Expression → Ramp → Shutter → Shutter)
    (h : expressRefusal b s = some st) : doExpress b place s = (s, refuse st) := by simp only [doExpress, h]

theorem doExpress_places {b : List Byte} {s : State} {d : DivNo} (place : Expression → Ramp → Shutter → Shutter)
    (h : expressRefusal b s = none) (hd : d.val = byteAt b 0) : doExpress b place s =
      (setShutter d (place (syncRamps s).expression (rampAt b 2) (shutter (syncRamps s) d)) (syncRamps s),
        ok (e8 (place (syncRamps s).expression (rampAt b 2) (shutter (syncRamps s) d)).running.code ++
          eFlag (place (syncRamps s).expression (rampAt b 2) (shutter (syncRamps s) d)).queued.isSome)) := by
  obtain rfl := toFin_of_eq_val hd.symm
  simp only [doExpress, h]

theorem placeNow_delays {x : Expression} {r : Ramp} {sh : Shutter} (h : 0 < r.delay) :
    placeNow x r sh = ⟨sh.position, .active r .delay 0, none, 0⟩ := passStates_delay h _

theorem placeNow_runs {x : Expression} {r : Ramp} {sh y : Shutter} (h : r.delay = 0) (len : 0 < r.stepLength)
    (none_ : y.queued = none) {st : Nat} (hst : st = startStep x r sh.position) :
    RunsAt r st 0 y (placeNow x r sh) (curveAt x r.curve st) := by
  rw [placeNow, passStates_noDelay h 7, ← hst]
  exact passStates_runsAt len none_ (n := 5)

theorem placeNext_idle {x : Expression} {r : Ramp} {sh : Shutter} (h : sh.running = .idle) : placeNext x r sh = placeNow x r sh := by
  simp only [placeNext, h]

theorem placeNext_running {x : Expression} {r : Ramp} {sh : Shutter} (h : sh.running ≠ .idle) :
    placeNext x r sh = { sh with queued := some r } := by
  unfold placeNext
  split
  · contradiction
  · rfl

/-- Settles O31. -/
theorem expressPlaces : Obligations.ExpressPlaces := by
  rintro t tag b s hs hb a rfl ranges rfl
  refine ⟨fun out c hc => exec_express hs hb (doExpress_refuses _ (expressRefusal_badField _ out)) hc, fun in_ d hd c hc => ?_⟩
  have refusal := expressRefusal_eq (s := arrive t s) in_ hd
  refine ⟨fun closed => ?_, fun present encl gone => ?_, fun present encl free => ?_⟩
  · have shut : enclosed (arrive t s) d = false := by
      rw [enclosed, Bool.and_eq_false_iff]
      exact closed
    rw [shut] at refusal
    exact exec_express hs hb (doExpress_refuses _ refusal) hc
  · have open_ : enclosed (arrive t s) d = true := by rw [enclosed, present, encl]; rfl
    rw [open_, gone] at refusal
    exact exec_express hs hb (doExpress_refuses _ refusal) hc
  · have open_ : enclosed (arrive t s) d = true := by rw [enclosed, present, encl]; rfl
    rw [open_, free] at refusal
    have done := exec_express hs hb (doExpress_places _ refusal hd) hc
    clear refusal hc open_
    generalize arrive t s = a at *
    obtain ⟨n, y, hy⟩ := syncRamps_eq a
    have tables : (syncRamps a).expression = { a.expression with shutters := y } := congrArg State.expression hy
    have len : 0 < (rampAt b 2).stepLength := in_.2.2.2.2.1.1
    have curve : byteAt b (2 + 7) ≤ 7 := in_.2.2.2.2.2.2.2.1
    generalize hsh : (if byteAt b 1 = 1 then placeNext else placeNow) (syncRamps a).expression (rampAt b 2)
      (shutter (syncRamps a) d) = sh at done
    refine ⟨rampAt b 2, sh, spellsRamp_rampAt curve, fun now => ?_, fun next running => ?_, fun v hv => hv ▸ done⟩
    · have placed : sh = placeNow (syncRamps a).expression (rampAt b 2) (shutter (syncRamps a) d) := by
        rw [← hsh]
        split
        next next => exact placeNext_idle (now.resolve_left (by omega))
        next => rfl
      rw [placed]
      refine ⟨placeNow_delays, ?_⟩
      rintro none_ z rfl st hst
      rw [tables]
      exact placeNow_runs none_ len rfl hst
    · rw [← hsh, if_pos next, placeNext_running running]

end Sys2Proof.Machine

/-! PROOFS. The console yield (chapter 11): the start of a hymn, which an end of the yield in IDLE may bring, what a source that
takes the organ makes every block give up, the rejoin point, the CT filter and the way back. -/

namespace Sys2Proof.Machine

-- The proofs are elaborated one after another, which keeps the whole text within its memory.
set_option Elab.async false

/-! ### The start of a hymn (R25) -/

theorem stopChanges_frame (want : DivNo → Option StopSet) (s : State) : stopChanges want s = { s with
    drivers := { s.drivers with divisions := (stopChanges want s).drivers.divisions } } :=
  touches_iff_merge.1 (stopChanges_touches want s)

theorem changedStops_if {c : Prop} [Decidable c] (now : Time) (r : StopSet) (x : Division) :
    changedStops now (if c then some r else none) x = if c then { x with
      drawn := r &&& existing x, stopState := .changing (now + BitVec.ofNat 32 x.stopAction) } else x := by
  split <;> rfl

/-- The stops that a registration draws, drawn again, are the same. -/
theorem drawn_again (x : Division) (r : StopSet) : drawsOn x r &&& existing x = r &&& existing x := by
  rw [drawsOn, BitVec.and_assoc, BitVec.and_self]

theorem changedStops_startStops (g : Segment) (v : State) (d : DivNo) : changedStops v.now (startStops g v d) (div v d) =
    if (div v d).present = true ∧ (div v d).drawn ≠ drawnBy v g.registration d
    then { div v d with
      drawn := drawnBy v g.registration d, stopState := .changing (v.now + BitVec.ofNat 32 (div v d).stopAction) }
    else div v d := by
  rw [startStops, changedStops_if, setDraws, drawn_again]
  simp only [Bool.and_eq_true, bne_iff_ne]
  rfl

theorem hymnStart_begun {p : Plan} {x : Tune} {v : State} (hx : slot v p.slot = .ready x) :
    HymnBegun p x v (hymnStart p x v) := by
  have tune (w : State) (hp : w.plan.active = some p) (hs : w.store = v.store) : activeEvents w = x.events := by
    have hw : activeTune w = some x := by
      rw [activeTune, hp, Option.bind_some, tuneOf_eq_some, slot, hs]
      exact hx
    rw [activeEvents, hw]
    rfl
  rw [hymnStart_eq]
  generalize hg : (runningOrder p x)[0]? = first
  cases first with
  | none =>
    refine ⟨rfl, rfl, rfl, rfl, fun g h => ?_, rfl⟩
    rw [List.head?_eq_getElem?, hg] at h
    cases h
  | some g =>
    dsimp only
    have divs := div_stopChanges (startStops g (hymnPlaced p x v)) (hymnPlaced p x v)
    have frame := stopChanges_frame (startStops g (hymnPlaced p x v)) (hymnPlaced p x v)
    generalize stopChanges (startStops g (hymnPlaced p x v)) (hymnPlaced p x v) = w at divs frame ⊢
    refine ⟨?_, ?_, ?_, ?_, fun g' h => ?_, ?_⟩
    · rw [frame]; rfl
    · rw [frame]; rfl
    · rw [frame]; rfl
    · rw [frame]; rfl
    · rw [List.head?_eq_getElem?, hg] at h
      cases h
      refine ⟨?_, fun d => ?_⟩
      · have active : w.plan.active = some p := by rw [frame]; rfl
        have store : w.store = v.store := by rw [frame]; rfl
        have order : segmentAt w 0 = some g := by rw [frame]; exact hg
        change cursorAtStart w 0 = _
        rw [cursorAtStart, order, Option.bind_some, firstEventOf, tune w active store] <;> rfl
      · refine (divs d).trans ?_
        exact changedStops_startStops g v d
    · rw [frame]; rfl

/-! ### The CT filter and the rejoin time -/

/-- Settles O35. -/
theorem filterAndRejoin : Obligations.FilterAndRejoin := by
  rintro t s runs a rfl
  refine ⟨fun level f other on off => ?_, fun p state point reached verse hv => ?_⟩
  · have moved : filterChange level (arrive t s) = f := by
      cases level with
      | true =>
        rw [on rfl]
        unfold filterChange
        rw [arrive_yielding]
        cases s.yielding.filter <;> rfl
      | false =>
        rw [off rfl]
        unfold filterChange
        rw [arrive_yielding, arrive_follower]
        cases s.yielding.filter <;> rfl
    have acts := event_acts (t := t) (p := fun s => s.ct != level) (changeCt level) runs (by simp [other])
    rw [changeCt, moved] at acts
    exact (if_neg (ne_true_of_eq_false runs)).trans acts
  · have due : rejoinDue (arrive t s) = true := by
      rw [rejoinDue, Bool.or_eq_true]
      rcases reached with ⟨time, ht, come⟩ | ⟨c, hc, lt⟩
      · right
        rw [rejoinTimeOf, arrive_yielding, if_pos state, point, Option.bind_some, ht]
        exact come
      · left
        simp only [rejoinPassed, arrive_yielding, state, point, hc, Option.any_some, lt, decide_true]
        rfl
    have acts := event_acts (t := t) (p := rejoinDue) rejoined runs due
    refine acts.trans ?_
    have verses : (segmentAt (arrive t s) p.segment).elim 0 (·.verse) = verse := by
      rw [hv]
      cases segmentAt (arrive t s) p.segment <;> rfl
    have point' : (arrive t s).yielding.rejoin = some p := by rw [arrive_yielding, point]
    simp only [rejoined, point', verses]
    rfl

/-! ### A source takes the organ (R194) -/

/-- A notice is made from the link alone, so it may be made before or after a change of another part. -/
theorem notice_setRun (n : Notice) (s : State) (r : Option LevelRun) : notice n (setRun r s) = setRun r (notice n s) := by
  by_cases room : noticeCount s.link < 16
  · rw [notice_of_room n room, notice_of_room (s := setRun r s) n room]
    rfl
  · rw [notice_of_full n (Nat.not_lt.1 room), notice_of_full (s := setRun r s) n (Nat.not_lt.1 room)]
    rfl

theorem levelYield_noRun {w : State} (h : ∀ r, w.levelling.run = some r → r.phase = .done) : levelYield w = setRun none w := by
  unfold levelYield onRun
  split
  next r hr => exact congrArg (setRun none) (if_pos (h r hr))
  next hr => rw [setRun, ← hr]

theorem levelYield_aborts {w : State} {r : LevelRun} (hr : w.levelling.run = some r) (running : r.phase ≠ .done) :
    levelYield w = notice (.levelDone ⟨r.division, r.stop, r.key, r.mic, r.trials, .aborted .yield r.phase r.measured⟩)
      { w with levelling := { w.levelling with
          run := none
          last := some ⟨r.division, r.stop, r.key, r.mic, r.trials, .aborted .yield r.phase r.measured⟩ } } := by
  simp only [levelYield, onRun, hr, if_neg running, reportLevel]
  exact (notice_setRun _ _ _).symm

theorem yieldDivision_handedOver (x : Division) : handedOver x (yieldDivision x) := by
  refine ⟨rfl, fun k => ?_⟩
  simp only [yieldDivision, Fin.getElem_fin, mapIdx_getElem, beq_iff_eq, KeyRecord.released]
  by_cases pending : x.keys[k.val].fault = .clearedPending
  · simp only [if_pos pending]
  · simp only [if_neg pending]

theorem organGiven_reads (s : State) : (organGiven s).levelling = s.levelling ∧
    (organGiven s).follower = { s.follower with cues := [], owed := false, lastPosted := none } ∧
    (organGiven s).yielding = { s.yielding with state := .yielded, rejoin := none } := ⟨rfl, rfl, rfl⟩

theorem organGiven_shutter (s : State) (d : DivNo) :
    shutter (organGiven s) d = ⟨(shutter s d).position, .idle, none, 0⟩ := by
  have same : (organGiven s).expression = (mapShutters (fun _ sh => idleShutter sh) s).expression := rfl
  rw [shutter, same, ← shutter, shutter_mapShutters]
  rfl

theorem organGiven_eq (s : State) : ∃ ds shs, organGiven s = { s with
    queue := []
    follower := { s.follower with cues := [], owed := false, lastPosted := none }
    yielding := { s.yielding with state := .yielded, rejoin := none }
    drivers := { s.drivers with divisions := ds }
    expression := { s.expression with shutters := shs } } := ⟨_, _, rfl⟩

/-- The state that the yield leaves before its notices: what every block gave up, the run gone, and its result kept. -/
def organYielded (v : State) (last : Option LevelDone) : State :=
  { organGiven (syncRamps v) with levelling := { v.levelling with run := none, last := last } }

theorem organYielded_eq (v : State) (last : Option LevelDone) : organYielded v last =
    { organGiven (syncRamps v) with levelling := { (organGiven (syncRamps v)).levelling with run := none, last := last } } := by
  have kept : (organGiven (syncRamps v)).levelling = v.levelling :=
    (organGiven_reads _).1.trans (syncRamps_levelling v)
  rw [kept]
  rfl

theorem grantedNotice_eq (src : YieldSource) (v : State) (last : Option LevelDone) :
    grantedNotice src v.yielding.state (organYielded v last) =
      .yieldGranted src v.yielding.state v.plan.play v.map.current (positionNow v) v.now := by
  obtain ⟨n, x, h⟩ := syncRamps_eq v
  rw [organYielded, h]
  rfl

theorem grantedNotice_link (src : YieldSource) (b : YieldState) (n : Notice) (s : State) :
    grantedNotice src b (notice n s) = grantedNotice src b s := by
  obtain ⟨l, h⟩ := notice_eq n s
  rw [h]
  rfl

theorem grant_noRun {v : State} (src : YieldSource) (h : ∀ r, v.levelling.run = some r → r.phase = .done) :
    grant src v = notice (.yieldGranted src v.yielding.state v.plan.play v.map.current (positionNow v) v.now)
      (organYielded v v.levelling.last) := by
  have kept : (organGiven (syncRamps v)).levelling = v.levelling :=
    (organGiven_reads _).1.trans (syncRamps_levelling v)
  have gone : levelYield (organGiven (syncRamps v)) = organYielded v v.levelling.last := by
    rw [levelYield_noRun (by rwa [kept]), organYielded_eq, ← kept]
    rfl
  rw [← grantedNotice_eq src v v.levelling.last, grant_eq, gone]

theorem grant_aborts {v : State} (src : YieldSource) {r : LevelRun} (hr : v.levelling.run = some r) (running : r.phase ≠ .done)
    {f : LevelDone} (hf : f = ⟨r.division, r.stop, r.key, r.mic, r.trials, .aborted .yield r.phase r.measured⟩) :
    grant src v = notice (.yieldGranted src v.yielding.state v.plan.play v.map.current (positionNow v) v.now)
      (notice (.levelDone f) (organYielded v (some f))) := by
  have kept : (organGiven (syncRamps v)).levelling = v.levelling :=
    (organGiven_reads _).1.trans (syncRamps_levelling v)
  have gone : levelYield (organGiven (syncRamps v)) = notice (.levelDone f) (organYielded v (some f)) := by
    rw [levelYield_aborts (by rwa [kept]) running, organYielded_eq, hf]
  rw [← grantedNotice_eq src v (some f), grant_eq, gone, grantedNotice_link]

theorem organYielded_given (v : State) (last : Option LevelDone) : (organYielded v last).queue = [] ∧
    (∀ d, handedOver (div v d) (div (organYielded v last) d)) ∧
    (∀ d, shutter (organYielded v last) d = ⟨(shutter (syncRamps v) d).position, .idle, none, 0⟩) ∧
    (organYielded v last).follower = { v.follower with cues := [], owed := false, lastPosted := none } ∧
    (organYielded v last).yielding = { v.yielding with state := .yielded, rejoin := none } ∧
    (organYielded v last).levelling.run = none ∧
    { organYielded v last with
      queue := v.queue, follower := v.follower, yielding := v.yielding, levelling := v.levelling
      plan := { (organYielded v last).plan with clockShown := v.plan.clockShown }
      drivers := { (organYielded v last).drivers with divisions := v.drivers.divisions }
      expression := { (organYielded v last).expression with shutters := v.expression.shutters } } = v := by
  obtain ⟨n, x, synced⟩ := syncRamps_eq v
  have follower := syncRamps_follower v
  have yielding := syncRamps_yielding v
  have drivers := syncRamps_drivers v
  unfold organYielded
  generalize syncRamps v = u at *
  obtain ⟨-, follower', yielding'⟩ := organGiven_reads u
  refine ⟨rfl, fun d => ?_, organGiven_shutter u, follower ▸ follower', yielding ▸ yielding', rfl, ?_⟩
  · have same : div u d = div v d := by rw [div, drivers, div]
    exact same ▸ (organGiven_div u d).symm ▸ yieldDivision_handedOver _
  · obtain ⟨ds, shs, given⟩ := organGiven_eq u
    rw [given, synced]

theorem grant_taken (src : YieldSource) (v : State) : YieldTaken src v (grant src v) := by
  by_cases idle : ∀ r, v.levelling.run = some r → r.phase = .done
  · obtain ⟨queue, divisions, shutters, follower, yielding, run, frame⟩ := organYielded_given v v.levelling.last
    refine ⟨_, queue, divisions, shutters, follower, yielding, run, frame, ?_⟩
    rintro granted rfl
    exact ⟨fun r hr running => absurd (idle r hr) running, fun _ => ⟨rfl, grant_noRun src idle⟩⟩
  · obtain ⟨r, hr, running⟩ : ∃ r, v.levelling.run = some r ∧ r.phase ≠ .done := by simpa using idle
    generalize hf : LevelDone.mk r.division r.stop r.key r.mic r.trials (.aborted .yield r.phase r.measured) = f
    obtain ⟨queue, divisions, shutters, follower, yielding, run, frame⟩ := organYielded_given v (some f)
    refine ⟨_, queue, divisions, shutters, follower, yielding, run, frame, ?_⟩
    rintro granted rfl
    refine ⟨?_, fun h => absurd (h r hr) running⟩
    rintro r' hr' - f' rfl
    obtain rfl : r' = r := Option.some.inj (hr'.symm.trans hr)
    exact ⟨congrArg some hf.symm, hf ▸ grant_aborts src hr running rfl⟩

theorem closeIfHeld_tested (w : State) : closingTested w (closeIfHeld w) :=
  ⟨fun h => if_neg (ne_true_of_eq_false h), fun h => if_pos h⟩

theorem sourcePresent_taken (src : YieldSource) {s v : State} (hv : v = setSource src true s) :
    (yielded s = true → sourcePresent src s = v) ∧ (yielded s = false → YieldTaken src v (sourcePresent src s)) := by
  subst hv
  refine ⟨fun h => if_pos h, fun h => ?_⟩
  rw [sourcePresent, if_neg (ne_true_of_eq_false h)]
  exact grant_taken src _

theorem touchDue_of_touching {s : State} {t : Time} (h : s.yielding.filter = .touching t) (ct : s.ct = true)
    (come : atOrBefore (t + 50) s.now = true) : touchDue s = true := by
  simp only [touchDue, h, ct, Bool.true_and]
  exact come

/-- Settles O33. -/
theorem sourceTakesOrgan : Obligations.SourceTakesOrgan := by
  rintro t s a rfl
  refine ⟨fun tag hs v hv => ?_, fun t0 runs filter ct come v hv => ?_⟩
  · obtain ⟨stays, takes⟩ := sourcePresent_taken .link (s := arrive t s) hv
    exact ⟨_, _, stays, takes, closeIfHeld_tested _, request_of_handler (f := ⟨0x18, tag, []⟩) (h := doYield) hs rfl rfl rfl⟩
  · obtain ⟨stays, takes⟩ := sourcePresent_taken .pin (s := setFilter .held (arrive t s)) hv
    have due : touchDue (arrive t s) = true :=
      touchDue_of_touching (by rw [arrive_yielding, filter]) (by rw [arrive_ct, ct]) come
    exact ⟨_, _, stays, takes, closeIfHeld_tested _,
      event_acts (t := t) (p := touchDue) (fun s => claim .pin (setFilter .held s)) runs due⟩

/-! ### The rejoin point (R197) -/

/-- A rejoin point with its time, where the map gives its position one. -/
def timed (s : State) (q : RejoinPoint) : Option Candidate := (positionTime s q.segment q.pos false).map fun t => ⟨q, t⟩

theorem timed_point {s : State} {q : RejoinPoint} {c : Candidate} (h : timed s q = some c) : c.point = q := by
  obtain ⟨t, -, rfl⟩ := Option.map_eq_some_iff.1 h
  rfl

theorem candidateAt_eq (s : State) (seg event : Nat) : candidateAt s seg event = (rejoinPointAt s seg event).bind (timed s) := by
  unfold candidateAt rejoinPointAt
  cases (activeEvents s)[event]? <;> rfl

theorem candidates_eq (s : State) : lineCandidates s ++ nextCandidate s = (rejoinPoints s).filterMap (timed s) := by
  unfold rejoinPoints
  rw [List.filterMap_append]
  congr 1
  · unfold lineCandidates
    cases s.map.current with
    | none => rfl
    | some c =>
      cases currentSegment s with
      | none => rfl
      | some g =>
        cases currentLine s with
        | none => rfl
        | some l =>
          simp only [List.filterMap_filterMap, candidateAt_eq]
  · unfold nextCandidate firstEventOf
    cases nextIndex s with
    | none => rfl
    | some n =>
      cases nextSegment s with
      | none => rfl
      | some g =>
        simp only [Option.bind_some, candidateAt_eq]
        cases (activeEvents s).findIdx? (inSegment g) with
        | none => rfl
        | some e =>
          simp only [Option.bind_some]
          cases rejoinPointAt s n e with
          | none => rfl
          | some q =>
            simp only [Option.bind_some, Option.toList_some, List.filterMap_cons, List.filterMap_nil]
            cases timed s q <;> rfl

/-- The largest stop-action time of the present divisions, 0 with none. -/
def IsLargest (s : State) (most : Nat) : Prop :=
  (∀ d, (div s d).present = true → (div s d).stopAction ≤ most) ∧
    (most = 0 ∨ ∃ d, (div s d).present = true ∧ (div s d).stopAction = most)

theorem IsLargest.unique {s : State} {m n : Nat} (hm : IsLargest s m) (hn : IsLargest s n) : m = n := by
  have le {m n : Nat} (hm : IsLargest s m) (hn : IsLargest s n) : m ≤ n := by
    rcases hm.2 with rfl | ⟨d, present, rfl⟩
    · exact Nat.zero_le n
    · exact hn.1 d present
  exact Nat.le_antisymm (le hm hn) (le hn hm)

theorem margin_eq (s : State) : ∃ most, IsLargest s most ∧ margin s = 6690 + most := by
  refine ⟨_, ?_, rfl⟩
  suffices h : ∀ (ds : List DivNo) (m : Nat),
      (∀ d ∈ ds, (div s d).present = true → (div s d).stopAction ≤
        ds.foldl (fun m d => if (div s d).present then max m (div s d).stopAction else m) m) ∧
      m ≤ ds.foldl (fun m d => if (div s d).present then max m (div s d).stopAction else m) m ∧
      (ds.foldl (fun m d => if (div s d).present then max m (div s d).stopAction else m) m = m ∨
        ∃ d, (div s d).present = true ∧
          (div s d).stopAction = ds.foldl (fun m d => if (div s d).present then max m (div s d).stopAction else m) m) by
    obtain ⟨all, -, reached⟩ := h (allFin 6) 0
    exact ⟨fun d => all d (List.mem_finRange d), reached⟩
  intro ds
  induction ds with
  | nil => exact fun m => ⟨fun d h => absurd h (List.not_mem_nil), Nat.le_refl m, .inl rfl⟩
  | cons e ds ih =>
    intro m
    obtain ⟨all, le, reached⟩ := ih (if (div s e).present then max m (div s e).stopAction else m)
    simp only [List.foldl_cons]
    refine ⟨fun d hd present => ?_, ?_, ?_⟩
    · rcases List.mem_cons.1 hd with rfl | hd
      · rw [if_pos present] at le ⊢
        exact Nat.le_trans (Nat.le_max_right _ _) le
      · exact all d hd present
    · refine Nat.le_trans ?_ le
      split
      · exact Nat.le_max_left _ _
      · exact Nat.le_refl m
    · rcases reached with same | ⟨d, present, hd⟩
      · by_cases present : (div s e).present = true
        · rw [if_pos present] at same ⊢
          rw [same]
          rcases Nat.le_total m (div s e).stopAction with h | h
          · exact .inr ⟨e, present, by rw [Nat.max_eq_right h]⟩
          · exact .inl (Nat.max_eq_left h)
        · rw [if_neg present] at same ⊢
          exact .inl same
      · exact .inr ⟨d, present, hd⟩

theorem farEnough_iff (s : State) (q : RejoinPoint) : farEnough s q ↔
    ((timed s q).any fun c => atOrBefore (addTu s.now (margin s : Nat)) c.time) = true := by
  obtain ⟨most, largest, hm⟩ := margin_eq s
  rw [addTu_natCast, hm]
  unfold timed
  constructor
  · rintro ⟨time, most', ht, bound, reached, late⟩
    obtain rfl := IsLargest.unique ⟨bound, reached⟩ largest
    rw [ht]
    exact late
  · intro h
    obtain ⟨c, hc, late⟩ := (Option.any_eq_true _ _).1 h
    obtain ⟨time, ht, rfl⟩ := Option.map_eq_some_iff.1 hc
    exact ⟨time, most, ht, largest.1, largest.2, late⟩

theorem chooseRejoin_eq (s : State) : chooseRejoin s = (rejoinPoints s).find? fun q =>
    (timed s q).any fun c => atOrBefore (addTu s.now (margin s : Nat)) c.time := by
  unfold chooseRejoin
  rw [candidates_eq, List.find?_filterMap]
  cases hq : (rejoinPoints s).find? fun q => (timed s q).any fun c => atOrBefore (addTu s.now (margin s : Nat)) c.time with
  | none => rfl
  | some q =>
    obtain ⟨c, hc, -⟩ := (Option.any_eq_true _ _).1 (List.find?_some (p := fun q =>
      (timed s q).any fun c => atOrBefore (addTu s.now (margin s : Nat)) c.time) hq)
    rw [Option.bind_some, hc, Option.map_some, timed_point hc]

theorem chooseRejoin_none {s : State} (h : ∀ q ∈ rejoinPoints s, ¬farEnough s q) : chooseRejoin s = none := by
  rw [chooseRejoin_eq, List.find?_eq_none]
  exact fun q hq late => h q hq ((farEnough_iff s q).2 late)

theorem chooseRejoin_first {s : State} {before after : List RejoinPoint} {p : RejoinPoint}
    (h : rejoinPoints s = before ++ p :: after) (near : ∀ q ∈ before, ¬farEnough s q) (far : farEnough s p) :
    chooseRejoin s = some p := by
  rw [chooseRejoin_eq, List.find?_eq_some_iff_append]
  refine ⟨(farEnough_iff s p).1 far, before, after, h, fun q hq => ?_⟩
  rw [Bool.not_eq_true', ← Bool.not_eq_true, ← farEnough_iff]
  exact near q hq

/-! ### The last source is gone (R196 to R198) -/

theorem rejoiningAt_eq (p : RejoinPoint) (s : State) : ∃ ds, rejoiningAt p s = { s with
    drivers := { s.drivers with divisions := ds }
    yielding := { s.yielding with state := .rejoining, rejoin := some p }
    expander := { s.expander with cursor := .at_ p.segment p.event, carried := .all none, firstDone := false } } := by
  unfold rejoiningAt
  rw [stopChanges_frame]
  exact ⟨_, rfl⟩

theorem rejoinOwes_rejoiningAt (p q : RejoinPoint) (s : State) : rejoinOwes q (rejoiningAt p s) = rejoinOwes q s := by
  obtain ⟨ds, h⟩ := rejoiningAt_eq p s
  rw [h]
  rfl

theorem rejoinOwes_iff (p : RejoinPoint) (s : State) : rejoinOwes p s = true ↔ s.map.current = some p.segment ∧
    (∃ g, currentSegment s = some g ∧ g.follow = .follow) ∧ ∃ e, (activeEvents s)[p.event]? = some e ∧ e.cue = false := by
  simp only [rejoinOwes, followsCurrent, Bool.and_eq_true, beq_iff_eq, Option.any_eq_true, Bool.not_eq_true', and_assoc]

theorem rejoiningAt_div {p : RejoinPoint} {s : State} {g : Segment} (playing : s.plan.play ≠ .idle)
    (hg : (if s.plan.play = .starting then segmentAt s 0 else currentSegment s) = some g) (d : DivNo) :
    div (rejoiningAt p s) d = if (div s d).present = true
      then { div s d with
        drawn := drawnBy s g.registration d, stopState := .changing (s.now + BitVec.ofNat 32 (div s d).stopAction) }
      else div s d := by
  have registration : rejoinRegistration s = some g.registration := by
    unfold rejoinRegistration
    cases h : s.plan.play with
    | idle => exact absurd h playing
    | starting =>
      rw [if_pos h] at hg
      simp only [hg, Option.map_some]
    | segment | rest | closing =>
      rw [if_neg (by rw [h]; decide)] at hg
      simp only [hg, Option.map_some]
  refine (div_stopChanges _ s d).trans ?_
  rw [rejoinStops, registration, Option.map_some, changedStops_if, setDraws, drawn_again]
  rfl

theorem sourcesGone_idle {v : State} (idle : v.plan.play = .idle) : SourcesGone v (startQueued (releaseYield v)) := by
  refine ⟨fun _ => ?_, fun k => absurd idle k, fun _ _ _ k => absurd idle k⟩
  rintro w rfl
  change (v.plan.queued = false → startQueued (releaseYield v) = releaseYield v) ∧
    ∀ p x, v.plan.queued = true → v.plan.staged = some p → slot v p.slot = .ready x →
      HymnBegun p x (releaseYield v) (startQueued (releaseYield v))
  obtain ⟨l, h⟩ := notice_eq (.yieldReleased v.now) (setFree v)
  have released : releaseYield v = { setFree v with link := l } := h
  rw [released]
  refine ⟨fun none_ => ?_, fun p x queued staged ready => ?_⟩
  · have shut : ¬(({ setFree v with link := l } : State).plan.queued && !yielded { setFree v with link := l }) = true := by
      rw [show ({ setFree v with link := l } : State).plan.queued = false from none_]
      exact Bool.false_ne_true
    rw [startQueued, if_neg shut]
  · have open_ : (({ setFree v with link := l } : State).plan.queued && !yielded { setFree v with link := l }) = true := by
      rw [show ({ setFree v with link := l } : State).plan.queued = true from queued]
      rfl
    have start : startable { setFree v with link := l } = some (p, x) := startable_some staged ready
    have started : startQueued { setFree v with link := l } = hymnStart p x { setFree v with link := l } := by
      rw [startQueued, if_pos open_, start]
    rw [started]
    exact hymnStart_begun ready

theorem sourcesGone_playing {v : State} (playing : v.plan.play ≠ .idle) (waits : awaiting v = true) :
    SourcesGone v (awaitTest v) := by
  refine ⟨fun k => absurd k playing, fun _ near => ?_, fun before p after _ points near far => ?_⟩
  · rw [awaitTest, if_pos waits, chooseRejoin_none near]
  · have chosen : awaitTest v = enterRejoining p v := by rw [awaitTest, if_pos waits, chooseRejoin_first points near far]
    rw [chosen, enterRejoining_eq, rejoinOwes_rejoiningAt, ← rejoinOwes_iff]
    obtain ⟨ds, h⟩ := rejoiningAt_eq p v
    by_cases owes : rejoinOwes p v = true
    · rw [if_pos owes]
      refine ⟨fun g hg => rejoiningAt_div (p := p) playing hg, ?_, ?_, ?_, ?_⟩
      · rw [h]
      · rw [h]
      · simp [owes]
      · rw [h]
    · rw [if_neg owes]
      refine ⟨fun g hg => rejoiningAt_div (p := p) playing hg, ?_, ?_, ?_, ?_⟩
      · rw [h]
      · rw [h]
      · rw [h]
        simp [owes]
      · rw [h]

theorem sourceAbsent_gone (src : YieldSource) {s v : State} (hv : v = setSource src false s) {c : Prop}
    (hc : c ↔ yielded s = true ∧ anySource s = true ∧ anySource v = false) :
    (c → SourcesGone v (sourceAbsent src s)) ∧ (¬c → sourceAbsent src s = v) := by
  subst hv
  have same : yielded (setSource src false s) = yielded s := by cases src <;> rfl
  have play : (setSource src false s).plan.play = s.plan.play := by cases src <;> rfl
  have cond : (anySource s && awaiting (setSource src false s)) = true ↔ c := by
    rw [hc, awaiting, same]
    simp only [Bool.and_eq_true, Bool.not_eq_true']
    exact and_left_comm
  unfold sourceAbsent
  dsimp only
  refine ⟨fun gone => ?_, fun stays => if_neg (mt cond.1 stays)⟩
  rw [if_pos (cond.2 gone)]
  have waits : awaiting (setSource src false s) = true := (Bool.and_eq_true _ _ ▸ cond.2 gone).2
  rw [← play]
  split
  next idle => exact sourcesGone_idle idle
  next playing => exact sourcesGone_playing playing waits

/-- Settles O34. -/
theorem sourceGivesBack : Obligations.SourceGivesBack := by
  rintro t s a rfl
  refine ⟨fun tag hs v hv => ?_, fun t0 n runs filter ct come v hv => ?_⟩
  · obtain ⟨gone, stays⟩ := sourceAbsent_gone .link (s := arrive t s) hv
      (c := yielded (arrive t s) = true ∧ (arrive t s).yielding.link = true ∧ (arrive t s).yielding.pin = false) (by
        subst hv
        simp only [anySource, Bool.or_eq_true, Bool.or_false]
        cases (arrive t s).yielding.pin <;> simp)
    exact ⟨_, gone, stays, request_of_handler (f := ⟨0x19, tag, []⟩) (h := doResume) hs rfl rfl rfl⟩
  · obtain ⟨gone, stays⟩ := sourceAbsent_gone .pin (s := setFilter .quiet (arrive t s)) hv
      (c := yielded (arrive t s) = true ∧ (arrive t s).yielding.pin = true ∧ (arrive t s).yielding.link = false) (by
        subst hv
        change yielded (arrive t s) = true ∧ _ ↔ yielded (arrive t s) = true ∧ _ ∧ (arrive t s).yielding.link = false
        simp only [anySource, setFilter, Bool.or_eq_true]
        cases (arrive t s).yielding.link <;> simp)
    have due : leavingDue (arrive t s) = true := by
      simp only [leavingDue, arrive_yielding, filter, arrive_ct, ct, Bool.not_false, Bool.true_and, addTu_natCast]
      exact come
    exact ⟨_, gone, stays, event_acts (t := t) (p := leavingDue) (fun s => sourceAbsent .pin (setFilter .quiet s)) runs due⟩

end Sys2Proof.Machine

/-! PROOFS. What a microphone hears (chapter 4): the block, the detector, the floor and the onset it makes, and the onset's way
into the queue. -/

namespace Sys2Proof.Machine

-- The proofs are elaborated one after another, which keeps the whole text within its memory.
set_option Elab.async false

/-! ### The block -/

theorem envelopeOf_eq (xs : List (BitVec 12)) : envelopeOf xs =
    min 4095 (2 * (xs.map fun v => (v.toNat - 2048) + (2048 - v.toNat)).sum / xs.length) := rfl

theorem blockFits_of_turn {m : MicNo} {first : Time} {xs : List (BitVec 12)} {s : State} (on : (mic s m).settings.enable = true)
    (len : xs.length = (mic s m).settings.averaging) (ok : blockOk s.now first xs = true)
    (turn : blockInTurn (mic s m) s.now first xs.length) : blockFits m first xs s = true := by
  obtain ⟨next, begins, done⟩ := turn
  have starts : blockStarts (mic s m) first = true := by
    unfold blockStarts
    cases fresh : (mic s m).fresh with
    | true => simpa using begins fresh
    | false => simpa using next fresh
  have completes : blockCompletes s.now first xs.length = true := by
    simp only [blockCompletes, blockDuration, Bool.or_eq_true, beq_iff_eq]
    exact done
  simp only [blockFits, on, len, ok, starts, Bool.true_and, beq_self_eq_true]
  rw [← len]
  exact completes

theorem atOrBefore_eq (w : Window) (t : Time) : w.holds t = true ↔ atOrBefore w.opens t = true ∧ atOrBefore t w.closes = true := by
  rw [Window.holds, Bool.and_eq_true]

/-! ### The detector and the floor -/

section
variable (now first : Time) (env : Nat) (x : Mic)

theorem gapPassed_iff : gapPassed now first x = true ↔
    ∀ last, x.lastFiring = some last → 2 ^ 30 ≤ diff now last ∨ x.settings.minimumGap ≤ diff first last := by
  unfold gapPassed
  cases x.lastFiring with
  | none => simp
  | some last => simp [isStale]

theorem makesOnset_iff (f : Nat) : (x.floor = some f ∧ makesOnset now first x ((env : Int) - f) = true) ↔
    x.floor = some f ∧ x.fired = false ∧ f + x.settings.rise ≤ env ∧
      ∀ last, x.lastFiring = some last → 2 ^ 30 ≤ diff now last ∨ x.settings.minimumGap ≤ diff first last := by
  rw [← gapPassed_iff]
  simp only [makesOnset, Bool.and_eq_true, Bool.not_eq_true', decide_eq_true_eq, and_assoc]
  have above : ((x.settings.rise : Int) ≤ (env : Int) - f) ↔ f + x.settings.rise ≤ env := by omega
  rw [above]

theorem excessOf_settled {x : Mic} {f : Nat} (h : x.floor = some f) (env : Nat) : excessOf x env = some ((env : Int) - f) := by
  rw [excessOf, h]
  rfl

theorem excessOf_unsettled {x : Mic} (h : x.floor = none) (env : Nat) : excessOf x env = none := by
  rw [excessOf, h]
  rfl

/-- The onset record of a block is made exactly where the detector makes an onset (R64, R66). -/
theorem onsetOf_some {m : MicNo} {f : Nat} (hf : x.floor = some f) (h : MakesOnset x now first env) :
    onsetOf now m env first x = some ⟨first, m, env - f⟩ := by
  obtain ⟨g, hg, rest⟩ := h
  obtain rfl : g = f := Option.some.inj (hg.symm.trans hf)
  have makes := ((makesOnset_iff now first env x g).2 ⟨hg, rest⟩).2
  simp only [onsetOf, excessOf_settled hg, Option.bind_some, makes, if_true, Int.toNat_sub]

theorem onsetOf_none {m : MicNo} (h : ¬MakesOnset x now first env) : onsetOf now m env first x = none := by
  unfold onsetOf
  cases hf : x.floor with
  | none => rw [excessOf_unsettled hf, Option.bind_none]
  | some f =>
    have quiet : ¬makesOnset now first x ((env : Int) - f) = true := fun makes =>
      h ⟨f, (makesOnset_iff now first env x f).1 ⟨hf, makes⟩⟩
    rw [excessOf_settled hf, Option.bind_some, if_neg quiet]

/-- What a block does to a microphone before the detector and the floor. -/
def blockTaken : Mic := { x with
  blockFrom := first + BitVec.ofNat 32 (x.settings.averaging * 5 / 4), fresh := false, envelope := some (env, first)
  gates := x.gates.filter fun w => !isBefore w.closes first }

theorem afterBlock_unsettled (h : x.floor = none) :
    afterBlock now env first x = { blockTaken first env x with floor := some env } := by
  unfold afterBlock blockTaken
  rw [excessOf_unsettled h, h, addTu_natCast]
  rfl

theorem afterBlock_settled {f : Nat} (h : x.floor = some f) : afterBlock now env first x =
    { detect now first (blockTaken first env x) ((env : Int) - f) with
      floor := some (floorAfter x.settings.floorShift env f) } := by
  unfold afterBlock blockTaken
  rw [excessOf_settled h, h, addTu_natCast]
  rfl

theorem detect_frame (e : Int) : detect now first x e = { x with
    fired := (detect now first x e).fired, lastFiring := (detect now first x e).lastFiring } := by
  unfold detect
  split
  · rfl
  · split <;> rfl

/-- The blocks and the windows of a microphone after a block; the floor and the detector are the rest. -/
theorem afterBlock_frame : afterBlock now env first x = { blockTaken first env x with
    floor := (afterBlock now env first x).floor
    fired := (afterBlock now env first x).fired, lastFiring := (afterBlock now env first x).lastFiring } := by
  cases h : x.floor with
  | none => rw [afterBlock_unsettled now first env x h]
  | some f => rw [afterBlock_settled now first env x h, detect_frame]

theorem detect_fired (e : Int) : (detect now first x e).fired =
    if x.fired then !decide (e ≤ x.settings.fall) else decide ((x.settings.rise : Int) ≤ e) := by
  unfold detect
  cases h : x.fired with
  | true => rfl
  | false =>
    by_cases rises : (x.settings.rise : Int) ≤ e
    · simp [rises]
    · simp [rises, h]

theorem detect_lastFiring (e : Int) : (detect now first x e).lastFiring =
    if makesOnset now first x e = true then some first else x.lastFiring := by
  unfold detect makesOnset
  cases h : x.fired with
  | true => rfl
  | false =>
    by_cases rises : (x.settings.rise : Int) ≤ e
    · simp [rises]
    · simp [rises]

theorem afterBlock_heard : Heard x now first env (afterBlock now env first x) := by
  refine ⟨fun h => by rw [afterBlock_unsettled now first env x h]; exact ⟨rfl, rfl, rfl⟩, fun f hf => ?_⟩
  have above : ((x.settings.rise : Int) ≤ (env : Int) - f) ↔ f + x.settings.rise ≤ env := by omega
  have below : ((env : Int) - f ≤ x.settings.fall) ↔ ¬f + x.settings.fall < env := by omega
  rw [afterBlock_settled now first env x hf]
  dsimp only
  rw [detect_fired, detect_lastFiring]
  change some (floorAfter x.settings.floorShift env f) = _ ∧
    (x.fired = true → ((if x.fired then !decide ((env : Int) - f ≤ x.settings.fall)
      else decide ((x.settings.rise : Int) ≤ (env : Int) - f)) = true ↔ _)) ∧
    (x.fired = false → ((if x.fired then !decide ((env : Int) - f ≤ x.settings.fall)
      else decide ((x.settings.rise : Int) ≤ (env : Int) - f)) = true ↔ _)) ∧
    (_ → (if makesOnset now first x ((env : Int) - f) = true then some first else x.lastFiring) = _) ∧
    (_ → (if makesOnset now first x ((env : Int) - f) = true then some first else x.lastFiring) = _)
  refine ⟨rfl, fun on => ?_, fun off => ?_, fun makes => ?_, fun quiet => ?_⟩
  · simp [on, below]
  · simp [off, above]
  · obtain ⟨g, hg, rest⟩ := makes
    obtain rfl : g = f := Option.some.inj (hg.symm.trans hf)
    exact if_pos ((makesOnset_iff now first env x g).2 ⟨hg, rest⟩).2
  · exact if_neg fun makes => quiet ⟨f, (makesOnset_iff now first env x f).1 ⟨hf, makes⟩⟩

end

/-! ### The block acts -/

/-- The state with the microphone after the block. -/
def blockHeard (m : MicNo) (first : Time) (env : Nat) (s : State) : State :=
  setMic m (afterBlock s.now env first (mic s m)) s

theorem takeBlock_quiet {m : MicNo} {first : Time} {xs : List (BitVec 12)} {s : State} (other : isRunMic s m = false)
    (quiet : ¬MakesOnset (mic s m) s.now first (envelopeOf xs)) :
    takeBlock m first xs s = blockHeard m first (envelopeOf xs) s := by
  have mine : ¬isRunMic (blockHeard m first (envelopeOf xs) s) m = true := ne_true_of_eq_false other
  refine (if_neg mine).trans ?_
  rw [onsetOf_none _ _ _ _ quiet]
  rfl

theorem takeBlock_onset {m : MicNo} {first : Time} {xs : List (BitVec 12)} {s : State} {f : Nat} (other : isRunMic s m = false)
    (floor : (mic s m).floor = some f) (makes : MakesOnset (mic s m) s.now first (envelopeOf xs)) :
    takeBlock m first xs s = routeOnset ⟨first, m, envelopeOf xs - f⟩ (blockHeard m first (envelopeOf xs) s) := by
  have mine : ¬isRunMic (blockHeard m first (envelopeOf xs) s) m = true := ne_true_of_eq_false other
  refine (if_neg mine).trans ?_
  rw [onsetOf_some _ _ _ _ floor makes]
  rfl

theorem routeOnset_held {o : Onset} {s : State} (policy : (mic s o.mic).settings.policy = .gate)
    (held : ∃ w ∈ (mic s o.mic).gates, atOrBefore w.opens o.tObs = true ∧ atOrBefore o.tObs w.closes = true) :
    routeOnset o s = countMasked s := by
  obtain ⟨w, hw, inside⟩ := held
  have any : (mic s o.mic).gates.any (·.holds o.tObs) = true := List.any_eq_true.2 ⟨w, hw, (atOrBefore_eq w o.tObs).2 inside⟩
  exact if_pos (by rw [policy, any]; rfl)

theorem routeOnset_free {o : Onset} {s : State} (h : ¬((mic s o.mic).settings.policy = .gate ∧
    ∃ w ∈ (mic s o.mic).gates, atOrBefore w.opens o.tObs = true ∧ atOrBefore o.tObs w.closes = true)) :
    routeOnset o s = queueOnset o s := by
  refine if_neg fun k => h ?_
  rw [Bool.and_eq_true, beq_iff_eq, List.any_eq_true] at k
  obtain ⟨policy, w, hw, inside⟩ := k
  exact ⟨policy, w, hw, (atOrBefore_eq w o.tObs).1 inside⟩

theorem queueOnset_room {o : Onset} {s : State} (h : s.front.onsets.length < 16) :
    queueOnset o s = { s with front := { s.front with onsets := s.front.onsets ++ [o] } } := if_pos h

theorem queueOnset_full {o : Onset} {s : State} (h : 16 ≤ s.front.onsets.length) : queueOnset o s = countOnsetsDropped s :=
  if_neg (Nat.not_lt.2 h)

theorem not_isRunMic {s : State} {m : MicNo} (h : ∀ r, s.levelling.run = some r → r.mic ≠ m) : isRunMic s m = false := by
  unfold isRunMic
  cases hr : s.levelling.run with
  | none => rfl
  | some r => exact beq_eq_false_iff_ne.2 (h r hr)

/-- Settles O38. -/
theorem envelopeBlockHeard : Obligations.EnvelopeBlockHeard := by
  rintro t m first xs s runs a rfl x env rfl henv
  rw [← envelopeOf_eq] at henv
  subst henv
  refine ⟨fun on len ok turn other => ?_, fun last hlast old => ?_⟩
  · have acts := event_acts (t := t) (p := blockFits m first xs) (takeBlock m first xs) runs (blockFits_of_turn on len ok turn)
    have other' := not_isRunMic other
    generalize ha : arrive t s = a at *
    obtain ⟨unsettled, settled⟩ := afterBlock_heard a.now first (envelopeOf xs) (mic a m)
    refine ⟨_, blockHeard m first (envelopeOf xs) a, ?_, rfl, fun none_ => ?_, fun f hf => ?_⟩
    · rw [len]
      exact afterBlock_frame _ _ _ _
    · obtain ⟨floor, fired, lastFiring⟩ := unsettled none_
      refine ⟨floor, fired, lastFiring, ?_⟩
      rw [← takeBlock_quiet other' (by rintro ⟨f, hf, -⟩; rw [none_] at hf; cases hf)]
      exact acts
    · obtain ⟨floor, on_, off_, makes_, quiet_⟩ := settled f hf
      have quiet (h : ¬MakesOnset (mic a m) a.now first (envelopeOf xs)) :
          exec (.envelopeBlock t m first xs) s = .next (blockHeard m first (envelopeOf xs) a) := by
        rw [← takeBlock_quiet other' h]
        exact acts
      refine ⟨floor, fun on => ?_, fun off low => ?_, fun last off rises hlast fresh near => ?_, fun off rises gap => ?_⟩
      · have none_ : ¬MakesOnset (mic a m) a.now first (envelopeOf xs) := by
          rintro ⟨g, -, off, -⟩
          rw [on] at off
          cases off
        exact ⟨on_ on, quiet_ none_, quiet none_⟩
      · have none_ : ¬MakesOnset (mic a m) a.now first (envelopeOf xs) := by
          rintro ⟨g, hg, -, high, -⟩
          obtain rfl : g = f := Option.some.inj (hg.symm.trans hf)
          omega
        exact ⟨by simpa using mt (off_ off).1 (by omega), quiet_ none_, quiet none_⟩
      · have none_ : ¬MakesOnset (mic a m) a.now first (envelopeOf xs) := by
          rintro ⟨g, -, -, -, gap⟩
          have := gap last hlast
          omega
        exact ⟨(off_ off).2 rises, (quiet_ none_).trans hlast, quiet none_⟩
      · have makes : MakesOnset (mic a m) a.now first (envelopeOf xs) := ⟨f, hf, off, rises, gap⟩
        refine ⟨(off_ off).2 rises, makes_ makes, ?_⟩
        rintro held rfl
        rw [takeBlock_onset other' hf makes] at acts
        have heard : mic (blockHeard m first (envelopeOf xs) a) m = afterBlock a.now (envelopeOf xs) first (mic a m) :=
          mic_setMic _ _ _
        have settings : (afterBlock a.now (envelopeOf xs) first (mic a m)).settings = (mic a m).settings := by
          rw [afterBlock_frame]
          rfl
        rw [← settings, ← heard]
        refine ⟨fun ⟨policy, held⟩ => ?_, fun free room => ?_, fun free full => ?_⟩
        · rw [routeOnset_held policy held] at acts
          exact acts
        · rw [routeOnset_free free, queueOnset_room (s := blockHeard m first (envelopeOf xs) a) room] at acts
          exact acts
        · rw [routeOnset_free free, queueOnset_full (s := blockHeard m first (envelopeOf xs) a) full] at acts
          exact acts
  · have acts := event_acts (t := t) (p := staleDue m) (fun s => setMic m { mic s m with lastFiring := none } s) runs
      (by
        rw [staleDue, hlast, Option.any_some, isStale]
        exact decide_eq_true old)
    exact acts

end Sys2Proof.Machine

/-! PROOFS. The levelling run (chapter 10): its deadlines, what its microphone hears, and its result. -/

namespace Sys2Proof.Machine

-- The proofs are elaborated one after another, which keeps the whole text within its memory.
set_option Elab.async false

/-! ### The run's end -/

/-- What a notice makes of the link, it makes of it in every state with that link. -/
theorem notice_link (n : Notice) (k : ServiceLink) : ∃ l, ∀ u : State, u.link = k → notice n u = { u with link := l } := by
  by_cases room : noticeCount k < 16
  · exact ⟨{ k with outgoing := k.outgoing ++ [.notice n] }, fun u hu => by
      rw [notice_of_room n (hu ▸ room), noticed, hu]⟩
  · exact ⟨{ k with lost := true }, fun u hu => by rw [notice_of_full n (hu ▸ Nat.not_lt.1 room), hu]⟩

theorem enterDone_done (r : LevelRun) (o : LevelOutcome) (v : State) : RunDone r o v (enterDone r o v) := by
  refine ⟨_, rfl, ?_⟩
  have kept : keptValues o r.measured = (match o with
      | .noisy _ _ => []
      | .noSound _ _ => []
      | .measured _ _ _ _ _ _ => r.measured
      | .aborted _ _ _ => r.measured) := by cases o <;> rfl
  obtain ⟨l, told⟩ := notice_link (.levelDone ⟨r.division, r.stop, r.key, r.mic, r.trials, o⟩) v.link
  refine Eq.trans ?_ (told _ (by exact rfl)).symm
  rw [enterDone, reportLevel, kept, stopChange, addTu_natCast]
  dsimp only
  rw [told _ (by exact rfl)]
  rfl

/-! ### Deadlines -/

theorem levelEvent {t due : Time} {s : State} {r : LevelRun} {p : LevelRun → Bool} (runs : Runs s)
    (hr : s.levelling.run = some r) (hd : r.deadline = some due) (come : atOrBefore due (arrive t s).now = true)
    (phase : p r = true) (f : LevelRun → State → State) :
    event t (levelDue p) (onRun f) s = .next (f r (arrive t s)) := by
  have run : (arrive t s).levelling.run = some r := by rw [arrive_levelling, hr]
  have acts := event_acts (t := t) (p := levelDue p) (onRun f) runs (by
    simp only [levelDue, run, Option.any_some, phase, hd, come, Bool.true_and])
  rw [acts, onRun, run]

/-- Settles O53. -/
theorem levelDeadlinesPass : Obligations.LevelDeadlinesPass := by
  rintro t s r due runs hr hd a rfl come next hnext
  have acts (p : LevelRun → Bool) (phase : p r = true) (f : LevelRun → State → State) :=
    levelEvent runs hr hd come phase f
  obtain rfl : next = fun x => setRun (some x) (arrive t s) := funext hnext
  refine ⟨fun phase => ⟨fun again => ?_, fun last => ?_⟩, fun phase heard => ?_, fun phase listens => ⟨fun again => ?_, fun last => ?_⟩,
    fun phase => ⟨fun bad => ?_, fun good more => ?_⟩, fun phase => ?_⟩
  · refine (acts (fun r => r.phase == .quietCheck) (by simp [phase]) failNoisy).trans ?_
    rw [failNoisy, if_pos again]
    rfl
  · refine ⟨_, enterDone_done _ _ _, (acts (fun r => r.phase == .quietCheck) (by simp [phase]) failNoisy).trans ?_⟩
    rw [failNoisy, if_neg (Nat.not_lt.2 last)]
  · refine (acts (fun r => r.phase == .sounding && !r.listening) (by simp [phase, heard]) fun r => enterRelease r true).trans ?_
    rw [enterRelease, addTu_natCast]
  · refine (acts (fun r => r.phase == .sounding && r.listening) (by simp [phase, listens]) failNoSound).trans ?_
    rw [failNoSound, if_pos again, enterRelease, addTu_natCast]
  · refine ⟨_, enterDone_done _ _ _, (acts (fun r => r.phase == .sounding && r.listening) (by simp [phase, listens]) failNoSound).trans ?_⟩
    rw [failNoSound, if_neg (Nat.not_lt.2 last)]
  · refine (acts (fun r => r.phase == .release) (by simp [phase]) endRelease).trans ?_
    rw [endRelease, if_neg (by simp [bad]), addTu_natCast]
    simp only [bad, Bool.false_eq_true, if_false]
  · refine (acts (fun r => r.phase == .release) (by simp [phase]) endRelease).trans ?_
    rw [endRelease, if_neg (by omega), addTu_natCast]
    simp only [good, if_true]
  · exact (acts (fun r => r.phase == .spacing) (by simp [phase]) enterQuietCheck).trans rfl

/-! ### The result (R186) -/

theorem spreadOf_eq {vs : List Nat} {lo hi : Nat} (hlo : lo ∈ vs) (least : ∀ x ∈ vs, lo ≤ x) (hhi : hi ∈ vs)
    (most : ∀ x ∈ vs, x ≤ hi) : spreadOf vs = hi - lo := by
  have max : vs.max? = some hi := List.max?_eq_some_iff.2 ⟨hhi, most⟩
  have min : vs.min? = some lo := List.min?_eq_some_iff.2 ⟨hlo, least⟩
  rw [spreadOf, max, min]
  rfl

theorem resultSpeech_eq (vs : List Nat) (tr : Nat) : resultSpeech vs tr = min (averageOf vs - tr) 3000 := by
  unfold resultSpeech clampInt
  split
  · omega
  · split <;> omega

/-- The result of a run after the last good trial (R186). -/
theorem endRelease_result {r : LevelRun} {a : State} (good : r.good = true) (all : r.trials ≤ r.measured.length) :
    endRelease r a = enterDone r (.measured (resultStatus r.measured (travelToMic a r.division r.mic)) r.measured
      (averageOf r.measured) (spreadOf r.measured) (travelToMic a r.division r.mic)
      (resultSpeech r.measured (travelToMic a r.division r.mic)))
      (if resultStatus r.measured (travelToMic a r.division r.mic) = .unsteady then a
       else retime (setDiv r.division { div a r.division with
         speech := resultSpeech r.measured (travelToMic a r.division r.mic) } a)) := by
  rw [endRelease, if_pos ⟨good, all⟩, finishRun]
  cases resultStatus r.measured (travelToMic a r.division r.mic) <;> rfl

/-! ### What the run's microphone hears -/

theorem reportOpening_eq (d : DivNo) (s : State) : reportOpening d s =
    { s with front := { s.front with mics := Vector.ofFn (gatesOpened d s) } } := by
  have mics : mapIdx (withGate s d) s.front.mics = Vector.ofFn (gatesOpened d s) := by
    refine Vector.ext fun i hi => ?_
    rw [Vector.getElem_ofFn, mapIdx_getElem (withGate s d) s.front.mics ⟨i, hi⟩]
    simp only [withGate, gatesOpened, Bool.and_eq_true, beq_iff_eq, gateWindow, addTu_natCast]
    rfl
  rw [reportOpening, mics]

theorem pipeOnset_discards {t : Time} {r : LevelRun} {s : State} (h : ¬(r.phase = .sounding ∧ r.listening = true ∧
    ∃ opening, r.opening = some opening ∧ atOrBefore opening t = true)) : pipeOnset t r s = s := by
  unfold pipeOnset
  split
  · rfl
  next opening hopen =>
    refine if_neg fun k => h ?_
    simp only [Bool.and_eq_true, beq_iff_eq] at k
    obtain ⟨⟨phase, listens⟩, come⟩ := k
    exact ⟨phase, listens, opening, hopen, come⟩

theorem pipeOnset_pipe {t opening : Time} {r : LevelRun} {s : State} (phase : r.phase = .sounding) (listens : r.listening = true)
    (hopen : r.opening = some opening) (come : atOrBefore opening t = true) : pipeOnset t r s = setRun (some { r with
      measured := r.measured ++ [(diff t opening).toNat], listening := false, deadline := some (s.now + 2000) }) s := by
  simp only [pipeOnset, hopen, phase, listens, come, beq_self_eq_true, Bool.and_self, if_true]
  rfl

section
variable {first : Time} {xs : List (BitVec 12)} {s : State} {r : LevelRun} (hr : s.levelling.run = some r)
include hr

theorem takeBlock_run : takeBlock r.mic first xs s =
    (onsetOf s.now r.mic (envelopeOf xs) first (mic s r.mic)).elim
      (quietValue (excessOf (mic s r.mic) (envelopeOf xs)) first (mic s r.mic).settings.fall r
        (blockHeard r.mic first (envelopeOf xs) s))
      fun o => onRun (pipeOnset o.tObs) (quietValue (excessOf (mic s r.mic) (envelopeOf xs)) first
        (mic s r.mic).settings.fall r (blockHeard r.mic first (envelopeOf xs) s)) := by
  have run : (blockHeard r.mic first (envelopeOf xs) s).levelling.run = some r := hr
  have mine : isRunMic (blockHeard r.mic first (envelopeOf xs) s) r.mic = true := by
    rw [isRunMic, run, Option.any_some, beq_self_eq_true]
  refine (if_pos mine).trans ?_
  have on (f : LevelRun → State → State) : onRun f (blockHeard r.mic first (envelopeOf xs) s) =
      f r (blockHeard r.mic first (envelopeOf xs) s) := by rw [onRun, run]
  exact congrArg (fun u => (onsetOf s.now r.mic (envelopeOf xs) first (mic s r.mic)).elim u fun o => onRun (pipeOnset o.tObs) u)
    (on _)

/-- Where the quiet check leaves a run that is not one whose pipe may speak, the onset is discarded. -/
theorem takeBlock_discards {u : State} {x : LevelRun}
    (hu : quietValue (excessOf (mic s r.mic) (envelopeOf xs)) first (mic s r.mic).settings.fall r
      (blockHeard r.mic first (envelopeOf xs) s) = u) (hx : u.levelling.run = some x)
    (h : ¬(MakesOnset (mic s r.mic) s.now first (envelopeOf xs) ∧ x.phase = .sounding ∧ x.listening = true ∧
      ∃ opening, x.opening = some opening ∧ atOrBefore opening first = true)) : takeBlock r.mic first xs s = u := by
  rw [takeBlock_run hr, hu]
  by_cases makes : MakesOnset (mic s r.mic) s.now first (envelopeOf xs)
  · obtain ⟨f, hf, -⟩ := id makes
    rw [onsetOf_some _ _ _ _ hf makes, Option.elim_some, onRun, hx]
    exact pipeOnset_discards fun k => h ⟨makes, k⟩
  · rw [onsetOf_none _ _ _ _ makes, Option.elim_none]

/-- With no onset, the quiet check alone acts. -/
theorem takeBlock_still (quiet : ¬MakesOnset (mic s r.mic) s.now first (envelopeOf xs)) :
    takeBlock r.mic first xs s = quietValue (excessOf (mic s r.mic) (envelopeOf xs)) first (mic s r.mic).settings.fall r
      (blockHeard r.mic first (envelopeOf xs) s) := by
  rw [takeBlock_run hr, onsetOf_none _ _ _ _ quiet, Option.elim_none]

end

/-! ### The quiet check (R181) -/

section
variable {r : LevelRun} {first : Time} {s : State} {fall : Nat} {e : Option Int}

theorem quietValue_later (h : r.phase ≠ .quietCheck) : quietValue e first fall r s = s := by
  have not_ : considered r first = false := by simp [considered, h]
  rw [quietValue, not_]
  rfl

theorem considered_iff {due : Time} (phase : r.phase = .quietCheck) (hd : r.deadline = some due) :
    considered r first = !isBefore first (addTu due (-20000)) := by
  rw [considered, phase, hd, Option.any_some, beq_self_eq_true, Bool.true_and]

variable (h : considered r first = true)
include h

theorem quietValue_loud (loud : ∀ x, e = some x → (fall : Int) < x) :
    quietValue e first fall r s = setRun (some { r with quietStart := none }) s := by
  have above : (!(e.any fun x : Int => decide (x ≤ (fall : Int)))) = true := by
    cases e with
    | none => rfl
    | some x => simpa using loud x rfl
  rw [quietValue, h, if_neg (by decide), if_pos above]

variable {x : Int} (quiet : x ≤ fall)
include quiet

theorem quietValue_quiet : quietValue (some x) first fall r s = (match r.quietStart with
    | none => setRun (some { r with quietStart := some first }) s
    | some q => if 1000 ≤ diff first q then enterSounding r s else s) := by
  have below : ¬(!((some x).any fun x : Int => decide (x ≤ (fall : Int)))) = true := by simpa using quiet
  rw [quietValue, h, if_neg (by decide)]
  exact if_neg below

theorem quietValue_begins (none_ : r.quietStart = none) :
    quietValue (some x) first fall r s = setRun (some { r with quietStart := some first }) s := by
  rw [quietValue_quiet h quiet, none_]

theorem quietValue_goesOn {q : Time} (hq : r.quietStart = some q) (short : diff first q < 1000) :
    quietValue (some x) first fall r s = s := by
  rw [quietValue_quiet h quiet, hq]
  exact if_neg (by omega)

theorem quietValue_passes {q : Time} (hq : r.quietStart = some q) (long : 1000 ≤ diff first q) :
    quietValue (some x) first fall r s = enterSounding r s := by
  rw [quietValue_quiet h quiet, hq]
  exact if_pos long

end

/-! ### The test key opens (R182) -/

theorem sound_iff_isSound (k : KeyRecord) : k.sound = true ↔ isSound k := by
  simp [KeyRecord.sound, isSound]

theorem enterSounding_shorted {r : LevelRun} {s : State} (h : ¬isSound (key s r.division r.key)) :
    RunDone r (.aborted .shorted .sounding r.measured) s (enterSounding r s) := by
  have refused : (!(key s r.division r.key).sound) = true := by
    rw [Bool.not_eq_true', ← Bool.not_eq_true, sound_iff_isSound]
    exact h
  rw [enterSounding, if_pos refused]
  exact enterDone_done { r with phase := .sounding } _ s

section
variable {r : LevelRun} {s : State} (h : isSound (key s r.division r.key))
include h

theorem enterSounding_wind (short : ¬(drivenCount s r.division + 1) * drawnWeight (div s r.division) ≤ (div s r.division).capacity) :
    RunDone r (.aborted .wind .sounding r.measured) s (enterSounding r s) := by
  have allowed : ¬(!(key s r.division r.key).sound) = true := by simpa using (sound_iff_isSound _).2 h
  have refused : (!windAllows s r.division (div s r.division).capacity) = true := by simpa [windAllows] using short
  rw [enterSounding, if_neg allowed, if_pos refused]
  exact enterDone_done { r with phase := .sounding } _ s

theorem enterSounding_opens (passes : (drivenCount s r.division + 1) * drawnWeight (div s r.division) ≤ (div s r.division).capacity) :
    enterSounding r s = { setRun (some { r with
        phase := .sounding, listening := true, opening := some s.now, deadline := some (s.now + 5000) }) s with
      front := { s.front with mics := Vector.ofFn (gatesOpened r.division s) } } := by
  have allowed : ¬(!(key s r.division r.key).sound) = true := by simpa using (sound_iff_isSound _).2 h
  have enough : ¬(!windAllows s r.division (div s r.division).capacity) = true := by simpa [windAllows] using passes
  rw [enterSounding, if_neg allowed, if_neg enough, reportOpening_eq]
  rfl

end

/-- Settles O54. -/
theorem levellingMeasures : Obligations.LevellingMeasures := by
  rintro t s r runs hr a rfl
  refine ⟨?_, ?_⟩
  · rintro due lo hi avg tr time phase good all hd come rfl - hlo least hhi most havg htr speech hspeech stored hstored
    have acts := levelEvent (p := fun r => r.phase == .release) runs hr hd come (by simp [phase]) endRelease
    rw [endRelease_result good all] at acts
    generalize arrive t s = a at *
    have spread := spreadOf_eq hlo least hhi most
    replace havg : avg = averageOf r.measured := havg
    replace htr : tr = travelToMic a r.division r.mic := htr
    have clamped : speech = resultSpeech r.measured tr := by rw [resultSpeech_eq, ← havg, hspeech]
    rw [← htr, ← havg, spread, ← clamped] at acts
    have status : resultStatus r.measured tr = if 200 < hi - lo then .unsteady
        else if (avg : Int) - tr < 0 ∨ 3000 < (avg : Int) - tr then .suspect else .ok := by
      rw [resultStatus, spread, ← havg]
    refine ⟨fun wide => ?_, fun narrow off => ?_, fun narrow low high => ?_⟩
    · rw [if_pos wide] at status
      rw [status, if_pos rfl] at acts
      exact ⟨_, enterDone_done _ _ _, acts⟩
    · rw [if_neg (by omega), if_pos (by omega)] at status
      rw [status, if_neg (by decide)] at acts
      exact ⟨_, hstored ▸ enterDone_done _ _ _, acts⟩
    · rw [if_neg (by omega), if_neg (by omega)] at status
      rw [status, if_neg (by decide)] at acts
      exact ⟨_, hstored ▸ enterDone_done _ _ _, acts⟩
  · rintro first xs env x rfl on len ok turn order henv
    rw [← envelopeOf_eq] at henv
    subst henv
    have acts := event_acts (t := t) (p := blockFits r.mic first xs) (takeBlock r.mic first xs) runs
      (blockFits_of_turn on len ok turn)
    have run : (arrive t s).levelling.run = some r := by rw [arrive_levelling, hr]
    generalize arrive t s = a at *
    refine ⟨_, blockHeard r.mic first (envelopeOf xs) a, afterBlock_heard _ _ _ _, ?_, rfl, fun next hnext => ?_⟩
    · rw [len]
      exact afterBlock_frame _ _ _ _
    have brun : (blockHeard r.mic first (envelopeOf xs) a).levelling.run = some r := run
    obtain rfl : next = fun z => setRun (some z) (blockHeard r.mic first (envelopeOf xs) a) := funext hnext
    refine ⟨fun due phase hd early => ?_, fun phase mute => ?_, fun due phase hd late => ?_, fun opening phase listens hopen makes come => ?_⟩
    · have not_ : considered r first = false := by rw [considered_iff phase hd, early]; rfl
      rw [takeBlock_discards run (if_pos (by rw [not_]; rfl)) brun (by rintro ⟨-, k, -⟩; rw [phase] at k; cases k)] at acts
      exact acts
    · rw [takeBlock_discards run (quietValue_later phase) brun mute] at acts
      exact acts
    · have yes : considered r first = true := by rw [considered_iff phase hd, late]; rfl
      refine ⟨fun loud => ?_, fun f hf quiet => ?_⟩
      · rw [takeBlock_discards run (quietValue_loud yes ?_) rfl (by rintro ⟨-, k, -⟩; rw [phase] at k; cases k)] at acts
        · exact acts
        · rintro e he
          rcases loud with none_ | ⟨f, hf, high⟩
          · rw [excessOf_unsettled none_] at he
            cases he
          · rw [excessOf_settled hf] at he
            obtain rfl := Option.some.inj he
            omega
      · have still : ¬MakesOnset (mic a r.mic) a.now first (envelopeOf xs) := by
          rintro ⟨g, hg, -, high, -⟩
          obtain rfl : g = f := Option.some.inj (hg.symm.trans hf)
          omega
        rw [takeBlock_still run still, excessOf_settled hf] at acts
        have low : ((envelopeOf xs : Int) - f) ≤ (mic a r.mic).settings.fall := by omega
        refine ⟨fun none_ => ?_, fun q hq short => ?_, fun q hq long z hz passes hp => ?_⟩
        · rw [quietValue_begins yes low none_] at acts
          exact acts
        · rw [quietValue_goesOn yes low hq short] at acts
          exact acts
        · rw [quietValue_passes yes low hq long] at acts
          subst hz hp
          refine ⟨fun sound enough => ?_, fun shorted => ⟨_, enterSounding_shorted shorted, acts⟩,
            fun sound short => ⟨_, enterSounding_wind sound short, acts⟩⟩
          rw [enterSounding_opens (s := blockHeard r.mic first (envelopeOf xs) a) sound enough] at acts
          exact acts
    · obtain ⟨f, hf, -⟩ := id makes
      rw [takeBlock_run run, quietValue_later (by rw [phase]; decide), onsetOf_some _ _ _ _ hf makes, Option.elim_some, onRun,
        brun] at acts
      dsimp only at acts
      rw [pipeOnset_pipe phase listens hopen come] at acts
      exact acts

end Sys2Proof.Machine

/-! PROOFS. The coil monitor (R154 to R156): what a scan makes of one key, and the notices of its findings. -/

namespace Sys2Proof.Machine

-- The proofs are elaborated one after another, which keeps the whole text within its memory.
set_option Elab.async false

/-! ### One key -/

theorem debounceUp_eq (n : Nat) : debounceUp n = min (n + 1) 8 := by
  unfold debounceUp
  split <;> omega

theorem scanKey_undriven (b : Nat) (c : CoilCurrent) (k : KeyRecord) :
    scanKey b false c k = { k with openCount := 0, shortCount := 0 } := rfl

theorem scanKey_normal (b : Nat) (k : KeyRecord) : scanKey b true .normal k = { k with openCount := 0, shortCount := 0 } := rfl

theorem scanKey_none (b : Nat) (k : KeyRecord) : scanKey b true .none k = ⟨k.holders,
    if min (k.openCount + 1) 8 = b ∧ k.fault = .normal then .openCoil else k.fault, min (k.openCount + 1) 8, 0⟩ := by
  by_cases h : min (k.openCount + 1) 8 = b ∧ k.fault = .normal
  · simp [scanKey, scanFinding, scanCounts, debounceUp_eq, h]
  · simp [scanKey, scanFinding, scanCounts, debounceUp_eq, h]

theorem scanKey_excess (b : Nat) {k : KeyRecord} (sound : isSound k) : scanKey b true .excess k = ⟨k.holders,
    if min (k.shortCount + 1) 8 = b then .shorted else k.fault, 0, min (k.shortCount + 1) 8⟩ := by
  have sound' := (sound_iff_isSound k).2 sound
  by_cases h : min (k.shortCount + 1) 8 = b
  · simp [scanKey, scanFinding, scanCounts, debounceUp_eq, h, sound']
  · simp [scanKey, scanFinding, scanCounts, debounceUp_eq, h]

theorem scanFinding_openCoil {b : Nat} {on : Bool} {c : CoilCurrent} {k : KeyRecord} (h : scanFinding b on c k = .openCoil) :
    k.fault = .normal := by
  unfold scanFinding at h
  dsimp only at h
  split at h
  · cases h
  · cases c with
    | none =>
      dsimp only at h
      split at h
      next reached => exact reached.2
      next => cases h
    | normal => cases h
    | excess =>
      dsimp only at h
      split at h <;> cases h

theorem scanFinding_shorted {b : Nat} {on : Bool} {c : CoilCurrent} {k : KeyRecord} (h : scanFinding b on c k = .shorted) :
    isSound k := by
  unfold scanFinding at h
  dsimp only at h
  split at h
  · cases h
  · cases c with
    | none =>
      dsimp only at h
      split at h <;> cases h
    | normal => cases h
    | excess =>
      dsimp only at h
      split at h
      next reached => exact (sound_iff_isSound k).1 reached.2
      next => cases h

/-- A scan finds OPEN_COIL exactly where it turns a NORMAL key OPEN_COIL. -/
theorem scanFinding_openCoil_iff (b : Nat) (on : Bool) (c : CoilCurrent) (k : KeyRecord) :
    scanFinding b on c k = .openCoil ↔ k.fault = .normal ∧ (scanKey b on c k).fault = .openCoil := by
  refine ⟨fun h => ⟨scanFinding_openCoil h, by rw [scanKey, h]⟩, fun ⟨normal, turned⟩ => ?_⟩
  unfold scanKey at turned
  cases h : scanFinding b on c k with
  | nothing =>
    rw [h] at turned
    rw [(scanCounts_frame on c k).2, normal] at turned
    cases turned
  | openCoil => rfl
  | shorted =>
    rw [h] at turned
    cases turned

/-- A scan finds SHORTED exactly where it turns a key SHORTED. -/
theorem scanFinding_shorted_iff (b : Nat) (on : Bool) (c : CoilCurrent) (k : KeyRecord) :
    scanFinding b on c k = .shorted ↔ k.fault ≠ .shorted ∧ (scanKey b on c k).fault = .shorted := by
  refine ⟨fun h => ⟨fun k' => ?_, by rw [scanKey, h]⟩, fun ⟨other, turned⟩ => ?_⟩
  · rcases scanFinding_shorted h with k | k <;> rw [k'] at k <;> cases k
  · unfold scanKey at turned
    cases h : scanFinding b on c k with
    | nothing =>
      rw [h] at turned
      exact absurd ((scanCounts_frame on c k).2.symm.trans turned) other
    | openCoil =>
      rw [h] at turned
      cases turned
    | shorted => rfl

/-! ### Every key -/

theorem key_scanAll (r : CoilReadings) (s : State) (d : DivNo) (k : KeyNo) : key (scanAll r s) d k =
    if scanned s d k = true then scanKey s.drivers.debounce (driven s d k) r[d][k] (key s d k) else key s d k := by
  simp only [key, scanAll_div, Fin.getElem_fin, mapIdx_getElem]

theorem findingAt_openCoil_iff (r : CoilReadings) (s : State) (d : DivNo) (k : KeyNo) :
    findingAt r s d k = .openCoil ↔ (key s d k).fault = .normal ∧ (key (scanAll r s) d k).fault = .openCoil := by
  rw [findingAt, key_scanAll]
  split
  · exact scanFinding_openCoil_iff _ _ _ _
  · refine ⟨nofun, fun ⟨normal, coil⟩ => ?_⟩
    rw [normal] at coil
    cases coil

theorem findingAt_shorted_iff (r : CoilReadings) (s : State) (d : DivNo) (k : KeyNo) :
    findingAt r s d k = .shorted ↔ (key s d k).fault ≠ .shorted ∧ (key (scanAll r s) d k).fault = .shorted := by
  rw [findingAt, key_scanAll]
  split
  · exact scanFinding_shorted_iff _ _ _ _
  · exact ⟨nofun, fun ⟨other, short⟩ => absurd short other⟩

/-! ### The notices of a scan -/

theorem mem_faultNotices {r : CoilReadings} {s : State} {n : Notice} :
    n ∈ faultNotices r s ↔ ∃ d k, faultNotice r s d k = some n := by
  simp [faultNotices, allFin]

theorem faultNotice_cases {r : CoilReadings} {s : State} {d : DivNo} {k : KeyNo} {n : Notice}
    (h : faultNotice r s d k = some n) :
    (findingAt r s d k = .openCoil ∧ n = .openCoil d k.val (key s d k).holders s.now) ∨
    (findingAt r s d k = .shorted ∧ n = .shorted d k.val (key s d k).holders s.now) := by
  unfold faultNotice at h
  split at h
  · cases h
  next found => exact .inl ⟨found, (Option.some.inj h).symm⟩
  next found => exact .inr ⟨found, (Option.some.inj h).symm⟩

theorem openCoil_mem_iff (r : CoilReadings) (s : State) (d : DivNo) (k : KeyNo) :
    Notice.openCoil d k.val (key s d k).holders s.now ∈ faultNotices r s ↔ findingAt r s d k = .openCoil := by
  rw [mem_faultNotices]
  refine ⟨fun ⟨d', k', h⟩ => ?_, fun h => ⟨d, k, by rw [faultNotice, h]⟩⟩
  rcases faultNotice_cases h with ⟨found, e⟩ | ⟨-, e⟩
  · injection e with hd hk
    rwa [hd, Fin.ext hk]
  · cases e

theorem shorted_mem_iff (r : CoilReadings) (s : State) (d : DivNo) (k : KeyNo) :
    Notice.shorted d k.val (key s d k).holders s.now ∈ faultNotices r s ↔ findingAt r s d k = .shorted := by
  rw [mem_faultNotices]
  refine ⟨fun ⟨d', k', h⟩ => ?_, fun h => ⟨d, k, by rw [faultNotice, h]⟩⟩
  rcases faultNotice_cases h with ⟨-, e⟩ | ⟨found, e⟩
  · cases e
  · injection e with hd hk
    rwa [hd, Fin.ext hk]

/-- A notice names the key it is about. -/
theorem faultNotice_key {r : CoilReadings} {s : State} {d e : DivNo} {k l : KeyNo} {n : Notice}
    (h : faultNotice r s d k = some n) (h' : faultNotice r s e l = some n) : d = e ∧ k = l := by
  rcases faultNotice_cases h with ⟨-, rfl⟩ | ⟨-, rfl⟩ <;> rcases faultNotice_cases h' with ⟨-, c⟩ | ⟨-, c⟩
  · injection c with hd hk
    exact ⟨hd, Fin.ext hk⟩
  · cases c
  · cases c
  · injection c with hd hk
    exact ⟨hd, Fin.ext hk⟩

theorem faultNotices_nodup (r : CoilReadings) (s : State) : (faultNotices r s).Nodup := by
  unfold faultNotices
  refine List.pairwise_flatMap.2 ⟨fun d _ => List.pairwise_filterMap.2 ?_, ?_⟩
  · refine (List.nodup_finRange 61).imp fun {k l} apart n h n' h' same => ?_
    subst same
    exact apart (faultNotice_key h h').2
  · refine (List.nodup_finRange 6).imp fun {d e} apart n hn n' hn' same => ?_
    subst same
    obtain ⟨k, -, h⟩ := List.mem_filterMap.1 hn
    obtain ⟨l, -, h'⟩ := List.mem_filterMap.1 hn'
    exact apart (faultNotice_key h h').1

/-! ### The scan -/

theorem foldl_notice_link (ns : List Notice) (s : State) : ∃ l, ns.foldl (fun x n => notice n x) s = { s with link := l } := by
  induction ns generalizing s with
  | nil => exact ⟨s.link, rfl⟩
  | cons n ns ih =>
    obtain ⟨l, h⟩ := notice_eq n s
    obtain ⟨l', h'⟩ := ih (notice n s)
    exact ⟨l', by rw [List.foldl_cons, h', h]⟩

theorem levelShorted_stays {s : State}
    (h : ∀ x, s.levelling.run = some x → x.phase = .sounding → (key s x.division x.key).fault ≠ .shorted) :
    levelShorted s = s := by
  unfold levelShorted onRun
  split
  next x hx => exact if_neg fun k => h x hx k.1 k.2
  next => rfl

theorem levelShorted_aborts {s : State} {x : LevelRun} (hx : s.levelling.run = some x) (phase : x.phase = .sounding)
    (short : (key s x.division x.key).fault = .shorted) : levelShorted s = abortRun x .shorted s := by
  simp only [levelShorted, onRun, hx]
  exact if_pos ⟨phase, short⟩

/-- Settles O52. -/
theorem coilScanFinds : Obligations.CoilScanFinds := by
  rintro t r s runs a rfl at_ fresh
  have acts := event_acts (t := t) (p := scanDue) (scanCoils r) runs (by simp [scanDue, at_, fresh])
  generalize arrive t s = a at *
  obtain ⟨b, hb⟩ : ∃ b : State, b = { a with marks := { a.marks with scan := true } } := ⟨_, rfl⟩
  have divs (d : DivNo) : div b d = div a d := by rw [hb]; rfl
  have keys (d : DivNo) (k : KeyNo) : key b d k = key a d k := by rw [hb]; rfl
  have outputs (d : DivNo) (k : KeyNo) : driven b d k = driven a d k := by rw [hb]; rfl
  have debounce : b.drivers.debounce = a.drivers.debounce := by rw [hb]
  have now : b.now = a.now := by rw [hb]
  have scan : scanCoils r a = levelShorted ((faultNotices r b).foldl (fun x n => notice n x) (scanAll r b)) := by rw [hb]; rfl
  have frame : scanAll r b = { a with
      marks := { a.marks with scan := true }, drivers := { a.drivers with divisions := (scanAll r b).drivers.divisions } } := by
    rw [hb]
    rfl
  clear hb
  obtain ⟨l, told⟩ := foldl_notice_link (faultNotices r b) (scanAll r b)
  have same : ((faultNotices r b).foldl (fun x n => notice n x) (scanAll r b)).levelling.run = a.levelling.run := by
    rw [told, frame]
  have heard (d : DivNo) (k : KeyNo) :
      key ((faultNotices r b).foldl (fun x n => notice n x) (scanAll r b)) d k = key (scanAll r b) d k := by
    rw [told]
    rfl
  have read (d : DivNo) (k : KeyNo) (on : (div a d).present = true) (low : k.val < (div a d).compass) :
      key (scanAll r b) d k = scanKey a.drivers.debounce (driven a d k) r[d][k] (key a d k) := by
    have is_ : scanned b d k = true := by simp [scanned, divs, on, low]
    rw [key_scanAll, if_pos is_, keys, outputs, debounce]
  refine ⟨scanAll r b, _, faultNotices r b, frame, fun d => ?_, fun d k off => ?_, fun d k on low => ⟨fun still => ?_, fun drives at_ => ?_,
    fun c drives at_ hc => ?_, fun c drives at_ hc sound => ?_⟩, fun d k => ?_, fun d k => ?_, faultNotices_nodup r b, fun n hn => ?_,
    rfl, fun quiet => ?_, fun x hx phase short => ?_⟩
  · rw [scanAll_div, divs]
  · have not_ : ¬scanned b d k = true := by
      rw [scanned, divs, Bool.and_eq_true, decide_eq_true_iff]
      rintro ⟨on, low⟩
      rcases off with off | off
      · rw [on] at off
        cases off
      · omega
    rw [key_scanAll, if_neg not_, keys]
  · rw [read d k on low, still, scanKey_undriven]
  · rw [read d k on low, drives, at_, scanKey_normal]
  · rw [read d k on low, drives, at_, scanKey_none, hc]
  · rw [read d k on low, drives, at_, scanKey_excess _ sound, hc]
  · rw [← keys, ← now, openCoil_mem_iff, findingAt_openCoil_iff]
  · rw [← keys, ← now, shorted_mem_iff, findingAt_shorted_iff]
  · obtain ⟨d, k, h⟩ := mem_faultNotices.1 hn
    refine ⟨d, k, ?_⟩
    rw [← keys, ← now]
    exact (faultNotice_cases h).imp And.right And.right
  · rw [scan, levelShorted_stays] at acts
    · exact acts
    · intro x hx phase
      rw [heard]
      exact quiet x (same.symm.trans hx) phase
  · rw [scan, levelShorted_aborts (same.trans hx) phase ((congrArg KeyRecord.fault (heard _ _)).trans short), abortRun,
      phase] at acts
    exact ⟨_, enterDone_done _ _ _, acts⟩

end Sys2Proof.Machine

/-! PROOFS. The lines of a tune and of a segment (R11, R29), and the notices of R36. -/

namespace Sys2Proof.Machine

-- The proofs are elaborated one after another, which keeps the whole text within its memory.
set_option Elab.async false

/-! ### Forming lines -/

/-- A line formed from a list of events, the first line having a start and a first event of its own: where it stands among the
formed lines and which events it runs over. -/
structure Formed (es : List Event) (base p0 i0 : Nat) (ls : List Line) (k : Nat) (l : Line) : Prop where
  /-- the LINE_END event that ends it -/
  ends : ∃ (j : Nat) (f : Event), es[j]? = some f ∧ f.lineEnd = true ∧ (es.take j).countP (·.lineEnd) = k ∧
    l.stop = f.pos + f.len ∧ l.lastEvent = base + j
  /-- the first line begins where it was opened -/
  opens : k = 0 → l.start = p0 ∧ l.firstEvent = i0
  /-- a later line begins with the event after the line before -/
  follows : 0 < k → ∃ (prev : Line) (i : Nat) (e : Event), ls[k - 1]? = some prev ∧ l.firstEvent = prev.lastEvent + 1 ∧
    l.firstEvent = base + i ∧ es[i]? = some e ∧ l.start = e.pos

theorem formLines_length (i : Nat) (o : Option (Nat × Nat)) (start : Nat) (es : List Event) :
    (formLines i o start es).length = es.countP (·.lineEnd) := by
  induction es generalizing i o start with
  | nil => rfl
  | cons e es ih =>
    rw [formLines, List.countP_cons]
    by_cases h : e.lineEnd = true
    · simp [h, ih]
    · simp [h, ih]

theorem formLines_formed (es : List Event) (base : Nat) (o : Option (Nat × Nat)) (start k : Nat) (l : Line)
    (h : (formLines base o start es)[k]? = some l) :
    Formed es base (o.getD (start, base)).1 (o.getD (start, base)).2 (formLines base o start es) k l := by
  induction es generalizing base o start k l with
  | nil => cases h
  | cons e es ih =>
    by_cases last : e.lineEnd = true
    · have formed : formLines base o start (e :: es) = ⟨(o.getD (start, base)).1, e.pos + e.len, (o.getD (start, base)).2, base⟩ ::
          formLines (base + 1) none ((es.head?.map (·.pos)).getD 0) es := by
        rw [formLines]
        exact if_pos last
      rw [formed] at h ⊢
      cases k with
      | zero =>
        obtain rfl := Option.some.inj h
        exact ⟨⟨0, e, rfl, last, rfl, rfl, rfl⟩, fun _ => ⟨rfl, rfl⟩, fun k => absurd k (Nat.lt_irrefl 0)⟩
      | succ k =>
        rw [List.getElem?_cons_succ] at h
        obtain ⟨⟨j, f, hj, hf, count, stop, lastEvent⟩, opens, follows⟩ := ih _ _ _ _ _ h
        refine ⟨⟨j + 1, f, hj, hf, ?_, stop, by omega⟩, fun k => absurd k (Nat.succ_ne_zero _), fun _ => ?_⟩
        · rw [List.take_succ_cons, List.countP_cons, count, if_pos last]
        · rw [Nat.add_sub_cancel]
          cases k with
          | zero =>
            obtain ⟨hstart, hfirst⟩ := opens rfl
            cases es with
            | nil => cases hj
            | cons e' es => exact ⟨_, 1, e', rfl, hfirst, hfirst, rfl, hstart⟩
          | succ k =>
            obtain ⟨prev, i, e', hprev, hfirst, hi, he, hstart⟩ := follows (Nat.succ_pos k)
            exact ⟨prev, i + 1, e', hprev, hfirst, by omega, he, hstart⟩
    · have formed : formLines base o start (e :: es) = formLines (base + 1) (some (o.getD (start, base))) start es := by
        rw [formLines]
        exact if_neg last
      rw [formed] at h ⊢
      obtain ⟨⟨j, f, hj, hf, count, stop, lastEvent⟩, opens, follows⟩ := ih _ _ _ _ _ h
      refine ⟨⟨j + 1, f, hj, hf, ?_, stop, by omega⟩, opens, fun pos => ?_⟩
      · rw [List.take_succ_cons, List.countP_cons, count, if_neg last]
        rfl
      · obtain ⟨prev, i, e', hprev, hfirst, hi, he, hstart⟩ := follows pos
        exact ⟨prev, i + 1, e', hprev, hfirst, by omega, he, hstart⟩

/-- Among the events before a later place there are more LINE_ENDs than before a LINE_END event. -/
theorem countP_take_lt {es : List Event} {i j : Nat} {e : Event} (he : es[i]? = some e) (last : e.lineEnd = true) (h : i < j) :
    (es.take i).countP (·.lineEnd) < (es.take j).countP (·.lineEnd) := by
  have one : (es.take (i + 1)).countP (·.lineEnd) = (es.take i).countP (·.lineEnd) + 1 := by
    rw [List.take_add_one, he, List.countP_append]
    simp [last]
  have more := (List.take_sublist_take_left (l := es) (show i + 1 ≤ j from h)).countP_le (p := (·.lineEnd))
  omega

theorem lineEnd_place_unique {es : List Event} {i j : Nat} {e f : Event} (he : es[i]? = some e) (hf : es[j]? = some f)
    (ends : e.lineEnd = true) (ends' : f.lineEnd = true)
    (same : (es.take i).countP (·.lineEnd) = (es.take j).countP (·.lineEnd)) : i = j := by
  rcases Nat.lt_trichotomy i j with h | h | h
  · exact absurd same (Nat.ne_of_lt (countP_take_lt he ends h))
  · exact h
  · exact absurd same.symm (Nat.ne_of_lt (countP_take_lt hf ends' h))

/-- The lines that are formed from events are those that R11 and R29 describe. -/
theorem linesOf_formLines (es : List Event) (base start : Nat) : LinesOf es base start (formLines base none start es) := by
  refine ⟨formLines_length _ _ _ _, fun k l h => ?_⟩
  obtain ⟨⟨j, f, hj, hf, count, stop, lastEvent⟩, opens, follows⟩ := formLines_formed es base none start k l h
  rcases Nat.eq_zero_or_pos k with zero | pos
  · obtain ⟨hstart, hfirst⟩ := opens zero
    obtain ⟨e, he⟩ : ∃ e, es[0]? = some e := by
      cases es with
      | nil => cases hj
      | cons e es => exact ⟨e, rfl⟩
    refine ⟨0, j, e, f, he, hj, Nat.zero_le j, hf, count, fun _ => rfl, fun _ _ pos => by omega, ?_⟩
    rw [if_pos zero, ← stop, ← lastEvent]
    exact congr (congrArg (fun a b => Line.mk a l.stop b l.lastEvent) hstart) hfirst
  · obtain ⟨prev, i, e, hprev, hfirst, hi, he, hstart⟩ := follows pos
    obtain ⟨j', f', hj', hf', count', -, lastEvent'⟩ := (formLines_formed es base none start (k - 1) prev hprev).ends
    have order : j' < j := by
      rcases Nat.lt_trichotomy j' j with h | rfl | h
      · exact h
      · omega
      · have := countP_take_lt hj hf h
        omega
    refine ⟨i, j, e, f, he, hj, by omega, hf, count, fun zero => by omega, fun prev' hprev' _ => ?_, ?_⟩
    · obtain rfl := Option.some.inj (hprev.symm.trans hprev')
      omega
    · rw [if_neg (by omega), ← hstart, ← stop, ← hi, ← lastEvent]

/-- Events have one table of lines. -/
theorem LinesOf.unique {es : List Event} {base start : Nat} {ls ms : List Line} (h : LinesOf es base start ls)
    (h' : LinesOf es base start ms) : ls = ms := by
  refine List.ext_getElem? fun k => ?_
  have len : ls.length = ms.length := h.1.trans h'.1.symm
  induction k with
  | zero =>
    rcases Nat.lt_or_ge 0 ls.length with lt | ge
    · obtain ⟨i, j, e, f, he, hf, -, ends, count, zero, -, hl⟩ := h.2 0 _ (List.getElem?_eq_getElem lt)
      obtain ⟨i', j', e', f', he', hf', -, ends', count', zero', -, hl'⟩ := h'.2 0 _ (List.getElem?_eq_getElem (len ▸ lt))
      obtain rfl := lineEnd_place_unique hf hf' ends ends' (count.trans count'.symm)
      obtain rfl := Option.some.inj (hf.symm.trans hf')
      rw [List.getElem?_eq_getElem lt, List.getElem?_eq_getElem (len ▸ lt), hl, hl', zero rfl, zero' rfl]
      simp
    · rw [List.getElem?_eq_none ge, List.getElem?_eq_none (len ▸ ge)]
  | succ k ih =>
    rcases Nat.lt_or_ge (k + 1) ls.length with lt | ge
    · obtain ⟨i, j, e, f, he, hf, -, ends, count, -, next, hl⟩ := h.2 (k + 1) _ (List.getElem?_eq_getElem lt)
      obtain ⟨i', j', e', f', he', hf', -, ends', count', -, next', hl'⟩ :=
        h'.2 (k + 1) _ (List.getElem?_eq_getElem (len ▸ lt))
      obtain rfl := lineEnd_place_unique hf hf' ends ends' (count.trans count'.symm)
      obtain rfl := Option.some.inj (hf.symm.trans hf')
      have prev : ls[k + 1 - 1]? = some ls[k] := List.getElem?_eq_getElem _
      have at_ := next _ prev (Nat.succ_pos k)
      have at_' := next' ls[k] (ih ▸ prev) (Nat.succ_pos k)
      obtain rfl : i = i' := by omega
      obtain rfl := Option.some.inj (he.symm.trans he')
      rw [List.getElem?_eq_getElem lt, List.getElem?_eq_getElem (len ▸ lt), hl, hl']
    · rw [List.getElem?_eq_none ge, List.getElem?_eq_none (len ▸ ge)]

/-! ### The lines of a segment -/

theorem mem_numberFrom1 {ls : List Line} {n : Nat} {l : Line} : ⟨n, l⟩ ∈ numberFrom1 ls ↔ 1 ≤ n ∧ ls[n - 1]? = some l := by
  rw [numberFrom1, List.mem_mapIdx]
  constructor
  · rintro ⟨i, hi, h⟩
    injection h with hn hl
    subst hn hl
    exact ⟨by omega, by rw [Nat.add_sub_cancel]; exact List.getElem?_eq_getElem hi⟩
  · rintro ⟨pos, h⟩
    obtain ⟨hi, rfl⟩ := List.getElem?_eq_some_iff.1 h
    exact ⟨n - 1, hi, by rw [Nat.sub_add_cancel pos]⟩

theorem numberFrom1_pairwise (ls : List Line) : (numberFrom1 ls).Pairwise fun l m => l.number < m.number := by
  rw [List.pairwise_iff_getElem]
  intro i j hi hj lt
  simpa [numberFrom1] using lt

/-- The lines that a segment reads its own from: the table, or those formed from the Amen events (R29). -/
def segmentTable (x : Tune) (g : Segment) : List Line :=
  match g.kind with
  | .amen => amenLines x
  | _ => x.lines

theorem segmentLines_eq {a : State} {x : Tune} (h : activeTune a = some x) (g : Segment) : segmentLines a g =
    (numberFrom1 (segmentTable x g)).filter fun l => decide (g.sFrom ≤ l.line.start) && decide (l.line.stop ≤ g.sTo) := by
  cases kind : g.kind <;> simp only [segmentLines, h, Option.elim_some, segmentTable, kind]

theorem segmentTable_verse (x : Tune) {g : Segment} (h : g.kind ≠ .amen) : segmentTable x g = x.lines := by
  unfold segmentTable
  split
  · contradiction
  · rfl

theorem segmentTable_amen (x : Tune) {g : Segment} (h : g.kind = .amen) : segmentTable x g = amenLines x := by
  rw [segmentTable, h]

theorem amenLines_none {x : Tune} (h : x.amen = none) : amenLines x = [] := by rw [amenLines, h]; rfl

theorem amenLines_some {x : Tune} {m : AmenTail} (h : x.amen = some m) :
    LinesOf (x.events.drop m.firstEvent) m.firstEvent m.start (amenLines x) := by
  rw [amenLines, h]
  exact linesOf_formLines _ _ _

/-! ### The current line and the notices -/

theorem currentLine_eq {a : State} {g : Segment} {y : Nat} (play : a.plan.play = .segment) (hg : currentSegment a = some g)
    (hy : positionNow a = some y) : currentLine a = (segmentLines a g).find? fun l => decide (y ≤ l.line.stop) := by
  rw [currentLine, if_pos play, hg, Option.bind_some, hy, Option.bind_some]

theorem lineDue_iff (a : State) (z : NumberedLine) : lineDue a z = true ↔ z.number ∉ a.plan.linesSent ∧
    ∃ u, currentTime a z.line.stop true = some u ∧
      atOrBefore (addTu u (-(a.follower.settings.lineLead * a.map.period : Nat))) a.now = true := by
  rw [lineDue, lineDueTime, Bool.and_eq_true, Option.any_eq_true]
  refine and_congr (by simp) ⟨fun ⟨v, hv, come⟩ => ?_, fun ⟨u, hu, come⟩ => ⟨_, by rw [hu]; rfl, come⟩⟩
  obtain ⟨u, hu, rfl⟩ := Option.map_eq_some_iff.1 hv
  exact ⟨u, hu, come⟩

/-- Settles O44. -/
theorem lineAheadNotifies : Obligations.LineAheadNotifies := by
  rintro t s a rfl
  refine ⟨fun g x hx => ⟨?_, fun table verse none_ some_ n l => ?_⟩, fun play => if_neg play, fun g y play hg hy => ⟨?_, fun past => ?_⟩, ?_⟩
  · rw [segmentLines_eq hx]
    exact (numberFrom1_pairwise _).filter _
  · have same : table = segmentTable x g := by
      by_cases amen : g.kind = .amen
      · rw [segmentTable_amen x amen]
        cases hm : x.amen with
        | none => rw [none_ amen hm, amenLines_none hm]
        | some m => exact (some_ m amen hm).unique (amenLines_some hm)
      · rw [verse amen, segmentTable_verse x amen]
    rw [segmentLines_eq hx, List.mem_filter, mem_numberFrom1, same, Bool.and_eq_true, decide_eq_true_iff, decide_eq_true_iff,
      and_assoc]
  · rintro before l after hl past here
    rw [currentLine_eq play hg hy, hl, List.find?_eq_some_iff_append]
    exact ⟨decide_eq_true here, before, after, rfl, fun z hz => by simpa using past z hz⟩
  · rw [currentLine_eq play hg hy, List.find?_eq_none]
    exact fun z hz => by simpa using past z hz
  · rintro c g before l after runs play hc hg hl due hdue early come
    have due_iff (z : NumberedLine) : lineDue (arrive t s) z = true ↔ due z := (lineDue_iff _ z).trans (hdue z ▸ Iff.rfl)
    have first : dueLines (arrive t s) = l :: after.filter (lineDue (arrive t s)) := by
      have none_ : before.filter (lineDue (arrive t s)) = [] := List.filter_eq_nil_iff.2 fun z hz k => early z hz ((due_iff z).1 k)
      rw [dueLines, if_pos play, hg, Option.elim_some, hl, List.filter_append, none_, List.nil_append,
        List.filter_cons_of_pos ((due_iff l).2 come)]
    have acts := event_acts (t := t) (p := fun s => dueLines s != []) sendNextLine runs (by rw [first]; rfl)
    refine acts.trans ?_
    rw [sendNextLine, first]
    dsimp only
    rw [sendLine, hc, hg]
    rfl

end Sys2Proof.Machine

/-! PROOFS. The cues that leave the list (R84, R88, R89) and the pauses (R97, R98). -/

namespace Sys2Proof.Machine

-- The proofs are elaborated one after another, which keeps the whole text within its memory.
set_option Elab.async false

/-! ### The first of a list -/

theorem splitFirst_eq_some {α : Type} {p : α → Bool} {before after : List α} {c : α} (early : ∀ z ∈ before, p z = false)
    (hit : p c = true) : splitFirst p (before ++ c :: after) = some (before, c, after) := by
  induction before with
  | nil => simp [splitFirst, hit]
  | cons z before ih =>
    have no : p z = false := early z (List.mem_cons_self)
    simp [splitFirst, no, ih fun y hy => early y (List.mem_cons_of_mem z hy)]

theorem splitFirst_none {α : Type} {p : α → Bool} {l : List α} (none_ : ∀ z ∈ l, p z = false) : splitFirst p l = none := by
  induction l with
  | nil => rfl
  | cons z l ih =>
    have no : p z = false := none_ z (List.mem_cons_self)
    simp [splitFirst, no, ih fun y hy => none_ y (List.mem_cons_of_mem z hy)]

/-! ### Cues -/

theorem awaited_iff (a : State) (c : Cue) : awaited a c = true ↔ IsAwaited a c := by
  unfold awaited ofCurrent Cue.isPending IsAwaited
  rw [Bool.and_eq_true, beq_iff_eq]
  refine and_congr ?_ Iff.rfl
  cases c.state <;> simp

theorem cueWindow_eq (a : State) (k : CueKind) : cueWindow a k = windowFor a.follower.settings.win a.map.period k := by
  cases k <;> rfl

theorem cueTime_awaited {a : State} {c : Cue} (h : a.map.current = some c.segment) : cueTime a c = currentTime a c.pos true := by
  rw [cueTime, positionTime, if_pos h]

theorem cueExpired_iff (a : State) (c : Cue) : cueExpired a c = true ↔ IsAwaited a c ∧ ∃ u, currentTime a c.pos true = some u ∧
    atOrBefore (u + BitVec.ofNat 32 (windowFor a.follower.settings.win a.map.period c.kind)) a.now = true := by
  rw [cueExpired, cueExpiryTime]
  by_cases wait : IsAwaited a c
  · rw [if_pos ((awaited_iff a c).2 wait), cueTime_awaited wait.2, cueWindow_eq, Option.any_map, Option.any_eq_true]
    simp only [wait, true_and, addTu_natCast]
  · rw [if_neg (mt (awaited_iff a c).1 wait)]
    simp [wait]

theorem removalDue_iff (a : State) (c : Cue) :
    removalDue a c = true ↔ ∃ x y, c.state = .matched x y ∧ atOrBefore y a.now = true := by
  unfold removalDue
  cases c.state with
  | pending => simp
  | matched x y =>
    refine ⟨fun h => ⟨x, y, rfl, h⟩, ?_⟩
    rintro ⟨x', y', h, come⟩
    injection h with hx hy
    rwa [hy]

section
variable {c : Cue} {s : State}

theorem missCost_follow (mode : s.follower.mode = .follow) (kind : c.kind = .normal) : missCost c s =
    if s.follower.credit ≤ 1 then
      followStateNotice c.pos { s with follower := { s.follower with mode := .steady, credit := 0, rejoinRun := 0 } }
    else { s with follower := { s.follower with credit := s.follower.credit - 1 } } := by
  unfold missCost
  split
  · rfl
  next steady =>
    rw [mode] at steady
    cases steady
  next other => exact (other mode kind).elim

theorem missCost_steady (mode : s.follower.mode = .steady) :
    missCost c s = { s with follower := { s.follower with rejoinRun := 0 } } := by
  unfold missCost
  split
  next follow _ =>
    rw [mode] at follow
    cases follow
  · rfl
  next other _ => exact absurd mode other

theorem missCost_free (mode : s.follower.mode ≠ .steady) (other : s.follower.mode = .follow → c.kind = .reEntry) :
    missCost c s = s := by
  unfold missCost
  split
  next follow kind =>
    rw [other follow] at kind
    cases kind
  next steady => exact absurd steady mode
  · rfl

end

theorem missCost_cues (c : Cue) (s : State) : (missCost c s).follower.cues = s.follower.cues := by
  unfold missCost
  split
  · split
    · rw [followStateNotice, (notice_touches _ _).cues]
    · rfl
  · rfl
  · rfl

theorem missCost_counted (c : Cue) (v : State) : MissCounted c v (missCost c (countMissed 1 v)) := by
  rintro w rfl
  refine ⟨fun mode kind rich => ?_, fun mode kind poor => ?_, fun mode => missCost_steady (s := countMissed 1 v) mode,
    fun mode other => missCost_free (s := countMissed 1 v) mode other⟩
  · exact (missCost_follow (s := countMissed 1 v) mode kind).trans (if_neg (Nat.not_le.2 rich))
  · exact (missCost_follow (s := countMissed 1 v) mode kind).trans (if_pos poor)

theorem awaited_of_current {u v : State} (h : u.map.current = v.map.current) : awaited u = awaited v := by
  funext c
  rw [awaited, ofCurrent, h]
  rfl

section
variable {a : State} {p : Cue → Bool} {before after : List Cue} {c : Cue} (hc : a.follower.cues = before ++ c :: after)
  (early : ∀ z ∈ before, p z = false) (hit : p c = true)
include hc early hit

theorem missCue_normal (kind : c.kind = .normal) :
    missCue p a = missCost c (countMissed 1 (setCues (before ++ after) a)) := by
  simp only [missCue, hc, splitFirst_eq_some early hit, kind]

theorem missCue_reEntry (kind : c.kind = .reEntry) : missCue p a =
    passKindOn before after (missCost c (countMissed 1 (setCues (before ++ after) a))) := by
  simp only [missCue, hc, splitFirst_eq_some early hit, kind]

end

/-- Settles O40. -/
theorem cuesLeave : Obligations.CuesLeave := by
  rintro t s runs a rfl before c after hc
  refine ⟨fun expired hexp early come => ?_, fun due hdue early come => ?_⟩
  · have iff (z : Cue) : cueExpired (arrive t s) z = true ↔ expired z := (cueExpired_iff _ z).trans (hexp z ▸ Iff.rfl)
    have early' (z : Cue) (hz : z ∈ before) : cueExpired (arrive t s) z = false :=
      Bool.eq_false_iff.2 fun k => early z hz ((iff z).1 k)
    have acts := event_acts (t := t) (p := anyCueExpired) expireCue runs (by
      rw [anyCueExpired, hc, List.any_eq_true]
      exact ⟨c, by simp, (iff c).2 come⟩)
    have normal := missCue_normal hc early' ((iff c).2 come)
    have reEntry := missCue_reEntry hc early' ((iff c).2 come)
    rw [expireCue] at acts
    generalize arrive t s = a at *
    generalize hu : missCost c (countMissed 1 (setCues (before ++ after) a)) = u at normal reEntry
    have same : awaited u = awaited a := awaited_of_current (by
      rw [← hu, (missCost_touches _ _).current]
      rfl)
    refine ⟨u, hu ▸ missCost_counted c _, fun kind => ?_, fun kind => ⟨fun x z y hafter wait none_ => ?_, fun none_ => ?_⟩⟩
    · exact acts.trans (congrArg _ (normal kind))
    · refine acts.trans ?_
      rw [reEntry kind, passKindOn, same, hafter, splitFirst_eq_some
        (fun n hn => Bool.eq_false_iff.2 fun k => none_ n hn ((awaited_iff a n).1 k)) ((awaited_iff a z).2 wait)]
      rfl
    · refine acts.trans ?_
      rw [reEntry kind, passKindOn, same,
        splitFirst_none fun n hn => Bool.eq_false_iff.2 fun k => none_ n hn ((awaited_iff a n).1 k)]
      have kept : u.follower.cues = before ++ after := by
        rw [← hu, missCost_cues]
        rfl
      rw [← kept]
  · have iff (z : Cue) : removalDue (arrive t s) z = true ↔ due z := (removalDue_iff _ z).trans (hdue z ▸ Iff.rfl)
    have acts := event_acts (t := t) (p := fun s => s.follower.cues.any (removalDue s)) removeMatched runs (by
      rw [hc, List.any_eq_true]
      exact ⟨c, by simp, (iff c).2 come⟩)
    refine acts.trans ?_
    rw [removeMatched, hc, splitFirst_eq_some (fun z hz => Bool.eq_false_iff.2 fun k => early z hz ((iff z).1 k)) ((iff c).2 come)]
    rfl

/-! ### Pauses -/

theorem map_replace {α : Type} [DecidableEq α] {before after : List α} {p : α} (p' : α) (hb : p ∉ before) (ha : p ∉ after) :
    (before ++ p :: after).map (fun q => if q = p then p' else q) = before ++ p' :: after := by
  have id_on {l : List α} (h : p ∉ l) : l.map (fun q => if q = p then p' else q) = l :=
    (List.map_congr_left fun q hq => if_neg (ne_of_mem_of_not_mem hq h)).trans (List.map_id' l)
  simp [id_on hb, id_on ha]

theorem filter_ne_of_notMem {α : Type} [DecidableEq α] {before after : List α} {p : α} (hb : p ∉ before) (ha : p ∉ after) :
    (before ++ p :: after).filter (fun q => q != p) = before ++ after := by
  have id_on {l : List α} (h : p ∉ l) : l.filter (fun q => q != p) = l :=
    List.filter_eq_self.2 fun q hq => bne_iff_ne.2 (ne_of_mem_of_not_mem hq h)
  simp [id_on hb, id_on ha]

theorem find?_middle {α : Type} {f : α → Bool} {before after : List α} {p : α} (early : ∀ q ∈ before, f q = false)
    (hit : f p = true) : (before ++ p :: after).find? f = some p := by
  rw [List.find?_append, List.find?_eq_none.2 fun q hq => Bool.eq_false_iff.1 (early q hq), List.find?_cons_of_pos hit]
  rfl

theorem Pause.isRunning_iff (p : Pause) : p.isRunning = true ↔ p.state ≠ .planned := by
  unfold Pause.isRunning
  cases p.state <;> simp

theorem pauseStartDue_iff (a : State) (p : Pause) : pauseStartDue a p = true ↔
    p.state = .planned ∧ a.map.current = some p.segment ∧ ∃ u, currentTime a p.pos false = some u ∧ atOrBefore u a.now = true := by
  have planned : (!p.isRunning) = true ↔ p.state = .planned := by
    rw [Bool.not_eq_true', ← Bool.not_eq_true, Pause.isRunning_iff, Classical.not_not]
  rw [pauseStartDue, Bool.and_eq_true, Bool.and_eq_true, planned, beq_iff_eq, Option.any_eq_true, and_assoc,
    eq_comm (a := some p.segment)]

/-- A pause that starts, on the map as it stands (R97). -/
theorem startPause_syncRamps {a : State} {p : Pause} {u : Time} (hu : currentTime a p.pos false = some u) :
    startPause p (syncRamps a) = { syncRamps a with
      map := { a.map with
        anchor := some ⟨u, p.pos⟩
        pauses := a.map.pauses.map fun q =>
          if q = p then { p with state := .running (plannedExt (activeFactor a) a.map.period p.len) } else q }
      follower := { a.follower with
        mode := if a.follower.mode = .follow then .fermata else a.follower.mode
        cues := a.follower.cues.filter fun c => c.isPending || !ofCurrent a c } } := by
  obtain ⟨n, x, counted⟩ := syncRamps_eq a
  have time : currentTime (syncRamps a) p.pos false = some u := by
    rw [counted]
    exact hu
  rw [startPause, time, counted]
  rfl

theorem pendingOrOther_eq (a : State) (c : Cue) :
    (c.isPending || !ofCurrent a c) = decide (c.state = .pending ∨ a.map.current ≠ some c.segment) := by
  unfold Cue.isPending ofCurrent
  cases c.state <;> simp [Bool.beq_eq_decide_eq, eq_comm]

/-- The cues and the owed re-entry after a pause at a position has ended (R98). -/
theorem reEnterAfter_eq (pos : Nat) (a : State) : ∃ cues owed,
    (∀ x c y, a.follower.cues = x ++ c :: y → IsAwaited a c → pos ≤ c.pos → (∀ z ∈ x, IsAwaited a z → z.pos < pos) →
      cues = x ++ { c with kind := .reEntry } :: y ∧ owed = a.follower.owed) ∧
    ((∀ z ∈ a.follower.cues, IsAwaited a z → z.pos < pos) → cues = a.follower.cues ∧ owed = true) ∧
    reEnterAfter pos a = { a with follower := { a.follower with cues := cues, owed := owed } } := by
  have before {z : Cue} (h : IsAwaited a z → z.pos < pos) : (awaited a z && decide (pos ≤ z.pos)) = false := by
    rw [Bool.and_eq_false_iff, decide_eq_false_iff_not, Nat.not_le]
    exact (Bool.eq_false_or_eq_true (awaited a z)).symm.imp id fun wait => h ((awaited_iff a z).1 wait)
  refine ⟨(reEnterAfter pos a).follower.cues, (reEnterAfter pos a).follower.owed, fun x c y hc wait late early => ?_,
    fun none_ => ?_, ?_⟩
  · rw [reEnterAfter, hc, splitFirst_eq_some (fun z hz => before (early z hz))
      ((Bool.and_eq_true _ _).mpr ⟨(awaited_iff a c).2 wait, decide_eq_true late⟩)]
    exact ⟨rfl, rfl⟩
  · rw [reEnterAfter, splitFirst_none fun z hz => before (none_ z hz)]
    exact ⟨rfl, rfl⟩
  · unfold reEnterAfter
    split <;> rfl

theorem fermataEnds_eq (s : State) : fermataEnds s = { s with follower := { s.follower with
    mode := if s.follower.mode = .fermata then .follow else s.follower.mode } } := by
  unfold fermataEnds
  split <;> rfl

theorem followsCurrent_iff (a : State) : followsCurrent a = true ↔ ∃ g, currentSegment a = some g ∧ g.follow = .follow := by
  simp only [followsCurrent, Option.any_eq_true, beq_iff_eq]

theorem runningPause_middle {a : State} {before after : List Pause} {p : Pause} {ext : Nat} (hp : a.map.pauses = before ++ p :: after)
    (runs : p.state = .running ext) (here : a.map.current = some p.segment)
    (early : ∀ q ∈ before, q.isRunning = true → a.map.current ≠ some q.segment) : runningPause a = some p := by
  rw [runningPause, hp, find?_middle]
  · intro q hq
    rw [Bool.and_eq_false_iff]
    cases going : q.isRunning
    · exact .inr rfl
    · exact .inl (beq_eq_false_iff_ne.2 (early q hq going).symm)
  · rw [here, beq_self_eq_true, Bool.true_and, Pause.isRunning_iff, runs]
    exact PauseState.noConfusion

/-- What the end of the RUNNING pause leaves (R98). -/
theorem endPause_left {a : State} {p : Pause} {u : Time} (runs : runningPause a = some p) (hu : currentTime a p.pos true = some u) :
    ∃ (cues : List Cue) (owed : Bool),
      (¬(∃ g, currentSegment a = some g ∧ g.follow = .follow) → cues = a.follower.cues ∧ owed = a.follower.owed) ∧
      ((∃ g, currentSegment a = some g ∧ g.follow = .follow) →
        (∀ x c y, a.follower.cues = x ++ c :: y → IsAwaited a c → p.pos ≤ c.pos →
          (∀ z ∈ x, IsAwaited a z → z.pos < p.pos) →
          cues = x ++ { c with kind := .reEntry } :: y ∧ owed = a.follower.owed) ∧
        ((∀ z ∈ a.follower.cues, IsAwaited a z → z.pos < p.pos) → cues = a.follower.cues ∧ owed = true)) ∧
      endPause a = { a with
        map := { a.map with
          anchor := some ⟨u, p.pos⟩
          pauses := (a.map.pauses.filter fun q => q != p).filter fun z =>
            z.isRunning || !(some z.segment == a.map.current && decide (z.pos < p.pos)) }
        follower := { a.follower with
          mode := if a.follower.mode = .fermata then .follow else a.follower.mode
          cues := cues
          owed := owed } } := by
  have due : pauseEndTime a = some u := by rw [pauseEndTime, runs, Option.bind_some, hu]
  have ends : endPause a = fermataEnds (pauseLeft p u a) := by rw [endPause_eq, runs, due]
  rw [ends]
  by_cases follows : ∃ g, currentSegment a = some g ∧ g.follow = .follow
  · obtain ⟨cues, owed, first, none_, eq⟩ :=
      reEnterAfter_eq p.pos (reAnchor u p.pos (setPauses (a.map.pauses.filter fun q => q != p) a))
    refine ⟨cues, owed, fun no => absurd follows no, fun _ => ⟨first, none_⟩, ?_⟩
    rw [show pauseLeft p u a = _ from (if_pos ((followsCurrent_iff _).2 follows)).trans eq, fermataEnds_eq]
    rfl
  · refine ⟨_, _, fun _ => ⟨rfl, rfl⟩, fun yes => absurd yes follows, ?_⟩
    rw [show pauseLeft p u a = _ from if_neg (mt (followsCurrent_iff _).1 follows), fermataEnds_eq]
    rfl

/-- Settles O41. -/
theorem pausesHold : Obligations.PausesHold := by
  rintro t s runs a rfl v rfl
  refine ⟨fun before p after u hp free planned here hu come early hb ha ext hext => ?_,
    fun before p after ext u hp going here early hb ha hu come => ?_⟩
  · have starts : startingPause (arrive t s) = some p := by
      rw [startingPause, free, hp]
      refine find?_middle (fun q hq => Bool.eq_false_iff.2 fun k => ?_) ((pauseStartDue_iff _ _).2 ⟨planned, here, u, hu, come⟩)
      obtain ⟨plannedQ, hereQ, y, hy, comeQ⟩ := (pauseStartDue_iff _ _).1 k
      exact Bool.eq_false_iff.1 (early q hq plannedQ hereQ y hy) comeQ
    refine (event_acts (t := t) (p := fun s => (startingPause s).isSome) (fun s => settle s (actPauseStart s)) runs
      (Option.isSome_iff_exists.2 ⟨p, starts⟩)).trans ?_
    generalize arrive t s = a at *
    have length : plannedExt (activeFactor a) a.map.period p.len = ext := by
      rw [hext, plannedExt, activeFactor]
      cases a.plan.active <;> rfl
    have acts : actPauseStart a = mapChanged (startPause p (syncRamps a)) := by rw [actPauseStart, starts]
    rw [acts, startPause_syncRamps hu, hp, map_replace _ hb ha, length]
    simp only [pendingOrOther_eq, List.append_assoc, List.singleton_append]
  · have first := runningPause_middle hp going here early
    have due : pauseEndDue (arrive t s) = true := by
      rw [pauseEndDue, pauseEndTime, first, Option.bind_some, hu]
      exact come
    have acts := event_acts (t := t) (p := pauseEndDue) (fun s => settle s (actPauseEnd s)) runs due
    generalize arrive t s = a at *
    obtain ⟨n, x, counted⟩ := syncRamps_eq a
    have first' : runningPause (syncRamps a) = some p := (syncRamps_reads a).2.1.trans first
    have hu' : currentTime (syncRamps a) p.pos true = some u := by
      rw [counted]
      exact hu
    obtain ⟨cues, owed, still, follows, ended⟩ := endPause_left first' hu'
    have map : (syncRamps a).map = a.map := by rw [counted]
    have follower : (syncRamps a).follower = a.follower := by rw [counted]
    have segment : currentSegment (syncRamps a) = currentSegment a := by rw [counted]; rfl
    have waits (c : Cue) : IsAwaited (syncRamps a) c ↔ IsAwaited a c := by rw [IsAwaited, map, ← IsAwaited]
    simp only [map, follower, segment, waits, hp, filter_ne_of_notMem hb ha] at still follows ended
    refine ⟨cues, owed, still, follows, acts.trans ?_⟩
    rw [actPauseEnd, ended]

end Sys2Proof.Machine

/-! PROOFS. Entries that fall due: KEY_ON, KEY_OFF and STOP_SET delivered (R149 to R151), the end of a stop change (R152),
and the pairs that are clipped or deferred (R132, R133). -/

namespace Sys2Proof.Machine

-- The proofs are elaborated one after another, which keeps the whole text within its memory.
set_option Elab.async false

/-! ### Delivery to the division drivers -/

section
variable {d : DivNo} {k : KeyNo} {v : Voice} {s : State}

theorem deliverKeyOn_shed (h : 10 ≤ (key s d k).holders ∨ ((key s d k).holders = 0 ∧ isSound (key s d k) ∧
    ¬(drivenCount s d + 1) * drawnWeight (div s d) ≤ windLimit (div s d) v)) : deliverKeyOn d k v s = (countShed s, true) := by
  have shed : keyOnCase s d k v = .discarded ∨ keyOnCase s d k v = .shed := by
    unfold keyOnCase
    rcases h with full | ⟨free, sound, short⟩
    · exact .inl (if_pos full)
    · refine .inr ?_
      rw [if_neg (by omega), if_neg (by simpa using (sound_iff_isSound _).2 sound), if_neg (by omega),
        if_neg (by simpa [windAllows] using short)]
  rw [deliverKeyOn]
  rcases shed with h | h <;> rw [h]

theorem deliverKeyOn_held (room : (key s d k).holders < 10) (h : ¬isSound (key s d k) ∨ 1 ≤ (key s d k).holders) :
    deliverKeyOn d k v s = (holdKey d k s, false) := by
  have held : keyOnCase s d k v = .heldSilent ∨ keyOnCase s d k v = .heldDriven := by
    unfold keyOnCase
    rw [if_neg (Nat.not_le.2 room)]
    by_cases sound : isSound (key s d k)
    · rw [if_neg (by simpa using (sound_iff_isSound _).2 sound), if_pos (h.resolve_left (Classical.not_not.2 sound))]
      exact .inr rfl
    · rw [if_pos (by simpa using mt (sound_iff_isSound _).1 sound)]
      exact .inl rfl
  rw [deliverKeyOn]
  rcases held with h | h <;> rw [h]

theorem deliverKeyOn_opened (free : (key s d k).holders = 0) (sound : isSound (key s d k))
    (passes : (drivenCount s d + 1) * drawnWeight (div s d) ≤ windLimit (div s d) v) :
    deliverKeyOn d k v s = (reportOpening d (holdKey d k s), false) := by
  have opened : keyOnCase s d k v = .opened := by
    unfold keyOnCase
    rw [if_neg (by omega), if_neg (by simpa using (sound_iff_isSound _).2 sound), if_neg (by omega),
      if_pos (by simpa [windAllows] using passes)]
  rw [deliverKeyOn, opened]

end

theorem released_eq (x : KeyRecord) : x.released = { x with
    holders := 0, fault := if x.fault = .clearedPending then .normal else x.fault } := by
  simp [KeyRecord.released]

theorem releaseKeys_key (x : Division) (k : KeyNo) : (releaseKeys x).keys[k] = { x.keys[k] with
    holders := 0, fault := if x.keys[k].fault = .clearedPending then .normal else x.keys[k].fault } := by
  have keys : (releaseKeys x).keys = mapIdx (fun _ k => k.released) x.keys := rfl
  have released := mapIdx_getElem (fun _ k => k.released) x.keys k
  rw [← keys, released_eq] at released
  exact released

theorem gatesOpened_setKey (d : DivNo) (k : KeyNo) (x : KeyRecord) (v : State) :
    gatesOpened d (setKey d k x v) = gatesOpened d v := by
  funext m
  simp only [gatesOpened, div_setKey]
  rfl

/-! ### The first entry of the queue -/

theorem entryDue_first {s : State} {e : Entry} {rest : List Entry} (hq : s.queue = e :: rest) (due : atOrBefore e.issue s.now = true) :
    entryDue s = true := by
  rw [entryDue, hq]
  exact due

theorem exec_entry_delivered {s : State} {t : Time} (runs : Runs s) (due : entryDue (arrive t s) = true)
    (still : headRetimes (arrive t s) = false) : exec (.entryFallsDue t) s = .next (closeIfHeld (actOnHead (arrive t s))) :=
  (event_acts (t := t) (p := entryDue) headAtOnce runs due).trans
    (congrArg Host.Outcome.next (if_neg (Bool.eq_false_iff.1 still)))

theorem exec_entry_retimes {s : State} {t : Time} (runs : Runs s) (due : entryDue (arrive t s) = true)
    (retimes : headRetimes (arrive t s) = true) :
    exec (.entryFallsDue t) s = .next (settle (arrive t s) (actOnHead (arrive t s))) :=
  (event_acts (t := t) (p := entryDue) headAtOnce runs due).trans (congrArg Host.Outcome.next (if_pos retimes))

/-- A pair is clipped where its KEY_ON and its KEY_OFF are the first of their number (R129). -/
theorem clipped_iff {q : List Entry} {n : BitVec 16} {x y : Entry} (hx : onOf q n = some x) (hy : offOf q n = some y) :
    clipped q n = atOrBefore y.issue x.issue := by rw [clipped, hx, hy]

theorem clipped_keyOn {e : Entry} {rest : List Entry} {d : DivNo} {k : KeyNo} {v : Voice} {n : BitVec 16} {nb : Option Time}
    (he : e.action = .keyOn d k v n nb) (late : ∀ y ∈ rest, y.action.offPair = some n → atOrBefore y.issue e.issue = false) :
    clipped (e :: rest) n = false := by
  have on : onOf (e :: rest) n = some e := List.find?_cons_of_pos (by simp [he, Action.onPair])
  cases hoff : offOf (e :: rest) n with
  | none => rw [clipped, on, hoff]
  | some y =>
    have pair : y.action.offPair = some n := by simpa using List.find?_some hoff
    have other : y ≠ e := by
      rintro rfl
      rw [he] at pair
      cases pair
    rw [clipped_iff on hoff]
    exact late y ((List.mem_cons.1 (List.mem_of_find?_eq_some hoff)).resolve_left other) pair

theorem clipped_keyOff {e : Entry} {rest : List Entry} {d : DivNo} {k : KeyNo} {v : Voice} {n : BitVec 16} {f : Option (BitVec 16)}
    (he : e.action = .keyOff d k v n f) (late : ∀ y ∈ rest, y.action.onPair = some n → atOrBefore e.issue y.issue = false) :
    clipped (e :: rest) n = false := by
  have off : offOf (e :: rest) n = some e := List.find?_cons_of_pos (by simp [he, Action.offPair])
  cases hon : onOf (e :: rest) n with
  | none => rw [clipped, hon]
  | some x =>
    have pair : x.action.onPair = some n := by simpa using List.find?_some hon
    have other : x ≠ e := by
      rintro rfl
      rw [he] at pair
      cases pair
    rw [clipped_iff hon off]
    exact late x ((List.mem_cons.1 (List.mem_of_find?_eq_some hon)).resolve_left other) pair

/-! ### The bounds of a deferral (R133) -/

theorem changeBound_eq_some {s : State} {d : DivNo} {x : Time} :
    changeBound s d = some x ↔ (div s d).stopState = .changing x ∧ isBefore s.now x = true := by
  unfold changeBound changeEnd
  cases (div s d).stopState with
  | settled => simp
  | changing u =>
    rw [Option.bind_some, Option.ite_none_right_eq_some]
    constructor
    · rintro ⟨before, h⟩
      cases h
      exact ⟨rfl, before⟩
    · rintro ⟨h, before⟩
      cases h
      exact ⟨before, rfl⟩

theorem laterOpt_cases {t u : Option Time} {x : Time} (h : laterOpt t u = some x) : t = some x ∨ u = some x := by
  cases t with
  | none => exact .inr h
  | some t => cases u with
    | none => exact .inl h
    | some u =>
      rw [laterOpt, later, Option.some.injEq] at h
      split at h
      · exact .inr (congrArg some h)
      · exact .inl (congrArg some h)

theorem laterOpt_isSome {t u : Option Time} : (laterOpt t u).isSome = (t.isSome || u.isSome) := by
  cases t <;> cases u <;> rfl

/-! ### Times near the present (R44) -/

/-- Times that lie within 2^30 tu of a present are ordered as their differences to it. -/
def Near (now t : Time) : Prop := (diff t now).natAbs < 2 ^ 30

theorem diff_eq_sub {now t u : Time} (ht : Near now t) (hu : Near now u) : diff u t = diff u now - diff t now := by
  unfold Near at ht hu
  have shift : u - t = (u - now) - (t - now) := by bv_omega
  unfold diff at *
  rw [shift, BitVec.toInt_sub]
  exact Int.bmod_eq_of_le (by omega) (by omega)

theorem isBefore_near {now t u : Time} (ht : Near now t) (hu : Near now u) : isBefore t u = true ↔ diff t now < diff u now := by
  rw [isBefore, decide_eq_true_eq, diff_eq_sub ht hu, Int.sub_pos]

theorem atOrBefore_near {now t u : Time} (ht : Near now t) (hu : Near now u) :
    atOrBefore t u = true ↔ diff t now ≤ diff u now := by
  rw [atOrBefore, Bool.or_eq_true, beq_iff_eq, isBefore_near ht hu]
  constructor
  · rintro (rfl | lt)
    · exact Int.le_refl _
    · exact Int.le_of_lt lt
  · intro le
    refine (Int.lt_or_eq_of_le le).symm.imp (fun eq => ?_) id
    have same : t - now = u - now := BitVec.toInt_inj.1 eq
    bv_omega

/-- The later of some times, none where there are none. -/
def latest (acc : Option Time) (l : List Time) : Option Time := l.foldl (fun acc u => laterOpt acc (some u)) acc

theorem latest_mem {l : List Time} {acc : Option Time} {x : Time} (h : latest acc l = some x) : acc = some x ∨ x ∈ l := by
  induction l generalizing acc with
  | nil => exact .inl h
  | cons u l ih =>
    rcases ih h with h | h
    · refine (laterOpt_cases h).imp id fun h => ?_
      cases h
      exact List.mem_cons_self
    · exact .inr (List.mem_cons_of_mem u h)

theorem latest_isSome {l : List Time} {acc : Option Time} (h : acc.isSome = true ∨ l ≠ []) : (latest acc l).isSome = true := by
  induction l generalizing acc with
  | nil => exact h.resolve_right fun k => k rfl
  | cons u l ih => exact ih (.inl (by rw [laterOpt_isSome, Option.isSome_some, Bool.or_true]))

theorem laterOpt_near {now x : Time} {t u : Option Time} (ht : ∀ y, t = some y → Near now y) (hu : ∀ y, u = some y → Near now y)
    (h : laterOpt t u = some x) : ∀ y, (t = some y ∨ u = some y) → diff y now ≤ diff x now := by
  cases t with
  | none =>
    rintro y (hy | hy)
    · cases hy
    · cases hy.symm.trans h
      exact Int.le_refl _
  | some t =>
    cases u with
    | none =>
      rintro y (hy | hy)
      · cases hy.symm.trans h
        exact Int.le_refl _
      · cases hy
    | some u =>
      have order := isBefore_near (ht t rfl) (hu u rfl)
      rw [laterOpt, later, Option.some.injEq] at h
      rintro y (hy | hy)
      all_goals
        cases hy
        split at h
        all_goals subst h
      · exact Int.le_of_lt (order.1 ‹_›)
      · exact Int.le_refl _
      · exact Int.le_refl _
      · exact Int.not_lt.1 (mt order.2 ‹_›)

theorem latest_near {now x : Time} {l : List Time} {acc : Option Time} (ha : ∀ y, acc = some y → Near now y)
    (hl : ∀ y ∈ l, Near now y) (h : latest acc l = some x) : ∀ y, (acc = some y ∨ y ∈ l) → diff y now ≤ diff x now := by
  induction l generalizing acc with
  | nil =>
    rintro y (hy | hy)
    · cases hy.symm.trans h
      exact Int.le_refl _
    · cases hy
  | cons u l ih =>
    have hu : ∀ y, some u = some y → Near now y := fun y hy => Option.some.inj hy ▸ hl u List.mem_cons_self
    have near : ∀ y, laterOpt acc (some u) = some y → Near now y := fun y hy => (laterOpt_cases hy).elim (ha y) (hu y)
    have rest := ih near (fun y hy => hl y (List.mem_cons_of_mem u hy)) h
    obtain ⟨z, hz⟩ : ∃ z, laterOpt acc (some u) = some z := Option.isSome_iff_exists.1 (by simp [laterOpt_isSome])
    have first (y : Time) (hy : acc = some y ∨ some u = some y) : diff y now ≤ diff x now :=
      Int.le_trans (laterOpt_near ha hu hz y hy) (rest z (.inl hz))
    rintro y (hy | hy)
    · exact first y (.inl hy)
    · rcases List.mem_cons.1 hy with rfl | hy
      · exact first y (.inr rfl)
      · exact rest y (.inr hy)

/-- The end of the stop change that a queued STOP_SET of a lesser segment will begin (R133). -/
def stopSetEnd (a : State) (d : DivNo) (seg : Nat) (e : Entry) : Option Time :=
  match e.action with
  | .stopSet d' _ => if d' = d ∧ e.segment < seg then some (addTu e.issue (div a d).stopAction) else none
  | .keyOn .. => none
  | .keyOff .. => none

theorem stopSetBound_eq (a : State) (d : DivNo) (seg : Nat) :
    stopSetBound a d seg = latest none (a.queue.filterMap (stopSetEnd a d seg)) := by
  rw [stopSetBound, latest, List.foldl_filterMap]
  refine congrArg (fun f => a.queue.foldl f none) (funext fun acc => funext fun e => ?_)
  unfold stopSetEnd
  cases e.action with
  | keyOn => rfl
  | keyOff => rfl
  | stopSet d' r =>
    dsimp only
    split <;> rfl

theorem stopSetEnd_eq_some {a : State} {d : DivNo} {seg : Nat} {e : Entry} {x : Time} : stopSetEnd a d seg e = some x ↔
    (∃ r, e.action = .stopSet d r) ∧ e.segment < seg ∧ x = e.issue + BitVec.ofNat 32 (div a d).stopAction := by
  unfold stopSetEnd
  cases e.action with
  | keyOn => simp
  | keyOff => simp
  | stopSet d' r =>
    dsimp only
    rw [Option.ite_none_right_eq_some, Option.some.injEq, addTu_natCast, and_assoc, eq_comm (b := x)]
    refine and_congr ⟨fun h => ⟨r, by rw [h]⟩, ?_⟩ Iff.rfl
    rintro ⟨r', h⟩
    injection h

section
variable {a : State} {rest : List Entry} {d : DivNo} {seg : Nat}

theorem deferBound_iff {x : Time} : DeferBound a rest d seg x ↔
    changeBound a d = some x ∨ x ∈ rest.filterMap (stopSetEnd a d seg) := by
  rw [DeferBound, changeBound_eq_some, List.mem_filterMap]
  simp only [stopSetEnd_eq_some]

theorem deferral_eq : deferral { a with queue := rest } d seg =
    laterOpt (changeBound a d) (latest none (rest.filterMap (stopSetEnd a d seg))) := by
  rw [deferral, stopSetBound_eq]
  rfl

theorem deferral_none (h : ∀ x, ¬DeferBound a rest d seg x) : deferral { a with queue := rest } d seg = none := by
  rw [deferral_eq, Option.eq_none_iff_forall_ne_some]
  intro x hx
  refine h x (deferBound_iff.2 ((laterOpt_cases hx).imp id fun late => ?_))
  exact (latest_mem late).resolve_left nofun

/-- The latest bound is the not-before of a deferral (R133). -/
theorem deferral_some {x : Time} (h : DeferBound a rest d seg x) : ∃ bound, deferral { a with queue := rest } d seg = some bound ∧
    DeferBound a rest d seg bound ∧ ((∀ y, DeferBound a rest d seg y → Near a.now y) →
      ∀ y, DeferBound a rest d seg y → atOrBefore y bound = true) := by
  have some_ : (deferral { a with queue := rest } d seg).isSome = true := by
    rw [deferral_eq, laterOpt_isSome, Bool.or_eq_true]
    refine (deferBound_iff.1 h).imp (fun h => Option.isSome_iff_exists.2 ⟨x, h⟩) fun h => latest_isSome (.inr ?_)
    exact List.ne_nil_of_mem h
  obtain ⟨bound, hb⟩ := Option.isSome_iff_exists.1 some_
  have later := deferral_eq.symm.trans hb
  have bounds {y : Time} (hy : latest none (rest.filterMap (stopSetEnd a d seg)) = some y) : DeferBound a rest d seg y :=
    deferBound_iff.2 (.inr ((latest_mem hy).resolve_left nofun))
  have isBound : DeferBound a rest d seg bound := (laterOpt_cases later).elim (fun h => deferBound_iff.2 (.inl h)) bounds
  refine ⟨bound, hb, isBound, fun near y hy => (atOrBefore_near (near y hy) (near bound isBound)).2 ?_⟩
  have order := laterOpt_near (fun y h => near y (deferBound_iff.2 (.inl h))) (fun y h => near y (bounds h)) later
  rcases deferBound_iff.1 hy with change | stop
  · exact order y (.inl change)
  · obtain ⟨z, hz⟩ := Option.isSome_iff_exists.1
      (latest_isSome (acc := none) (.inr (List.ne_nil_of_mem stop)))
    exact Int.le_trans
      (latest_near (acc := none) (fun _ h => nomatch h) (fun y h => near y (deferBound_iff.2 (.inr h))) hz y (.inr stop))
      (order z (.inr hz))

end

/-! ### Obligations -/

section
variable {a : State} {e : Entry} {rest : List Entry} (hq : a.queue = e :: rest)
include hq

theorem actOnHead_keyOn {d : DivNo} {k : KeyNo} {v : Voice} {n : BitVec 16} {nb : Option Time} (he : e.action = .keyOn d k v n nb)
    (whole : clipped (e :: rest) n = false) (free : deferral { a with queue := rest } d e.segment = none) :
    headRetimes a = false ∧ actOnHead a = deliver e { a with queue := rest } := by
  simp [headRetimes, actOnHead, hq, he, whole, free]

theorem actOnHead_defers {d : DivNo} {k : KeyNo} {v : Voice} {n : BitVec 16} {nb : Option Time} {bound : Time}
    (he : e.action = .keyOn d k v n nb) (whole : clipped (e :: rest) n = false)
    (held : deferral { a with queue := rest } d e.segment = some bound) :
    headRetimes a = true ∧ actOnHead a = defer e d k v n bound { a with queue := rest } := by
  simp [headRetimes, actOnHead, hq, he, whole, held]

theorem actOnHead_keyOff {d : DivNo} {k : KeyNo} {v : Voice} {n : BitVec 16} {f : Option (BitVec 16)}
    (he : e.action = .keyOff d k v n f) (whole : clipped (e :: rest) n = false) :
    headRetimes a = false ∧ actOnHead a = deliver e { a with queue := rest } := by
  simp [headRetimes, actOnHead, hq, he, whole]

theorem actOnHead_stopSet {d : DivNo} {r : StopSet} (he : e.action = .stopSet d r) :
    headRetimes a = false ∧ actOnHead a = deliver e { a with queue := rest } := by
  simp [headRetimes, actOnHead, hq, he]

/-- An entry whose pair is clipped takes the pair out of the queue (R132). -/
theorem actOnHead_clips {n : BitVec 16} (pair : e.action.onPair = some n ∨ e.action.offPair = some n)
    (clips : clipped (e :: rest) n = true) : headRetimes a = true ∧ actOnHead a = clipPair n { a with queue := rest } := by
  cases he : e.action with
  | keyOn d k v m nb =>
    obtain rfl : m = n := by simpa [he, Action.onPair, Action.offPair] using pair
    simp [headRetimes, actOnHead, hq, he, clips]
  | keyOff d k v m f =>
    obtain rfl : m = n := by simpa [he, Action.onPair, Action.offPair] using pair
    simp [headRetimes, actOnHead, hq, he, clips]
  | stopSet d r => simp [he, Action.onPair, Action.offPair] at pair

end

/-- Settles O48. -/
theorem keyOnDelivered : Obligations.KeyOnDelivered := by
  rintro t s e rest d k v n nb runs hq he a rfl come late free limit rfl passes rfl
  have queue : (arrive t s).queue = e :: rest := by rw [arrive_queue, hq]
  obtain ⟨still, head⟩ := actOnHead_keyOn queue he (clipped_keyOn he late) (deferral_none free)
  have acts := exec_entry_delivered runs (entryDue_first queue come) still
  rw [head] at acts
  refine ⟨_, _, closeIfHeld_tested _, acts, ?_⟩
  generalize arrive t s = a at *
  rintro b rfl
  have delivers : deliver e { a with queue := rest } = if (deliverKeyOn d k v { a with queue := rest }).2
      then removeOff n (deliverKeyOn d k v { a with queue := rest }).1 else (deliverKeyOn d k v { a with queue := rest }).1 := by
    rw [deliver, he]
  rw [delivers]
  refine ⟨fun shed => ?_, fun room held => ?_, fun none_ sound passes => ?_⟩
  · rw [deliverKeyOn_shed (s := { a with queue := rest }) shed]
    rfl
  · rw [deliverKeyOn_held (s := { a with queue := rest }) room held]
    rfl
  · have opens := deliverKeyOn_opened (s := { a with queue := rest }) none_ sound passes
    have record : { key a d k with holders := (key a d k).holders + 1 } = { key a d k with holders := 1 } := by rw [none_]
    refine ⟨?_, fun awake => ?_⟩
    · have gates : gatesOpened d (holdKey d k { a with queue := rest }) = gatesOpened d a := gatesOpened_setKey _ _ _ _
      rw [opens, reportOpening_eq, gates, ← record]
      rfl
    · rw [opens]
      have held : key (reportOpening d (holdKey d k { a with queue := rest })) d k = { key a d k with holders := 1 } :=
        (key_setKey _ _ _ _).trans record
      have given : yielded (reportOpening d (holdKey d k { a with queue := rest })) = false := awake
      have sounds : KeyRecord.sound { key a d k with holders := 1 } = true := (sound_iff_isSound _).2 sound
      simp only [driven, Bool.false_eq_true, if_false, held, given, sounds, Nat.le_refl, decide_true, Bool.not_false, Bool.and_self,
        Bool.true_or]

/-- Settles O49. -/
theorem keyOffDelivered : Obligations.KeyOffDelivered := by
  rintro t s e rest d k v n f runs hq he a rfl come late
  have queue : (arrive t s).queue = e :: rest := by rw [arrive_queue, hq]
  obtain ⟨still, head⟩ := actOnHead_keyOff queue he (clipped_keyOff he late)
  have acts := exec_entry_delivered runs (entryDue_first queue come) still
  rw [head] at acts
  refine ⟨_, _, closeIfHeld_tested _, acts, ?_⟩
  generalize arrive t s = a at *
  rintro b rfl
  have delivers : deliver e { a with queue := rest } = deliverKeyOff d k { a with queue := rest } := by rw [deliver, he]
  have same : key { a with queue := rest } d k = key a d k := rfl
  rw [delivers, deliverKeyOff, same]
  refine ⟨fun none_ => if_pos none_, fun one => ?_, fun more => ?_⟩
  · rw [if_neg (by omega), if_pos one]
    refine ⟨by rw [released_eq]; rfl, fun test => ?_⟩
    have released : (key (setKey d k (key a d k).released { a with queue := rest }) d k).holders = 0 := by
      rw [key_setKey]
      rfl
    have still : testDriven (setKey d k (key a d k).released { a with queue := rest }) d k = false := test
    rw [driven, released, still]
    rfl
  · rw [if_neg (by omega), if_neg (by omega)]
    rfl

/-! ### STOP_SET and the end of a stop change -/

theorem anyHeld_iff (a : State) (d : DivNo) : anyHeld (div a d) = true ↔ ∃ k, 1 ≤ (key a d k).holders := by
  rw [anyHeld, List.any_eq_true]
  constructor
  · rintro ⟨x, hx, held⟩
    obtain ⟨i, hi, rfl⟩ := Vector.getElem_of_mem (Vector.mem_toList_iff.1 hx)
    exact ⟨⟨i, hi⟩, of_decide_eq_true held⟩
  · rintro ⟨k, held⟩
    exact ⟨_, Vector.mem_toList_iff.2 (Vector.getElem_mem k.isLt), decide_eq_true held⟩

theorem stopChange_eq (d : DivNo) (r : StopSet) (u : State) : stopChange d r u = setDiv d { div u d with
    drawn := r &&& existing (div u d), stopState := .changing (u.now + BitVec.ofNat 32 (div u d).stopAction) } u := by
  rw [stopChange, addTu_natCast]
  rfl

theorem issuedRelease_iff {q : List Entry} {d : DivNo} {y : Entry} : issuedRelease q d y = true ↔
    ∃ k v n f, y.action = .keyOff d k v n f ∧ ∀ z ∈ q, z.action.onPair ≠ some n := by
  unfold issuedRelease onQueued
  cases y.action with
  | keyOn => simp
  | stopSet => simp
  | keyOff d' k v n f =>
    simp only [Bool.and_eq_true, beq_iff_eq, Bool.not_eq_true', List.any_eq_false, Action.keyOff.injEq]
    constructor
    · rintro ⟨rfl, none_⟩
      exact ⟨k, v, n, f, ⟨rfl, rfl, rfl, rfl, rfl⟩, none_⟩
    · rintro ⟨_, _, _, _, ⟨rfl, rfl, rfl, rfl, rfl⟩, none_⟩
      exact ⟨rfl, none_⟩

theorem deliverStopSet_free {a : State} {d : DivNo} {r : StopSet} (moves : ¬((div a d).drawn = r ∧ (div a d).stopState = .settled))
    (free : ¬anyHeld (div a d) = true) : deliverStopSet d r a = setDiv d { div a d with
      drawn := r &&& existing (div a d), stopState := .changing (a.now + BitVec.ofNat 32 (div a d).stopAction) } a := by
  rw [deliverStopSet, if_neg moves, if_neg free, stopChange_eq]

/-- The forced releases of a STOP_SET and its stop change (R151). -/
theorem deliverStopSet_held {a : State} {d : DivNo} {r : StopSet} (moves : ¬((div a d).drawn = r ∧ (div a d).stopState = .settled))
    (held : anyHeld (div a d) = true) : deliverStopSet d r a = { a with
      queue := a.queue.filter fun y => !issuedRelease a.queue d y
      drivers := { a.drivers with divisions := a.drivers.divisions.set d { releaseKeys (div a d) with
        drawn := r &&& existing (releaseKeys (div a d))
        stopState := .changing (a.now + BitVec.ofNat 32 (releaseKeys (div a d)).stopAction) } }
      counters := { a.counters with forced := bumpBy (a.queue.filter (issuedRelease a.queue d)).length a.counters.forced } } := by
  have free : div (removeReleases d (setDiv d (releaseKeys (div a d)) a)) d = releaseKeys (div a d) := div_setDiv d _ a
  have twice : ((a.drivers.divisions.set d (releaseKeys (div a d))).set d { releaseKeys (div a d) with
      drawn := r &&& existing (releaseKeys (div a d))
      stopState := .changing (a.now + BitVec.ofNat 32 (releaseKeys (div a d)).stopAction) }) = _ := Vector.set_set _ _
  rw [deliverStopSet, if_neg moves, if_pos held, stopChange_eq, free, ← twice]
  rfl

/-- Settles O50. -/
theorem stopSetDelivered : Obligations.StopSetDelivered := by
  rintro t s runs a rfl
  refine ⟨fun e rest d r hq he come => ?_, fun d u changing come b hb => ?_⟩
  · have queue : (arrive t s).queue = e :: rest := by rw [arrive_queue, hq]
    obtain ⟨still, head⟩ := actOnHead_stopSet queue he
    have acts := exec_entry_delivered runs (entryDue_first queue come) still
    rw [head] at acts
    refine ⟨_, _, closeIfHeld_tested _, acts, ?_⟩
    generalize arrive t s = a at *
    intro changed hc
    have delivers : deliver e { a with queue := rest } = deliverStopSet d r { a with queue := rest } := by rw [deliver, he]
    rw [delivers]
    refine ⟨fun drawn settled => ?_, fun moves none_ => ?_, fun k moves held => ?_⟩
    · exact if_pos ⟨drawn, settled⟩
    · have free : ¬anyHeld (div { a with queue := rest } d) = true := fun held => by
        obtain ⟨k, hk⟩ := (anyHeld_iff _ _).1 held
        have none_ : (key { a with queue := rest } d k).holders = 0 := none_ k
        omega
      rw [deliverStopSet_free (a := { a with queue := rest }) moves free, hc]
      rfl
    · refine ⟨releaseKeys (div a d), issuedRelease rest d, rfl, fun k => ?_, fun y _ => ?_, ?_⟩
      · exact releaseKeys_key (div a d) k
      · rw [issuedRelease_iff]
      · rw [deliverStopSet_held (a := { a with queue := rest }) moves ((anyHeld_iff _ _).2 ⟨k, held⟩), hc]
        rfl
  · have due : stopChangeDue d (arrive t s) = true := by
      rw [stopChangeDue, changeEnd, changing]
      exact come
    have acts := event_acts (t := t) (p := stopChangeDue d) (endStopChange d) runs due
    have goes : endStopChange d (arrive t s) = levelChangeEnd d b := by
      rw [endStopChange, hb]
      rfl
    rw [goes] at acts
    have run : b.levelling.run = (arrive t s).levelling.run := by rw [hb]
    have now : b.now = (arrive t s).now := by rw [hb]
    have level : b.levelling = (arrive t s).levelling := by rw [hb]
    generalize arrive t s = a at *
    refine ⟨fun other => acts.trans (congrArg _ ?_), fun r hr hd phase => acts.trans (congrArg _ ?_),
      fun r hr hd phase => acts.trans (congrArg _ ?_)⟩
    · cases hr : a.levelling.run with
      | none => rw [levelChangeEnd, onRun, run, hr]
      | some r =>
        rw [levelChangeEnd, onRun, run, hr]
        by_cases here : r.division = d
        · obtain ⟨notSetup, notDone⟩ := other r hr here
          cases phase : r.phase <;> simp_all
        · exact if_neg here
    · rw [levelChangeEnd, onRun, run, hr]
      simp only [hd, if_true, phase, enterQuietCheck, now, setRun, level]
      rfl
    · rw [levelChangeEnd, onRun, run, hr]
      simp only [hd, if_true, phase, setRun, level]

/-! ### Clipped and deferred entries -/

theorem find?_only {α : Type} {f : α → Option (BitVec 16)} {n : BitVec 16} {l : List α} {x : α} (hx : x ∈ l)
    (h : f x = some n) (only : ∀ z ∈ l, f z = some n → z = x) : l.find? (fun z => f z == some n) = some x := by
  have found : (l.find? fun z => f z == some n).isSome = true := List.find?_isSome.2 ⟨x, hx, by rw [h, beq_self_eq_true]⟩
  obtain ⟨z, hz⟩ := Option.isSome_iff_exists.1 found
  rw [hz, only z (List.mem_of_find?_eq_some hz) (by simpa using List.find?_some hz)]

theorem dropFollowOn_frame (gone : BitVec 16 → Bool) (e : Entry) : dropFollowOn gone e = { e with action := (dropFollowOn gone e).action } := by
  unfold dropFollowOn
  split
  · split <;> rfl
  · rfl

theorem dropFollowOn_kept {n : BitVec 16} {e : Entry} (h : ∀ d k v p, e.action ≠ .keyOff d k v p (some n)) :
    dropFollowOn (· == n) e = e := by
  unfold dropFollowOn
  split
  next d k v p f he =>
    refine if_neg fun hf => ?_
    rw [beq_iff_eq.1 hf] at he
    exact h d k v p he
  · rfl

theorem dropFollowOn_cleared {n : BitVec 16} {e : Entry} {d : DivNo} {k : KeyNo} {v : Voice} {p : BitVec 16}
    (h : e.action = .keyOff d k v p (some n)) : (dropFollowOn (· == n) e).action = .keyOff d k v p none := by
  simp [dropFollowOn, h]

theorem followsOn_iff {n : BitVec 16} {e : Entry} : followsOn (· == n) e = true ↔ ∃ d k v p, e.action = .keyOff d k v p (some n) := by
  unfold followsOn
  split
  next d k v p f he => simp [he]
  next other =>
    refine ⟨nofun, ?_⟩
    rintro ⟨d, k, v, p, he⟩
    exact (other d k v p n he).elim

theorem addTu_neg_natCast (t : Time) (n : Nat) : addTu t (-(n : Int)) = t - BitVec.ofNat 32 n := by
  rw [addTu, BitVec.ofInt_neg, BitVec.ofInt_natCast, ← BitVec.sub_eq_add_neg]

theorem placeEntry_at {x : Entry} {before after : List Entry} (early : ∀ y ∈ before, isBefore x.issue y.issue = false)
    (late : ∀ y, after.head? = some y → isBefore x.issue y.issue = true) : placeEntry x (before ++ after) = before ++ x :: after := by
  induction before with
  | nil =>
    cases after with
    | nil => rfl
    | cons y after => exact if_pos (late y rfl)
  | cons y before ih =>
    rw [List.cons_append, placeEntry, early y List.mem_cons_self, ih fun z hz => early z (List.mem_cons_of_mem y hz)]
    rfl

theorem onIssue_keyOn {a : State} {e : Entry} {d : DivNo} {k : KeyNo} {v : Voice} {n : BitVec 16} {nb : Time}
    (h : e.action = .keyOn d k v n (some nb)) : onIssue a e = later ((leadTime a e (leadOn a d)).getD e.issue) nb := by
  rw [onIssue, h]
  rfl

/-- Settles O51. -/
theorem pairsClippedAndDeferred : Obligations.PairsClippedAndDeferred := by
  rintro t s e rest n runs hq a rfl come
  have queue : (arrive t s).queue = e :: rest := by rw [arrive_queue, hq]
  have due := entryDue_first queue come
  refine ⟨fun x y first hx hy onlyX onlyY cut => ?_, fun d k v nb x he hb late => ?_⟩
  · have pair : e.action.onPair = some n ∨ e.action.offPair = some n :=
      first.imp (fun ⟨h, _⟩ => h ▸ hx) fun ⟨h, _⟩ => h ▸ hy
    have in_ (z : Entry) (hz : z = e ∨ z ∈ rest) : z ∈ e :: rest := List.mem_cons.2 hz
    have apart (z : Entry) (hon : z.action.onPair = some n) (hoff : z.action.offPair = some n) : False := by
      unfold Action.onPair Action.offPair at *
      split at hon <;> simp_all
    have clips : clipped (e :: rest) n = true := by
      have on : onOf (e :: rest) n = some x := by
        refine find?_only (in_ x (first.imp And.left And.right)) hx fun z hz hon => ?_
        rcases List.mem_cons.1 hz with rfl | hz
        · rcases first with ⟨h, -⟩ | ⟨h, -⟩
          · exact h.symm
          · exact (apart z hon (h ▸ hy)).elim
        · exact onlyX z hz hon
      have off : offOf (e :: rest) n = some y := by
        refine find?_only (in_ y (first.symm.imp And.left And.right)) hy fun z hz hoff => ?_
        rcases List.mem_cons.1 hz with rfl | hz
        · rcases first with ⟨h, -⟩ | ⟨h, -⟩
          · exact (apart z (h ▸ hx) hoff).elim
          · exact h.symm
        · exact onlyY z hz hoff
      rw [clipped_iff on off]
      exact cut
    obtain ⟨retimes, head⟩ := actOnHead_clips queue pair clips
    have acts := exec_entry_retimes runs due retimes
    rw [head] at acts
    generalize arrive t s = a at *
    generalize hl : (rest.filter fun z => z.action.onPair != some n && z.action.offPair != some n) = left
    refine ⟨left.map (dropFollowOn (· == n)), by rw [List.length_map], fun i z z' hz hz' => ?_, fun b hb => ⟨fun none_ => ?_,
      fun z hz names => ?_⟩⟩
    · rw [List.getElem?_map, hz, Option.map_some, Option.some.injEq] at hz'
      subst hz'
      refine ⟨?_, ?_, ?_, fun kept => ?_, fun d k v p h => dropFollowOn_cleared h⟩
      · rw [dropFollowOn_frame]
      · rw [dropFollowOn_frame]
      · rw [dropFollowOn_frame]
      · rw [dropFollowOn_kept kept]
    · have still : ¬left.any (followsOn (· == n)) = true := by
        rw [List.any_eq_true]
        rintro ⟨z, hz, names⟩
        obtain ⟨d, k, v, p, hz'⟩ := followsOn_iff.1 names
        exact none_ z (List.mem_filter.1 (hl ▸ hz)).1 d k v p hz'
      rw [acts, clipPair]
      dsimp only
      rw [hl, if_neg still, hb]
      rfl
    · obtain ⟨d, k, v, p, hz', other⟩ := names
      have moved : left.any (followsOn (· == n)) = true := by
        refine List.any_eq_true.2 ⟨z, ?_, followsOn_iff.2 ⟨d, k, v, p, hz'⟩⟩
        rw [← hl, List.mem_filter]
        exact ⟨hz, by simp [hz', Action.onPair, Action.offPair, other]⟩
      rw [acts, clipPair]
      dsimp only
      rw [hl, if_pos moved, hb]
      rfl
  · obtain ⟨bound, held, isBound, latest⟩ := deferral_some hb
    obtain ⟨retimes, head⟩ := actOnHead_defers queue he (clipped_keyOn he late) held
    have acts := exec_entry_retimes runs due retimes
    rw [head] at acts
    generalize arrive t s = a at *
    refine ⟨bound, _, _, _, isBound, latest, rfl, fun u maps unmapped => ?_, rfl, rfl, fun before after hr early following => ?_, acts⟩
    · rw [onIssue_keyOn rfl, leadTime]
      cases timed : positionTime a e.segment e.pos (Action.keyOn d k v n (some bound)).releaseSide with
      | none =>
        rw [unmapped timed]
        rfl
      | some y =>
        rw [maps y timed, ← addTu_neg_natCast]
        rfl
    · subst hr
      exact placeEntry_at early following

end Sys2Proof.Machine

/-! PROOFS. A retime: the new issue times, the late entries, and the order of the queue (R127 to R130, R135, R136). -/

namespace Sys2Proof.Machine

-- The proofs are elaborated one after another, which keeps the whole text within its memory.
set_option Elab.async false

/-! ### The order of a sorted queue -/

section
variable {now : Time} {e : Entry} {q : List Entry}

/-- Entries in the order of their times, all within 2^30 tu of a present. -/
def Ordered (now : Time) (q : List Entry) : Prop :=
  (∀ e ∈ q, Near now e.issue) ∧ q.Pairwise fun x y => diff x.issue now ≤ diff y.issue now

theorem Ordered.tail {v : Entry} (h : Ordered now (v :: q)) : Ordered now q :=
  ⟨fun e he => h.1 e (List.mem_cons_of_mem v he), (List.pairwise_cons.1 h.2).2⟩

theorem Ordered.place (near : Near now e.issue) (h : Ordered now q) : Ordered now (placeEntry e q) := by
  refine ⟨fun x hx => ?_, ?_⟩
  · rcases List.mem_cons.1 ((placeEntry_perm e q).mem_iff.1 hx) with rfl | hx
    · exact near
    · exact h.1 x hx
  · induction q with
    | nil => exact List.pairwise_singleton _ e
    | cons v q ih =>
      obtain ⟨first, later⟩ := List.pairwise_cons.1 h.2
      have order := isBefore_near near (h.1 v List.mem_cons_self)
      rw [placeEntry]
      split
      next before =>
        have le := Int.le_of_lt (order.1 before)
        refine List.pairwise_cons.2 ⟨fun x hx => ?_, h.2⟩
        rcases List.mem_cons.1 hx with rfl | hx
        · exact le
        · exact Int.le_trans le (first x hx)
      next behind =>
        have le : diff v.issue now ≤ diff e.issue now := Int.not_lt.1 (mt order.2 behind)
        refine List.pairwise_cons.2 ⟨fun x hx => ?_, ih h.tail⟩
        rcases List.mem_cons.1 ((placeEntry_perm e q).mem_iff.1 hx) with rfl | hx
        · exact le
        · exact first x hx

/-- An entry stands after those present with its issue time (R126). -/
theorem placeEntry_filter (near : Near now e.issue) (h : Ordered now q) (u : Time) :
    (placeEntry e q).filter (fun x => x.issue == u) = (q ++ [e]).filter fun x => x.issue == u := by
  induction q with
  | nil => rfl
  | cons v q ih =>
    rw [placeEntry]
    split
    next before =>
      have order := (isBefore_near near (h.1 v List.mem_cons_self)).1 before
      by_cases hu : e.issue = u
      · have other : (v :: q).filter (fun x => x.issue == u) = [] := by
          refine List.filter_eq_nil_iff.2 fun x hx same => ?_
          have eq : x.issue = e.issue := (beq_iff_eq.1 same).trans hu.symm
          rcases List.mem_cons.1 hx with rfl | hx
          · exact Int.ne_of_lt order (by rw [eq])
          · exact absurd ((List.pairwise_cons.1 h.2).1 x hx) (by rw [eq]; exact Int.not_le.2 order)
        rw [List.filter_append, other]
        simp [hu, other]
      · rw [List.filter_append]
        simp [hu]
    next =>
      rw [List.filter_cons, ih h.tail, List.cons_append, List.filter_cons]

end

theorem foldl_place_ordered {now : Time} {q : List Entry} (near : ∀ e ∈ q, Near now e.issue) {acc : List Entry} (h : Ordered now acc) :
    Ordered now (q.foldl (fun acc e => placeEntry e acc) acc) ∧ ∀ u, (q.foldl (fun acc e => placeEntry e acc) acc).filter
      (fun x => x.issue == u) = (acc ++ q).filter fun x => x.issue == u := by
  induction q generalizing acc with
  | nil => exact ⟨h, fun u => by rw [List.foldl_nil, List.append_nil]⟩
  | cons e q ih =>
    have here := near e List.mem_cons_self
    obtain ⟨ordered, stable⟩ := ih (fun x hx => near x (List.mem_cons_of_mem e hx)) (h.place here)
    refine ⟨ordered, fun u => ?_⟩
    rw [List.foldl_cons, stable u, List.filter_append, placeEntry_filter here h u, ← List.filter_append, List.append_assoc,
      List.singleton_append]

/-- Sorting orders the entries, and equal times keep the order they stood in (R135). -/
theorem sortEntries_ordered {now : Time} {q : List Entry} (near : ∀ e ∈ q, Near now e.issue) :
    Ordered now (sortEntries q) ∧ ∀ u, (sortEntries q).filter (fun x => x.issue == u) = q.filter fun x => x.issue == u :=
  foldl_place_ordered near ⟨nofun, .nil⟩

/-! ### The new issue times -/

/-- An entry with its time of step 1 of a retime (R135). -/
def withOn (s : State) (e : Entry) : Entry := { e with issue := onIssue s e }

/-- An entry with its time of steps 2 and 3, over the times of step 1 (R135). -/
def withOff (s : State) (ons : List Entry) (e : Entry) : Entry := { e with issue := offIssue s ons e }

theorem retimeList_eq (s : State) (q : List Entry) : retimeList s q = q.map (withOff s (retimeOns s q) ∘ withOn s) := by
  rw [← List.map_map]
  rfl

theorem withOff_keyOn (s : State) (ons : List Entry) {e : Entry} {n : BitVec 16} (h : e.action.onPair = some n) :
    (withOff s ons e).issue = e.issue := by
  show offIssue s ons e = e.issue
  unfold Action.onPair at h
  unfold offIssue
  cases ha : e.action with
  | keyOn => rfl
  | keyOff => simp [ha] at h
  | stopSet => simp [ha] at h

/-- The KEY_ON of a pair after a retime is that of step 1 (R130). -/
theorem onOf_retimeList (s : State) (q : List Entry) (f : BitVec 16) :
    onOf (retimeList s q) f = (onOf (retimeOns s q) f).map (withOff s (retimeOns s q)) := by
  show List.find? _ ((retimeOns s q).map (withOff s (retimeOns s q))) = _
  rw [List.find?_map]
  rfl

section
variable {s : State} {ons : List Entry} {e : Entry}

theorem leadTime_withOn (s : State) (e : Entry) (lead : Nat) : leadTime s (withOn s e) lead = leadTime s e lead := rfl

theorem leadTime_of_time {u : Time} (h : positionTime s e.segment e.pos e.action.releaseSide = some u) (lead : Nat) :
    leadTime s e lead = some (addTu u (-(lead : Int))) := by rw [leadTime, h, Option.map_some]

theorem leadTime_none (h : positionTime s e.segment e.pos e.action.releaseSide = none) (lead : Nat) : leadTime s e lead = none := by
  rw [leadTime, h, Option.map_none]

theorem onIssue_unmapped (h : positionTime s e.segment e.pos e.action.releaseSide = none)
    (free : ∀ d k v n nb, e.action ≠ .keyOn d k v n (some nb)) : onIssue s e = e.issue := by
  unfold onIssue
  cases ha : e.action with
  | keyOn d k v n nb =>
    dsimp only
    rw [leadTime_none h]
    cases nb with
    | none => rfl
    | some nb => exact absurd ha (free d k v n nb)
  | keyOff => rfl
  | stopSet => rfl

theorem offIssue_unmapped (h : positionTime s e.segment e.pos e.action.releaseSide = none) : offIssue s ons e = e.issue := by
  unfold offIssue
  cases ha : e.action with
  | keyOn => rfl
  | keyOff =>
    dsimp only
    rw [leadTime_none h]
  | stopSet =>
    dsimp only
    rw [leadTime_none h]
    rfl

theorem offIssue_keyOn {d : DivNo} {k : KeyNo} {v : Voice} {n : BitVec 16} {nb : Option Time} (h : e.action = .keyOn d k v n nb) :
    offIssue s ons e = e.issue := by rw [offIssue, h]

variable {u : Time} (hu : positionTime s e.segment e.pos e.action.releaseSide = some u)
include hu

theorem onIssue_mapped {d : DivNo} {k : KeyNo} {v : Voice} {n : BitVec 16} {nb : Option Time} (h : e.action = .keyOn d k v n nb) :
    onIssue s e = notEarlier (addTu u (-(leadOn s d : Int))) nb := by
  rw [onIssue, h]
  dsimp only
  rw [leadTime_of_time hu]
  rfl

theorem offIssue_stopSet {d : DivNo} {r : StopSet} (h : e.action = .stopSet d r) :
    offIssue s ons e = addTu u (-(leadOff s d : Int)) := by
  rw [offIssue, h]
  dsimp only
  rw [leadTime_of_time hu]
  rfl

theorem offIssue_keyOff {d : DivNo} {k : KeyNo} {v : Voice} {n : BitVec 16} {f : Option (BitVec 16)} (h : e.action = .keyOff d k v n f)
    (free : f.bind (onOf ons) = none) : offIssue s ons e = addTu u (-(leadOff s d : Int)) := by
  rw [offIssue, h]
  dsimp only
  rw [leadTime_of_time hu, free]

theorem offIssue_follows {d : DivNo} {k : KeyNo} {v : Voice} {n : BitVec 16} {f : Option (BitVec 16)} {g : Entry}
    (h : e.action = .keyOff d k v n f) (next : f.bind (onOf ons) = some g) : offIssue s ons e =
      earlier (addTu u (-(leadOff s d : Int))) (addTu g.issue (-(s.follower.settings.repeatGap : Int))) := by
  rw [offIssue, h]
  dsimp only
  rw [leadTime_of_time hu, next]

end

/-- Settles O4. -/
theorem retimeRecomputes : Obligations.RetimeRecomputes := by
  intro s
  refine ⟨retimeList s s.queue, sortEntries_perm _, retimeList_length s s.queue, fun i e e' he he' => ?_, fun near => ?_, ?_⟩
  · have new : e' = withOff s (retimeOns s s.queue) (withOn s e) := by
      rw [retimeList_eq, List.getElem?_map, he, Option.map_some, Option.some.injEq] at he'
      exact he'.symm
    have issue : e'.issue = offIssue s (retimeOns s s.queue) (withOn s e) := by rw [new]; rfl
    refine ⟨by rw [new]; rfl, by rw [new]; rfl, by rw [new]; rfl, fun unmapped free => ?_,
      fun u hu => ⟨fun d k v n h => ?_, fun d k v n nb h => ?_, fun d r h => ?_, fun d k v n h => ?_, fun d k v n f h none_ => ?_,
        fun d k v n f g h next bound hb => ?_⟩⟩
    all_goals rw [issue]
    · rw [offIssue_unmapped (e := withOn s e) unmapped]
      exact onIssue_unmapped unmapped free
    · rw [offIssue_keyOn (e := withOn s e) h]
      exact onIssue_mapped hu h
    · rw [offIssue_keyOn (e := withOn s e) h]
      exact onIssue_mapped hu h
    · exact offIssue_stopSet (e := withOn s e) hu h
    · exact offIssue_keyOff (e := withOn s e) hu h rfl
    · refine offIssue_keyOff (e := withOn s e) hu h ?_
      have gone : onOf (retimeList s s.queue) f = none := List.find?_eq_none.2 fun x hx same => none_ x hx (beq_iff_eq.1 same)
      rw [onOf_retimeList, Option.map_eq_none_iff] at gone
      exact gone
    · have found : onOf (retimeList s s.queue) f = some g := next
      rw [onOf_retimeList, Option.map_eq_some_iff] at found
      obtain ⟨g', hg, rfl⟩ := found
      have pair : g'.action.onPair = some f := by simpa using List.find?_some hg
      rw [offIssue_follows (e := withOn s e) hu h hg, hb, withOff_keyOn s _ pair]
      rfl
  · obtain ⟨⟨close, order⟩, stable⟩ := sortEntries_ordered (now := s.now) near
    refine ⟨order.imp_of_mem fun {x y} hx hy le => ?_, stable⟩
    exact (atOrBefore_near (close x hx) (close y hy)).2 le
  · rintro late rfl
    rfl

end Sys2Proof.Machine

/-! PROOFS. The running order of a plan and its tune (R26 to R28). -/

namespace Sys2Proof.Machine

-- The proofs are elaborated one after another, which keeps the whole text within its memory.
set_option Elab.async false

section
variable (p : Plan) (x : Tune)

/-- The number of introduction segments (R26). -/
def introCount : Nat :=
  match p.introKind with
  | .none => 0
  | .lastLine => 1
  | .firstLast => if x.lines.length ≤ 1 then 1 else 2
  | .whole => 1

theorem introSegments_length : (introSegments p x).length = introCount p x := by
  unfold introSegments introCount
  cases p.introKind with
  | firstLast =>
    dsimp only
    split <;> rfl
  | none => rfl
  | lastLine => rfl
  | whole => rfl

theorem introCount_le : introCount p x ≤ 2 := by
  unfold introCount
  cases p.introKind with
  | firstLast =>
    dsimp only
    split <;> decide
  | none => exact Nat.zero_le 2
  | lastLine => exact Nat.le_succ 1
  | whole => exact Nat.le_succ 1

/-- An introduction segment is the introduction segment of its range (R26). -/
theorem introSegments_get {i : Nat} {g : Segment} (h : (introSegments p x)[i]? = some g) : g = introSegment p
    (if introCount p x = 2 ∧ i = 1 ∨ p.introKind = .lastLine then lastLineStart x else 0)
    (if introCount p x = 2 ∧ i = 0 then x.lines.head?.elim 0 (·.stop) else x.verseEnd) := by
  unfold introSegments introCount at *
  cases kind : p.introKind with
  | none => simp [kind] at h
  | lastLine =>
    obtain ⟨rfl, rfl⟩ : i = 0 ∧ introSegment p (lastLineStart x) x.verseEnd = g := by
      simpa [kind, List.getElem?_singleton] using h
    simp
  | whole =>
    obtain ⟨rfl, rfl⟩ : i = 0 ∧ introSegment p 0 x.verseEnd = g := by simpa [kind, List.getElem?_singleton] using h
    simp
  | firstLast =>
    rw [kind] at h
    dsimp only at h ⊢
    by_cases short : x.lines.length ≤ 1
    · obtain ⟨rfl, rfl⟩ : i = 0 ∧ introSegment p 0 x.verseEnd = g := by simpa [short, List.getElem?_singleton] using h
      simp [short]
    · rw [if_neg short] at h ⊢
      match i, h with
      | 0, h => simp_all
      | 1, h => simp_all

theorem verseSegments_get (hasIntro : Bool) {first n k : Nat} (h : first + k ≤ n) :
    (verseSegments p x hasIntro first n)[k]? = some (verseSegment p x hasIntro (first + k)) := by
  rw [verseSegments, List.getElem?_map, List.getElem?_range (by omega), Option.map_some]

theorem verseSegments_length (hasIntro : Bool) (n : Nat) : (verseSegments p x hasIntro 1 n).length = n := by
  rw [verseSegments, List.length_map, List.length_range, Nat.add_sub_cancel]

theorem amenSegments_length (n : Nat) :
    (amenSegments p x n).length = if p.amen = true ∧ x.amen.isSome = true then 1 else 0 := by
  unfold amenSegments
  cases p.amen <;> cases x.amen <;> rfl

theorem hasIntro_eq : (introSegments p x != []) = decide (introCount p x ≠ 0) := by
  rw [← introSegments_length]
  cases introSegments p x <;> simp

/-- A plan has a record that serves each verse (02, 2.1). -/
theorem recordFor_get (h : 1 ≤ p.verses.length) (k : Nat) :
    p.verses[min (k - 1) (p.verses.length - 1)]? = some (recordFor p k) := by
  have inside : min (k - 1) (p.verses.length - 1) < p.verses.length := by omega
  rw [recordFor, List.getD_eq_getElem?_getD, List.getElem?_eq_getElem inside]
  rfl

end

/-- Settles O20. -/
theorem runningOrderFollowsPlan : Obligations.RunningOrderFollowsPlan := by
  intro p x m records most least hm
  obtain rfl : m = introCount p x := by
    rw [hm]
    unfold introCount
    cases p.introKind <;> rfl
  have intro_ := introSegments_length p x
  have verses := verseSegments_length p x (introSegments p x != []) p.verseCount
  have amen := amenSegments_length p x p.verseCount
  have few := introCount_le p x
  have total : (runningOrder p x).length = introCount p x + p.verseCount + (if p.amen = true ∧ x.amen.isSome = true then 1 else 0) := by
    rw [runningOrder, List.length_append, List.length_append, intro_, verses, amen]
  refine ⟨?_, total, fun i g hi hg => ?_, fun k first last => ?_, fun tail wanted hx => ?_⟩
  · rw [total]
    split <;> omega
  · have here : (introSegments p x)[i]? = some g := by
      rwa [runningOrder, List.getElem?_append_left (by rw [List.length_append]; omega), List.getElem?_append_left (by omega)] at hg
    rw [introSegments_get p x here]
    refine ⟨rfl, rfl, rfl, rfl, rfl, rfl, rfl, rfl, fun l hl => ?_, fun l hl => ?_⟩
    · have start : lastLineStart x = l.start := by rw [lastLineStart, hl, Option.elim_some]
      rw [← start]
      rfl
    · have stop : x.lines.head?.elim 0 (·.stop) = l.stop := by rw [hl, Option.elim_some]
      rw [← stop]
      rfl
  · refine ⟨verseSegment p x (introSegments p x != []) k, recordFor p k, ?_, recordFor_get p records k, rfl, fun one => ?_,
      fun more => ?_⟩
    · have place : introCount p x + k - 1 = (introSegments p x).length + (k - 1) := by omega
      rw [runningOrder, List.getElem?_append_left (by rw [List.length_append]; omega), place,
        List.getElem?_append_right (Nat.le_add_right _ _), Nat.add_sub_cancel_left, verseSegments_get p x _ (by omega)]
      rw [Nat.add_sub_cancel' first]
    · subst one
      have rest : (verseSegment p x (introSegments p x != []) 1).restBefore =
          if (introSegments p x != []) = true then p.givingOut else 0 := rfl
      rw [rest, hasIntro_eq]
      by_cases none_ : introCount p x = 0 <;> simp [none_]
    · refine ⟨recordFor p (k - 1), recordFor_get p records (k - 1), ?_⟩
      exact if_neg (by omega)
  · refine ⟨recordFor p p.verseCount, recordFor_get p records p.verseCount, ?_⟩
    have place : introCount p x + p.verseCount =
        (introSegments p x ++ verseSegments p x (introSegments p x != []) 1 p.verseCount).length := by
      rw [List.length_append, intro_, verses]
    rw [runningOrder, place, List.getElem?_append_right (Nat.le_refl _), Nat.sub_self, amenSegments, wanted, hx]
    rfl

end Sys2Proof.Machine

/-! PROOFS. A hymn starts, is replaced, is stopped at once and closes (R23 to R25, R33, R37, R38). -/

namespace Sys2Proof.Machine

-- The proofs are elaborated one after another, which keeps the whole text within its memory.
set_option Elab.async false

/-! ### What ends a hymn -/

theorem mapIdx_eq_ofFn {α β : Type} {n : Nat} (f : Fin n → α → β) (v : Vector α n) : mapIdx f v = Vector.ofFn fun i => f i v[i] := by
  refine Vector.ext fun i hi => ?_
  rw [Vector.getElem_ofFn, mapIdx_getElem f v ⟨i, hi⟩]
  rfl

theorem releaseKeys_eq (x : Division) : releaseKeys x = { x with keys := Vector.ofFn fun k : KeyNo => { x.keys[k] with
    holders := 0, fault := if x.keys[k].fault = .clearedPending then .normal else x.keys[k].fault } } := by
  rw [releaseKeys, mapIdx_eq_ofFn]
  simp only [released_eq]

theorem releaseAll_eq (a : State) : releaseAll a = { a with drivers := { a.drivers with divisions := Vector.ofFn fun d =>
    { div a d with keys := Vector.ofFn fun k => { key a d k with
      holders := 0, fault := if (key a d k).fault = .clearedPending then .normal else (key a d k).fault } } } } := by
  rw [releaseAll, mapDivisions, mapIdx_eq_ofFn]
  simp only [releaseKeys_eq]
  rfl

theorem idleRamps_eq (a : State) : idleRamps a = { a with expression := { a.expression with
    shutters := Vector.ofFn fun d => { shutter a d with running := .idle, queued := none, uncounted := 0 } } } := by
  rw [idleRamps, mapShutters, mapIdx_eq_ofFn]
  rfl

/-- A part whose state is REJOINING, or YIELDED with both sources absent, is released when the hymn ends (R197, R200). -/
theorem idleYield_eq {a w : State} (hy : w.yielding = a.yielding) (hn : w.now = a.now) : idleYield w = idleReturns a w := by
  have returns : (w.yielding.state == .rejoining || awaiting w) = true ↔
      a.yielding.state = .rejoining ∨ (a.yielding.state = .yielded ∧ a.yielding.pin = false ∧ a.yielding.link = false) := by
    rw [hy]
    simp [awaiting, yielded, anySource, hy]
  unfold idleYield idleReturns
  by_cases h : a.yielding.state = .rejoining ∨ (a.yielding.state = .yielded ∧ a.yielding.pin = false ∧ a.yielding.link = false)
  · rw [if_pos (returns.2 h), if_pos h, ← hn]
    rfl
  · rw [if_neg (mt returns.1 h), if_neg h]

theorem HymnGone.reads {a w : State} (h : HymnGone a w) : w.yielding = a.yielding ∧ w.now = a.now ∧ w.store = a.store ∧
    w.plan.staged = a.plan.staged ∧ w.plan.queued = a.plan.queued := by
  obtain ⟨plan, -, -, -, -, -, frame⟩ := h
  refine ⟨?_, ?_, ?_, by rw [plan], by rw [plan]⟩
  · have := congrArg State.yielding frame
    exact this
  · have := congrArg State.now frame
    exact this
  · have := congrArg State.store frame
    exact this

/-- The end of a hymn, with what the yield unit does then (R24, R33, R200). -/
theorem hymnEnds (reason : HymnEndReason) (v : State) : ∃ w, HymnGone v w ∧
    idleYield (hymnOver reason v) = idleReturns v (notice (hymnEndOf reason v) w) := by
  refine ⟨hymnCleared v, hymnCleared_gone v, ?_⟩
  obtain ⟨yielding, now, -⟩ := (hymnCleared_gone v).reads
  obtain ⟨l, told⟩ := notice_eq (hymnEndOf reason v) (hymnCleared v)
  rw [hymnOver_eq]
  exact idleYield_eq (by rw [told]; exact yielding) (by rw [told]; exact now)

/-- After a hymn's end the counter, the store and the staged plan stand as they did. -/
theorem idleReturns_reads {a v w : State} (n : Notice) (h : HymnGone v w) :
    (idleReturns a (notice n w)).now = v.now ∧ (idleReturns a (notice n w)).store = v.store ∧ (idleReturns a (notice n w)).plan.staged = v.plan.staged ∧
      (idleReturns a (notice n w)).plan.queued = v.plan.queued := by
  obtain ⟨-, now, store, staged, queued⟩ := h.reads
  obtain ⟨l, told⟩ := notice_eq n w
  rw [told]
  unfold idleReturns
  split
  · obtain ⟨l', told'⟩ := notice_eq (.yieldReleased a.now) ({ ({ w with link := l } : State) with
      yielding := { w.yielding with state := .playingFree, rejoin := none } })
    rw [told']
    exact ⟨now, store, staged, queued⟩
  · exact ⟨now, store, staged, queued⟩

theorem hymnStart_reads {p : Plan} {x : Tune} {v u : State} (h : HymnBegun p x v u) :
    startedReply u = ok (e8 0 ++ e32 (v.now + 10000) ++ e8 (runningOrder p x).length) := by
  obtain ⟨plan, -⟩ := h
  rw [startedReply, plan]
  rfl

/-! ### PLAN_START and STOP NOW -/

theorem startStaged_idle {s : State} {p : Plan} {x : Tune} (h : startable s = some (p, x)) (idle : s.plan.play = .idle) :
    startStaged s = hymnStart p x s := by
  simp only [startStaged, h, if_pos idle]

theorem startStaged_replaces {s : State} {p : Plan} {x : Tune} (h : startable s = some (p, x)) (play : s.plan.play ≠ .idle) :
    startStaged s = hymnStart p x (tearDown .replaced s) := by
  simp only [startStaged, h, if_neg play]

theorem doPlanStartNow_starts {s : State} (h : startRefusal s = none) :
    doPlanStartNow [0] s = (startStaged s, startedReply (startStaged s)) := by
  have now : byteAt [0] 0 = 0 := rfl
  simp only [doPlanStartNow, now, ne_eq, not_true_eq_false, if_false, h]

theorem doPlanStartNext_starts {s : State} (h : startRefusal s = none) (idle : s.plan.play = .idle) :
    doPlanStartNext s = (startStaged s, startedReply (startStaged s)) := by
  simp only [doPlanStartNext, h, if_pos idle]

/-- Settles O21. -/
theorem planStartBegins : Obligations.PlanStartBegins := by
  rintro t tag p x s hs a rfl run free hp hx
  have ready := startable_some hp hx
  have open_ : startRefusal (arrive t s) = none := by
    rw [startRefusal_free run free, ready]
    rfl
  refine ⟨fun idle => ?_, fun play v hv => ?_⟩
  · have begun := hymnStart_begun hx
    refine ⟨_, begun, ?_⟩
    rintro r rfl
    have reply := hymnStart_reads begun
    rw [← startStaged_idle ready idle] at reply ⊢
    have now := exec_planStartNow (tag := tag) hs (by decide : (0 : Byte) ≠ 1) (doPlanStartNow_starts open_)
    have next := exec_planStartNext (tag := tag) hs (doPlanStartNext_starts open_ idle)
    rw [reply] at now next
    exact ⟨now, next⟩
  · have acts := exec_planStartNow (tag := tag) hs (by decide : (0 : Byte) ≠ 1) (doPlanStartNow_starts open_)
    rw [startStaged_replaces ready play, tearDown, releaseAll_eq, ← hv] at acts
    obtain ⟨w, gone, ends⟩ := hymnEnds .replaced v
    have told : hymnEndOf .replaced v = hymnEndOf .replaced (arrive t s) := by
      rw [hv]
      rfl
    have returns (u : State) : idleReturns v u = idleReturns (arrive t s) u := by
      rw [hv]
      rfl
    rw [ends, told, returns] at acts
    obtain ⟨now, store, -, -⟩ := idleReturns_reads (a := arrive t s) (hymnEndOf .replaced (arrive t s)) gone
    have hx' : slot (idleReturns (arrive t s) (notice (hymnEndOf .replaced (arrive t s)) w)) p.slot = .ready x := by
      rw [slot, store, hv]
      exact hx
    have begun := hymnStart_begun hx'
    refine ⟨w, _, gone, begun, ?_⟩
    have same : v.now = (arrive t s).now := by rw [hv]
    rw [hymnStart_reads begun, now, same] at acts
    exact acts

theorem doStopNow_refuses {b : List Byte} {s : State} (form : byteAt b 0 ≠ 0) : doStopNow b s = (s, refuse .badField) := if_pos form

theorem doStopNow_idle {s : State} (idle : s.plan.play = .idle) (none_ : s.levelling.run = none) :
    doStopNow [0] s = (s, refuse .notPlaying) := by
  have now : byteAt [0] 0 = 0 := rfl
  simp only [doStopNow, now, ne_eq, not_true_eq_false, if_false, if_pos idle, none_]

theorem doStopNow_run {s : State} {r : LevelRun} (idle : s.plan.play = .idle) (run : s.levelling.run = some r) :
    doStopNow [0] s = (if r.phase = .done then idleRamps s else abortRun r .stop (idleRamps s), ok []) := by
  have now : byteAt [0] 0 = 0 := rfl
  simp only [doStopNow, now, ne_eq, not_true_eq_false, if_false, if_pos idle, run]

theorem doStopNow_playing {s : State} (play : s.plan.play ≠ .idle) :
    doStopNow [0] s = (tearDown .stopped (setPlan { s.plan with queued := false } s), ok []) := by
  have now : byteAt [0] 0 = 0 := rfl
  simp only [doStopNow, now, ne_eq, not_true_eq_false, if_false, if_neg play]

theorem exec_stopNow {s u : State} {t : Time} {tag form : Byte} {x : Answer} (hs : Listens s) (line : form ≠ 1) (verse : form ≠ 2)
    (hx : doStopNow [form] (arrive t s) = (u, x)) : exec (.stopNow t tag [form]) s = .next (answer 0x0C tag x.status x.fields u) := by
  have taken := request_taken (t := t) (f := ⟨0x0C, tag, [form]⟩) (mine := !isStopLine [form] && !isStopVerse [form])
    (doStopNow [form]) hs rfl (by simpa [isStopLine, isStopVerse] using And.intro line verse) rfl
    (lengthOk := lengthAllowed 0x0C [form])
  rw [hx] at taken
  exact taken

/-- Settles O23. -/
theorem stopNowEnds : Obligations.StopNowEnds := by
  rintro t tag s hs a rfl
  have zero {u : State} {x : Answer} (hx : doStopNow [0] (arrive t s) = (u, x)) :
      exec (.stopNow t tag [0]) s = .next (answer 0x0C tag x.status x.fields u) :=
    exec_stopNow hs (by decide) (by decide) hx
  refine ⟨fun form h => ?_, fun idle none_ => zero (doStopNow_idle idle none_), fun r idle run v hv => ⟨fun done => ?_, fun going => ?_⟩,
    fun play v hv => ?_⟩
  · have other (k : Byte) (hk : k.toNat < 3) : form ≠ k := by
      rintro rfl
      omega
    have form0 : byteAt [form] 0 ≠ 0 := fun h0 => by
      have : form.toNat = 0 := h0
      omega
    exact exec_stopNow hs (other 1 (by decide)) (other 2 (by decide)) (doStopNow_refuses form0)
  · have acts := zero (doStopNow_run idle run)
    rw [if_pos done, idleRamps_eq, ← hv] at acts
    exact acts
  · have acts := zero (doStopNow_run idle run)
    rw [if_neg going, idleRamps_eq, ← hv] at acts
    exact ⟨_, enterDone_done r _ v, acts⟩
  · have acts := zero (doStopNow_playing play)
    have released : releaseAll (setPlan { (arrive t s).plan with queued := false } (arrive t s)) = v := by
      rw [releaseAll_eq, hv]
      rfl
    rw [tearDown, released] at acts
    obtain ⟨w, gone, ends⟩ := hymnEnds .stopped v
    have told : hymnEndOf .stopped v = hymnEndOf .stopped (arrive t s) := by
      rw [hv]
      rfl
    have returns (u : State) : idleReturns v u = idleReturns (arrive t s) u := by
      rw [hv]
      rfl
    rw [ends, told, returns] at acts
    exact ⟨w, gone, acts⟩

/-! ### HYMN_CLOSE -/

theorem closingHolds_closed {a : State} (play : a.plan.play = .closing) (entries : ∀ e ∈ a.queue, ∃ d r, e.action = .stopSet d r)
    (keys : ∀ d k, (key a d k).holders = 0)
    (left : (∃ c, a.expander.cursor = .after c ∧ a.plan.order.length ≤ c + 1) ∨
      (a.expander.cursor = .none ∧ a.plan.order = []) ∨ yielded a = true) : closingHolds a = true := by
  have noKey : a.queue.all (fun e => !e.isKey) = true := by
    refine List.all_eq_true.2 fun e he => ?_
    obtain ⟨d, r, h⟩ := entries e he
    rw [Entry.isKey, h]
    rfl
  have done : (nothingLeft a || yielded a) = true := by
    rw [← or_assoc] at left
    refine (Bool.or_eq_true _ _).mpr (left.imp (fun left => ?_) id)
    rcases left with ⟨c, hc, last⟩ | ⟨hc, empty⟩
    · simp [nothingLeft, hc, last]
    · simp [nothingLeft, hc, empty]
  rw [closingHolds, play, noKey, allReleased_iff.2 keys, done]
  rfl

theorem startQueued_none {u : State} (h : u.plan.queued = false ∨ yielded u = true) : startQueued u = u := by
  refine if_neg fun starts => ?_
  rw [Bool.and_eq_true, Bool.not_eq_true'] at starts
  rcases h with h | h
  · exact Bool.noConfusion (starts.1.symm.trans h)
  · exact Bool.noConfusion (starts.2.symm.trans h)

theorem startQueued_starts {u : State} {p : Plan} {x : Tune} (queued : u.plan.queued = true) (free : yielded u = false)
    (h : startable u = some (p, x)) : startQueued u = hymnStart p x u := by
  simp only [startQueued, queued, free, Bool.not_false, Bool.and_self, if_true, h]

/-- Settles O45. -/
theorem hymnCloses : Obligations.HymnCloses := by
  rintro t s runs a rfl play entries keys left
  have acts := event_acts (t := t) (p := closingHolds) closeHymn runs (closingHolds_closed play entries keys left)
  rw [closeHymn] at acts
  generalize arrive t s = a at *
  obtain ⟨w, gone, ends⟩ := hymnEnds (if a.plan.stopped then .stopped else .completed) a
  obtain ⟨-, store, staged, queued⟩ := idleReturns_reads (a := a) (hymnEndOf (if a.plan.stopped then .stopped else .completed) a) gone
  refine ⟨w, _, gone, rfl, fun still => ?_, fun p x wants free hp hx => ?_⟩
  · rw [ends, startQueued_none (still.imp (fun h => queued.trans h) id)] at acts
    exact acts
  · have hx' : slot (idleReturns a (notice (hymnEndOf (if a.plan.stopped then .stopped else .completed) a) w)) p.slot = .ready x := by
      rw [slot, store]
      exact hx
    rw [ends, startQueued_starts (queued.trans wants) free (startable_some (staged.trans hp) hx')] at acts
    exact ⟨_, hymnStart_begun hx', acts⟩

end Sys2Proof.Machine

/-! PROOFS. What STOP LINE, STOP VERSE and VERSES cut away, and what they leave (R39 to R41). -/

namespace Sys2Proof.Machine

-- The proofs are elaborated one after another, which keeps the whole text within its memory.
set_option Elab.async false

/-! ### The cut -/

theorem cutPairs_contains (c e : Nat) (q : List Entry) (n : BitVec 16) : (cutPairs c e q).contains n =
    q.any fun y => y.action.onPair == some n && (decide (c < y.segment) || (y.segment == c && decide (e ≤ y.pos))) := by
  rw [Bool.eq_iff_iff, List.contains_iff_mem, List.any_eq_true, cutPairs, List.mem_filterMap]
  refine exists_congr fun y => ?_
  rw [List.mem_filter, Bool.and_eq_true, beq_iff_eq, cutOn, Bool.and_eq_true]
  constructor
  · rintro ⟨⟨hy, -, beyond⟩, pair⟩
    exact ⟨hy, pair, beyond⟩
  · rintro ⟨hy, pair, beyond⟩
    exact ⟨⟨hy, by rw [pair]; rfl, beyond⟩, pair⟩

/-- What a cut keeps of one entry (R40). -/
theorem cutKeeps_eq (c e : Nat) (pairs : List (BitVec 16)) (x : Entry) : cutKeeps c e pairs.contains x =
    if cutEntry c pairs x = true then none else some (dropFollowOn pairs.contains (moveOff c e x)) := by
  unfold cutKeeps cutEntry
  cases ha : x.action with
  | keyOn d k v n nb =>
    have still : moveOff c e x = x := by simp [moveOff, ha, Action.offPair]
    simp [still, dropFollowOn, ha]
  | stopSet d r =>
    have still : moveOff c e x = x := by simp [moveOff, ha, Action.offPair]
    dsimp only
    rw [still, dropFollowOn, ha]
    by_cases h : x.segment < c
    · rw [if_pos h, if_neg (by simpa using h)]
    · rw [if_neg h, if_pos (by simpa using h)]
  | keyOff d k v n f =>
    obtain ⟨action, segment, pos, issue⟩ := x
    obtain rfl : action = .keyOff d k v n f := ha
    have moved : moveOff c e ⟨.keyOff d k v n f, segment, pos, issue⟩ =
        ⟨.keyOff d k v n f, segment, if segment = c then min pos e else pos, issue⟩ := by
      unfold moveOff
      by_cases here : segment = c
      · by_cases past : e < pos
        · simp [Action.offPair, here, past, Nat.min_eq_right (Nat.le_of_lt past)]
        · simp [Action.offPair, here, past, Nat.min_eq_left (Nat.not_lt.1 past)]
      · simp [here]
    have removed : (pairs.contains n || decide (c < segment)) = true ↔ pairs.contains n = true ∨ c < segment := by
      rw [Bool.or_eq_true, decide_eq_true_iff]
    dsimp only
    by_cases gone : pairs.contains n = true ∨ c < segment
    · rw [if_pos gone, if_pos (removed.2 gone)]
    · rw [if_neg gone, if_neg (mt removed.1 gone), moved]
      cases f with
      | none => rfl
      | some m =>
        cases hm : pairs.contains m
        · simp only [dropFollowOn, Option.filter, hm, Bool.not_false, if_true, Bool.false_eq_true, if_false]
        · simp only [dropFollowOn, Option.filter, hm, Bool.not_true, if_true, Bool.false_eq_true, if_false]

theorem cutQueue_eq (c e : Nat) (q : List Entry) : cutQueue c e q = q.filterMap (cutKeeps c e (cutPairs c e q).contains) := by
  have keeps : cutKeeps c e (cutPairs c e q).contains = fun x => if cutEntry c (cutPairs c e q) x = true then none
      else some (dropFollowOn (cutPairs c e q).contains (moveOff c e x)) := funext (cutKeeps_eq c e _)
  rw [keeps, cutQueue]
  generalize (cutPairs c e q) = pairs
  clear keeps
  induction q with
  | nil => rfl
  | cons x q ih => cases hx : cutEntry c pairs x <;> simp_all

theorem cursorCut_iff (c e : Nat) (v : State) : cursorCut c e v = true ↔
    (∃ g i x, v.expander.cursor = .at_ g i ∧ (activeEvents v)[i]? = some x ∧ g = c ∧ e ≤ x.pos) ∨
      (∃ g i, v.expander.cursor = .at_ g i ∧ c < g) ∨ ∃ g, v.expander.cursor = .after g ∧ c < g := by
  unfold cursorCut
  cases v.expander.cursor with
  | none => simp
  | after g => simp
  | at_ g i =>
    simp only [Bool.or_eq_true, Bool.and_eq_true, decide_eq_true_eq, beq_iff_eq, Option.any_eq_true]
    constructor
    · rintro (later | ⟨here, x, found, past⟩)
      · exact .inr (.inl ⟨g, i, rfl, later⟩)
      · exact .inl ⟨g, i, x, rfl, found, here, past⟩
    · rintro (⟨g, i, x, ⟨⟩, found, here, past⟩ | ⟨g, i, ⟨⟩, later⟩ | ⟨g, ⟨⟩, -⟩)
      · exact .inr ⟨here, x, found, past⟩
      · exact .inl later

theorem cutAt_done (c e : Nat) (v : State) : CutDone c e v (cutAt c e v) where
  cues := by
    unfold cutAt
    dsimp only
    split <;> rfl
  pauses := by
    unfold cutAt
    dsimp only
    split <;> rfl
  queue gone h := by
    have same : gone = (cutPairs c e v.queue).contains := funext fun n => by rw [h n, cutPairs_contains]
    have cut : (cutAt c e v).queue = cutQueue c e v.queue := by
      unfold cutAt
      dsimp only
      split <;> rfl
    rw [cut, cutQueue_eq, same]
  cursorPast past := by
    rw [cutAt, if_pos ((cursorCut_iff c e v).2 past)]
    rfl
  cursorBefore before := by rw [cutAt, if_neg (mt (cursorCut_iff c e v).1 before)]
  frame := by
    unfold cutAt
    dsimp only
    split <;> rfl

/-- A rejoin point that was cut away is left with its notice (R200). -/
theorem leaveRejoining_lost {gone : RejoinPoint → Bool} {lost : RejoinPoint → Prop} (same : ∀ p, gone p = true ↔ lost p) (v : State) :
    rejoinLost lost v (leaveRejoining gone v) := by
  have left : (v.yielding.state == .rejoining && v.yielding.rejoin.any gone) = true ↔
      ∃ p, v.yielding.state = .rejoining ∧ v.yielding.rejoin = some p ∧ lost p := by
    rw [Bool.and_eq_true, beq_iff_eq, Option.any_eq_true]
    constructor
    · rintro ⟨state, p, hp, cut⟩
      exact ⟨p, state, hp, (same p).1 cut⟩
    · rintro ⟨p, state, hp, cut⟩
      exact ⟨state, p, hp, (same p).2 cut⟩
  exact ⟨fun h => if_pos (left.2 h), fun h => if_neg (mt left.1 h)⟩

theorem beyond_iff (c e : Nat) (p : RejoinPoint) : p.beyond c e = true ↔ c < p.segment ∨ (p.segment = c ∧ e ≤ p.pos) := by
  simp [RejoinPoint.beyond]

theorem cutAway_lost (c e : Nat) (v : State) :
    rejoinLost (fun p => c < p.segment ∨ (p.segment = c ∧ e ≤ p.pos)) (cutAt c e v) (cutAway c e v) :=
  leaveRejoining_lost (beyond_iff c e) _

/-! ### STOP LINE and STOP VERSE -/

theorem shorten_eq {c : Nat} {g : Segment} {order : List Segment} (hg : order[c]? = some g) (e : Nat) :
    shorten c e order = order.take c ++ [{ g with sTo := min g.sTo e }] := by
  obtain ⟨hc, get⟩ := List.getElem?_eq_some_iff.1 hg
  refine List.ext_getElem ?_ fun i h1 h2 => ?_
  · simp [shorten]
    omega
  · by_cases last : i = c
    · subst last
      simp [shorten, get, Nat.min_eq_left (Nat.le_of_lt hc)]
    · have before : i < c := by
        simp at h2
        omega
      have inTake : i < (order.take c).length := by
        rw [List.length_take]
        omega
      rw [List.getElem_append_left inTake, List.getElem_take]
      simp [shorten, last]

theorem cutStartingQueue_eq (now : Time) (q : List Entry) : cutStartingQueue now q = q.filterMap fun y => match y.action with
    | .keyOff d k o n _ => if q.any fun z => z.action.onPair == some n then none
      else some { y with action := .keyOff d k o n none, issue := now }
    | .keyOn _ _ _ _ _ => none
    | .stopSet _ _ => none := by
  rw [cutStartingQueue]
  generalize hon : onQueued q = on
  have queued (n : BitVec 16) : (q.any fun z => z.action.onPair == some n) = on n := by rw [← hon]; rfl
  simp only [queued]
  clear hon queued
  induction q with
  | nil => rfl
  | cons y q ih =>
    cases ha : y.action with
    | keyOn d k v n nb => simp_all [Action.offPair]
    | stopSet d r => simp_all [Action.offPair]
    | keyOff d k v n f =>
      cases hn : on n
      · cases f <;> simp_all [Action.offPair, dropFollowOn]
      · simp_all [Action.offPair]

section
variable {a : State} {line : Bool} {c : Nat} {g : Segment}

theorem stopPart_segment (play : a.plan.play = .segment) (hc : a.map.current = some c) (hg : currentSegment a = some g) :
    stopPart line a = mapChanged (stopAt c (stopEnd line g (syncRamps a)) (syncRamps a)) := by
  simp only [stopPart, syncRamps_play, syncRamps_map, currentSegment_syncRamps, play, hc, hg]

theorem stopPart_rest (play : a.plan.play = .rest) (hc : a.map.current = some c) (hg : currentSegment a = some g) :
    stopPart line a = mapChanged (setPlay .closing (stopAt c g.sTo (syncRamps a))) := by
  simp only [stopPart, syncRamps_play, syncRamps_map, currentSegment_syncRamps, play, hc, hg]

theorem stopPart_starting (play : a.plan.play = .starting) : stopPart line a = mapChanged (stopStarting (syncRamps a)) := by
  simp only [stopPart, syncRamps_play, play]

theorem stopPartAtOnce_cuts (playing : a.plan.play ≠ .idle ∧ a.plan.play ≠ .closing) :
    stopPartAtOnce line a = (settle a (stopPart line a), ok []) := by
  have cuts : doStopPart line a = (stopPart line a, ok []) := by
    unfold doStopPart
    cases play : a.plan.play with
    | idle => exact absurd play playing.1
    | closing => exact absurd play playing.2
    | starting => rfl
    | segment => rfl
    | rest => rfl
  rw [stopPartAtOnce, if_neg (not_or.2 playing), cuts]

theorem stopPartAtOnce_idle (play : a.plan.play = .idle) : stopPartAtOnce line a = (a, refuse .notPlaying) := by
  rw [stopPartAtOnce, if_pos (.inl play), doStopPart, play]

theorem stopPartAtOnce_closing (play : a.plan.play = .closing) : stopPartAtOnce line a = (a, ok []) := by
  rw [stopPartAtOnce, if_pos (.inr play), doStopPart, play]

end

section
variable {s u : State} {t : Time} {tag : Byte} {x : Answer} (hs : Listens s)
include hs

theorem exec_stopLine (hx : stopPartAtOnce true (arrive t s) = (u, x)) :
    exec (.stopLine t tag [1]) s = .next (answer 0x0C tag x.status x.fields u) :=
  request_of_handler (f := ⟨0x0C, tag, [1]⟩) hs rfl rfl hx

theorem exec_stopVerse (hx : stopPartAtOnce false (arrive t s) = (u, x)) :
    exec (.stopVerse t tag [2]) s = .next (answer 0x0C tag x.status x.fields u) :=
  request_of_handler (f := ⟨0x0C, tag, [2]⟩) hs rfl rfl hx

theorem exec_verses {n : Byte} (hx : versesAtOnce [n] (arrive t s) = (u, x)) :
    exec (.verses t tag [n]) s = .next (answer 0x0D tag x.status x.fields u) :=
  request_of_handler (f := ⟨0x0D, tag, [n]⟩) hs rfl rfl hx

end

/-- Settles O24. -/
theorem stopPartCuts : Obligations.StopPartCuts := by
  rintro t tag s hs a rfl v rfl
  have line {u : State} {x : Answer} := exec_stopLine (u := u) (x := x) (tag := tag) (t := t) hs
  have verse {u : State} {x : Answer} := exec_stopVerse (u := u) (x := x) (tag := tag) (t := t) hs
  generalize arrive t s = a at *
  refine ⟨fun idle => ⟨line (stopPartAtOnce_idle idle), verse (stopPartAtOnce_idle idle)⟩, fun c g play hc hg atLine e he => ?_,
    fun c g play hc hg => ?_, fun play => ?_, fun play r hr => ?_⟩
  · have order : (syncRamps a).plan.order[c]? = some g := by
      rw [syncRamps_order]
      rw [currentSegment, hc] at hg
      exact hg
    have end_ : stopEnd atLine g (syncRamps a) = e := by
      rw [stopEnd, he]
      cases currentLine (syncRamps a) <;> rfl
    have cut := shorten_eq order e
    rw [syncRamps_order] at cut
    refine ⟨_, _, cutAt_done c e _, cutAway_lost c e _, fun yes => ?_, fun no => ?_⟩
    · rw [yes] at end_
      have acts := line (stopPartAtOnce_cuts (by rw [play]; decide))
      rw [stopPart_segment play hc hg, end_, stopAt, syncRamps_order, cut] at acts
      exact acts
    · rw [no] at end_
      have acts := verse (stopPartAtOnce_cuts (by rw [play]; decide))
      rw [stopPart_segment play hc hg, end_, stopAt, syncRamps_order, cut] at acts
      exact acts
  · have order : (syncRamps a).plan.order[c]? = some g := by
      rw [syncRamps_order]
      rw [currentSegment, hc] at hg
      exact hg
    have cut := shorten_eq order g.sTo
    rw [Nat.min_self, syncRamps_order] at cut
    refine ⟨_, _, cutAt_done c g.sTo _, cutAway_lost c g.sTo _, ?_⟩
    rintro r rfl
    have byLine := line (stopPartAtOnce_cuts (by rw [play]; decide))
    have byVerse := verse (stopPartAtOnce_cuts (by rw [play]; decide))
    rw [stopPart_rest play hc hg, stopAt, syncRamps_order, cut] at byLine byVerse
    exact ⟨byLine, byVerse⟩
  · have byLine := line (stopPartAtOnce_cuts (by rw [play]; decide))
    have byVerse := verse (stopPartAtOnce_cuts (by rw [play]; decide))
    rw [stopPart_starting play, stopStarting] at byLine byVerse
    refine ⟨cutStarting (setPlan { (syncRamps a).plan with
      order := [], play := .closing, startTime := none, stopped := true } (syncRamps a)), _, rfl, ?_,
      leaveRejoining_lost (fun _ => ⟨fun _ => trivial, fun _ => rfl⟩) _, ?_⟩
    · show cutStartingQueue (syncRamps a).now (syncRamps a).queue = _
      rw [syncRamps_now, syncRamps_queue]
      exact cutStartingQueue_eq a.now a.queue
    · rintro r rfl
      exact ⟨byLine, byVerse⟩
  · subst hr
    exact ⟨line (stopPartAtOnce_closing play), verse (stopPartAtOnce_closing play)⟩

/-! ### VERSES -/

theorem currentVerse_eq (a : State) : currentVerse a = if a.plan.play = .segment ∨ a.plan.play = .rest
    then (currentSegment a).elim 0 (·.verse) else 0 := by
  unfold currentVerse
  cases a.plan.play <;> rfl

theorem versesClosed_iff (a : State) : versesClosed a = true ↔ a.plan.play = .closing ∨ a.plan.stopped = true ∨
    ∃ g, currentSegment a = some g ∧ g.kind = .amen := by
  simp only [versesClosed, Bool.or_eq_true, beq_iff_eq, Option.any_eq_true, or_assoc]

section
variable {a : State} {n : Byte}

theorem versesAtOnce_refuses {st : Status} (other : st ≠ .ok) (h : doVerses [n] a = (a, refuse st)) :
    versesAtOnce [n] a = (a, refuse st) := by
  have notOk : ¬(doVerses [n] a).2.status = .ok := by
    rw [h]
    exact other
  rw [versesAtOnce, if_neg notOk, h]

theorem versesAtOnce_sets {u : State} {fields : List Byte} (h : doVerses [n] a = (u, ok fields)) :
    versesAtOnce [n] a = (settle a u, ok fields) := by
  have isOk : (doVerses [n] a).2.status = .ok := by rw [h]; rfl
  rw [versesAtOnce, if_pos isOk, h]

theorem doVerses_idle (play : a.plan.play = .idle) : doVerses [n] a = (a, refuse .notPlaying) := if_pos play

variable (play : a.plan.play ≠ .idle)
include play

theorem doVerses_busy (closed : versesClosed a = true) : doVerses [n] a = (a, refuse .busy) := (if_neg play).trans (if_pos closed)

theorem doVerses_range (open_ : versesClosed a ≠ true) (h : n.toNat < 1 ∨ n.toNat < currentVerse a ∨ 12 < n.toNat) :
    doVerses [n] a = (a, refuse .range) := (if_neg play).trans ((if_neg open_).trans (if_pos h))

theorem doVerses_sets {p : Plan} {x : Tune} (open_ : versesClosed a ≠ true)
    (h : ¬(n.toNat < 1 ∨ n.toNat < currentVerse a ∨ 12 < n.toNat)) (hp : a.plan.active = some p) (hx : activeTune a = some x) :
    doVerses [n] a = (setVerses { p with verseCount := n.toNat } (rebuiltOrder { p with verseCount := n.toNat } x n.toNat a) a,
      ok (e8 (rebuiltOrder { p with verseCount := n.toNat } x n.toNat a).length)) := by
  have count : byteAt [n] 0 = n.toNat := rfl
  simp only [doVerses, count, if_neg play, if_neg open_, if_neg h, hp, hx]

end

/-- A rejoin point is left once, for either of two conditions (R200). -/
theorem leaveRejoining_twice (f g : RejoinPoint → Bool) (v : State) :
    leaveRejoining f (leaveRejoining g v) = leaveRejoining (fun p => f p || g p) v := by
  by_cases first : (v.yielding.state == .rejoining && v.yielding.rejoin.any g) = true
  · have left : leaveRejoining g v = releaseYield v := if_pos first
    have free : (releaseYield v).yielding.state = .playingFree := by
      obtain ⟨l, told⟩ := notice_eq (.yieldReleased v.now) (setFree v)
      rw [releaseYield, told]
      rfl
    have either : (v.yielding.state == .rejoining && v.yielding.rejoin.any fun p => f p || g p) = true := by
      rw [Bool.and_eq_true, Option.any_eq_true] at first ⊢
      obtain ⟨state, p, hp, gone⟩ := first
      exact ⟨state, p, hp, by rw [gone, Bool.or_true]⟩
    have both : leaveRejoining (fun p => f p || g p) v = releaseYield v := if_pos either
    rw [left, both, leaveRejoining, free]
    rfl
  · have left : leaveRejoining g v = v := if_neg first
    have same : (v.yielding.state == .rejoining && v.yielding.rejoin.any fun p => f p || g p) =
        (v.yielding.state == .rejoining && v.yielding.rejoin.any f) := by
      cases state : v.yielding.state == .rejoining with
      | false => rfl
      | true =>
        rw [state, Bool.true_and] at first
        cases hp : v.yielding.rejoin with
        | none => rfl
        | some p =>
          rw [hp, Option.any_some, Bool.not_eq_true] at first
          rw [Option.any_some, Option.any_some, first, Bool.or_false]
    rw [left, leaveRejoining, leaveRejoining, same]

section
variable {a : State} (q : Plan) (order : List Segment)

/-- The Plan Unit with the new verse count and running order of a VERSES (R41). -/
def versesPlanned (a : State) : State :=
  { syncRamps a with plan := { (syncRamps a).plan with active := some q, order := order } }

theorem versesCut_still (same : a.plan.order[startedCount a]? = order[startedCount a]? ∨ a.map.current = none ∨
    ∃ c, a.map.current = some c ∧ order[c]? = none) :
    versesCut q order a = leaveRejoining (fun r => decide (order.length ≤ r.segment)) (versesPlanned q order a) := by
  have started : startedCount (syncRamps a) = startedCount a := by rw [startedCount, syncRamps_map, startedCount]
  have here : currentSegment (versesPlanned q order a) = a.map.current.bind fun c => order[c]? := by
    rw [currentSegment, versesPlanned, syncRamps_map]
    rfl
  rw [versesCut, started, syncRamps_order]
  show leaveRejoining _ (match a.plan.order[startedCount a]? != order[startedCount a]?, (syncRamps a).map.current,
    currentSegment (versesPlanned q order a) with
    | true, some c, some g => cutAway c g.sTo (versesPlanned q order a)
    | _, _, _ => versesPlanned q order a) = _
  rw [here, syncRamps_map]
  refine congrArg _ ?_
  rcases same with same | none_ | ⟨c, hc, none_⟩
  · simp [same]
  · simp [none_]
  · simp [hc, none_]

theorem versesCut_cuts {c : Nat} {g : Segment} (differs : a.plan.order[startedCount a]? ≠ order[startedCount a]?)
    (hc : a.map.current = some c) (hg : order[c]? = some g) : versesCut q order a =
    leaveRejoining (fun r => decide (order.length ≤ r.segment) || r.beyond c g.sTo) (cutAt c g.sTo (versesPlanned q order a)) := by
  have started : startedCount (syncRamps a) = startedCount a := by rw [startedCount, syncRamps_map, startedCount]
  have here : currentSegment (versesPlanned q order a) = some g := by
    rw [currentSegment, versesPlanned, syncRamps_map, hc]
    exact hg
  have moved : (a.plan.order[startedCount a]? != order[startedCount a]?) = true := bne_iff_ne.2 differs
  have cut : versesCut q order a = leaveRejoining (fun r => decide (order.length ≤ r.segment))
      (cutAway c g.sTo (versesPlanned q order a)) := by
    rw [versesCut, started, syncRamps_order]
    show leaveRejoining _ (match a.plan.order[startedCount a]? != order[startedCount a]?, (syncRamps a).map.current,
      currentSegment (versesPlanned q order a) with
      | true, some c, some g => cutAway c g.sTo (versesPlanned q order a)
      | _, _, _ => versesPlanned q order a) = _
    rw [here, syncRamps_map, hc, moved]
  rw [cut, cutAway, leaveRejoining_twice]

/-- What VERSES cuts away, and the rejoin points it loses (R41, R40, R200; log 26). -/
theorem versesCut_done (a : State) : ∃ w,
    ((a.plan.order[startedCount a]? = order[startedCount a]? ∨ a.map.current = none → w = versesPlanned q order a) ∧
      (∀ c g, a.plan.order[startedCount a]? ≠ order[startedCount a]? → a.map.current = some c → order[c]? = some g →
        CutDone c g.sTo (versesPlanned q order a) w)) ∧
    rejoinLost (fun q => order.length ≤ q.segment ∨ ∃ c g, a.plan.order[startedCount a]? ≠ order[startedCount a]? ∧
      a.map.current = some c ∧ order[c]? = some g ∧ (c < q.segment ∨ (q.segment = c ∧ g.sTo ≤ q.pos))) w (versesCut q order a) := by
  by_cases still : a.plan.order[startedCount a]? = order[startedCount a]? ∨ a.map.current = none ∨
      ∃ c, a.map.current = some c ∧ order[c]? = none
  · have never {c : Nat} {g : Segment} (differs : a.plan.order[startedCount a]? ≠ order[startedCount a]?)
        (hc : a.map.current = some c) (hg : order[c]? = some g) : False := by
      rcases still with same | none_ | ⟨c', hc', none_⟩
      · exact differs same
      · exact nomatch hc.symm.trans none_
      · obtain rfl : c = c' := Option.some.inj (hc.symm.trans hc')
        exact nomatch hg.symm.trans none_
    refine ⟨versesPlanned q order a, ⟨fun _ => rfl, fun c g differs hc hg => (never differs hc hg).elim⟩, ?_⟩
    rw [versesCut_still q order still]
    refine leaveRejoining_lost (fun p => ?_) _
    rw [decide_eq_true_iff]
    refine (or_iff_left ?_).symm
    rintro ⟨c, g, differs, hc, hg, -⟩
    exact never differs hc hg
  · obtain ⟨differs, current, found⟩ : a.plan.order[startedCount a]? ≠ order[startedCount a]? ∧ ¬a.map.current = none ∧
        ¬∃ c, a.map.current = some c ∧ order[c]? = none := by simpa only [not_or] using still
    obtain ⟨c, hc⟩ := Option.ne_none_iff_exists'.1 current
    obtain ⟨g, hg⟩ := Option.ne_none_iff_exists'.1 fun none_ => found ⟨c, hc, none_⟩
    refine ⟨cutAt c g.sTo (versesPlanned q order a), ⟨fun same => (same.elim differs current).elim, fun c' g' _ hc' hg' => ?_⟩, ?_⟩
    · obtain rfl : c = c' := Option.some.inj (hc.symm.trans hc')
      obtain rfl : g = g' := Option.some.inj (hg.symm.trans hg')
      exact cutAt_done c g.sTo _
    · rw [versesCut_cuts q order differs hc hg]
      refine leaveRejoining_lost (fun p => ?_) _
      rw [Bool.or_eq_true, decide_eq_true_iff, beyond_iff]
      refine or_congr Iff.rfl ⟨fun beyond => ⟨c, g, differs, hc, hg, beyond⟩, ?_⟩
      rintro ⟨c', g', -, hc', hg', beyond⟩
      obtain rfl : c = c' := Option.some.inj (hc.symm.trans hc')
      obtain rfl : g = g' := Option.some.inj (hg.symm.trans hg')
      exact beyond

end

/-- Settles O25. -/
theorem versesRebuilds : Obligations.VersesRebuilds := by
  rintro t tag n s hs a rfl v rfl
  have act {u : State} {x : Answer} := exec_verses (u := u) (x := x) (tag := tag) (t := t) (n := n) hs
  generalize arrive t s = a at *
  refine ⟨fun idle => act (versesAtOnce_refuses (by decide) (doVerses_idle idle)), ?_⟩
  rintro closed hclosed verse k hverse hk
  have closedIff : versesClosed a = true ↔ closed := hclosed ▸ versesClosed_iff a
  have verseEq : verse = currentVerse a := by
    rw [hverse, currentVerse_eq]
    cases currentSegment a <;> rfl
  have kEq : k = startedCount a := by
    rw [hk, startedCount]
    cases a.map.current <;> rfl
  clear hclosed hverse hk
  subst verseEq kEq
  refine ⟨fun play yes => act (versesAtOnce_refuses (by decide) (doVerses_busy play (closedIff.2 yes))),
    fun play no out => act (versesAtOnce_refuses (by decide) (doVerses_range play (mt closedIff.1 no) out)),
    fun p x play no least current most hp hx => ?_⟩
  have tune : activeTune a = some x := by
    rw [activeTune, hp]
    exact (tuneOf_eq_some _ _ _).2 hx
  have sets := act (versesAtOnce_sets (doVerses_sets (n := n) play (mt closedIff.1 no) (by omega) hp tune))
  generalize horder : rebuiltOrder { p with verseCount := n.toNat } x n.toNat a = order at sets
  obtain ⟨w, cut, lost⟩ := versesCut_done { p with verseCount := n.toNat } order a
  refine ⟨order, w, versesCut { p with verseCount := n.toNat } order a, _, ?_, ?_, lost, rfl, ?_⟩
  · rw [← horder, rebuiltOrder, verseSegments, Nat.add_sub_add_right]
  · rintro v' rfl
    exact cut
  · rw [setVerses_eq, closeRest] at sets
    simp only [Option.isNone_iff_eq_none] at sets
    exact sets

end Sys2Proof.Machine

/-! PROOFS. A segment starts and ends (R31, R32, R34 to R36, R80, R81, R113, R173). -/

namespace Sys2Proof.Machine

-- The proofs are elaborated one after another, which keeps the whole text within its memory.
set_option Elab.async false

/-! ### The start of a segment -/

theorem counted_eq (v : Nat) (a : State) : ∃ x, countAll (raiseClock v a) = { a with
    plan := { a.plan with clockShown := max a.plan.clockShown v }, expression := { a.expression with shutters := x } } := ⟨_, rfl⟩

theorem modeOf_eq (f : Follow) : modeOf f = if f = .follow then .follow else .lead := by cases f <;> rfl

theorem isPending_iff (c : Cue) : c.isPending = true ↔ c.state = .pending := by
  unfold Cue.isPending
  cases c.state <;> simp

theorem pendingCount_filter (p : Cue → Bool) (cs : List Cue) :
    pendingCount (cs.filter p) = (cs.filter fun c => decide (p c = true ∧ c.state = .pending)).length := by
  rw [pendingCount, List.filter_filter]
  refine congrArg List.length (List.filter_congr fun c _ => ?_)
  rw [Bool.eq_iff_iff, Bool.and_eq_true, decide_eq_true_iff, isPending_iff, and_comm]

theorem segmentOpened_eq (i : Nat) (g : Segment) (start : Time) (a : State) : segmentOpened i g start a =
    { a with
      plan := { a.plan with
        play := .segment, startTime := none, clockBase := clockAtStart g a
        clockShown := max a.plan.clockShown (clockAtStart g a), linesSent := [] }
      map := { a.map with
        current := some i, anchor := some ⟨start, g.sFrom⟩, pauses := a.map.pauses.filter fun p => decide (i ≤ p.segment) }
      follower := { a.follower with
        mode := modeOf g.follow, credit := a.follower.settings.allowance, rejoinRun := 0
        lastMatch := none, owed := false, cues := a.follower.cues.filter fun c => decide (i ≤ c.segment) }
      counters := { a.counters with
        missed := bumpBy (pendingCount (a.follower.cues.filter fun c => decide (c.segment < i))) a.counters.missed }
      expression := (countAll (raiseClock (clockAtStart g a) a)).expression } := rfl

theorem startSegmentRamp_eq (g : Segment) (v : State) : ∃ x, startSegmentRamp g v =
    { v with expression := { v.expression with shutters := x } } := by
  unfold startSegmentRamp
  cases g.ramp with
  | none => exact ⟨_, rfl⟩
  | some r =>
    dsimp only
    split
    · exact ⟨_, rfl⟩
    · exact ⟨_, rfl⟩

theorem shutter_startSegmentRamp_still {g : Segment} {v : State} {d : DivNo}
    (h : g.ramp = none ∨ yielded v = true ∨ enclosed v d = false) : shutter (startSegmentRamp g v) d = shutter v d := by
  unfold startSegmentRamp
  cases hr : g.ramp with
  | none => rfl
  | some r =>
    dsimp only
    by_cases yields : yielded v = true
    · rw [if_pos yields]
    · have closed : enclosed v d = false := (h.resolve_left (by rw [hr]; nofun)).resolve_left yields
      rw [if_neg yields, shutter_mapShutters, closed]
      rfl

theorem shutter_startSegmentRamp_starts {g : Segment} {v : State} {d : DivNo} {r : Ramp} (hr : g.ramp = some r)
    (free : yielded v = false) (opens : enclosed v d = true) :
    shutter (startSegmentRamp g v) d = placeNow v.expression r (shutter v d) := by
  unfold startSegmentRamp
  rw [hr]
  dsimp only
  rw [if_neg (ne_true_of_eq_false free), shutter_mapShutters, opens]
  rfl

theorem curveAt_congr {x y : Expression} (h : x.curves = y.curves) (c : Fin 8) : curveAt x c = curveAt y c := by
  funext step
  unfold curveAt
  rw [h]

theorem nearestStep_congr {x y : Expression} (h : x.curves = y.curves) (c : Fin 8) : nearestStep x c = nearestStep y c := by
  funext position
  unfold nearestStep
  rw [curveAt_congr h]

/-- Where the cursor goes at a segment's start, row 4 and then row 3 of R113 (log 32). -/
theorem cursorSegmentStart_started (i : Nat) (v : State) : CursorStarted i v (cursorSegmentStart i v) := by
  have start (k : Nat) : (∀ g e, segmentAt v k = some g → firstEventOf v g = some e → cursorAtStart v k = .at_ k e) ∧
      ((∀ g e, segmentAt v k = some g → firstEventOf v g ≠ some e) → cursorAtStart v k = .after k) := by
    unfold cursorAtStart
    refine ⟨fun g e hg he => by rw [hg, Option.bind_some, he], fun none_ => ?_⟩
    have missing : (segmentAt v k).bind (firstEventOf v) = none := by
      cases hg : segmentAt v k with
      | none => rfl
      | some g =>
        rw [Option.bind_some, Option.eq_none_iff_forall_ne_some]
        exact fun e => none_ g e hg
    rw [missing]
  have behindIff : cursorBehind v.expander.cursor i = true ↔
      (∃ g e, v.expander.cursor = .at_ g e ∧ g < i) ∨ ∃ g, v.expander.cursor = .after g ∧ g + 1 < i := by
    unfold cursorBehind
    cases v.expander.cursor <;> simp
  generalize hm : (if cursorBehind v.expander.cursor i then setCursor (cursorAtStart v i) v else v) = m
  have same : { m with expander := v.expander } = v := by
    rw [← hm]
    split <;> rfl
  have segments (k : Nat) : segmentAt m k = segmentAt v k := by
    have := congrArg (fun u => segmentAt u k) same
    exact this
  have starts (k : Nat) : cursorAtStart m k = cursorAtStart v k := by
    have := congrArg (fun u => cursorAtStart u k) same
    exact this
  have reads (k : Nat) : readable m k = readable v k := by
    have := congrArg (fun u => readable u k) same
    exact this
  have advances (g : Nat) : m.expander.cursor = .after g ∧ segmentAt v (g + 1) ≠ none ∧
      (v.map.current = some (g + 1) ∨ nextIndex v = some (g + 1)) ↔ m.expander.cursor = .after g ∧
        ((segmentAt m (g + 1)).isSome && readable m (g + 1)) = true := by
    rw [Bool.and_eq_true, segments, reads, readable, Bool.or_eq_true, beq_iff_eq, beq_iff_eq, Option.isSome_iff_ne_none]
  have moves : cursorSegmentStart i v = advanceCursor m := congrArg advanceCursor hm
  refine ⟨cursorAtStart v, _, m.expander, start, fun c => rfl, fun behind hb => ⟨fun yes => ?_, fun no => ?_⟩,
    fun further hf => ⟨fun g far => ?_, fun still => ?_⟩, ?_⟩
  · rw [← hm, if_pos (behindIff.2 (hb ▸ yes))]
    rfl
  · rw [← hm, if_neg fun k => no (hb ▸ behindIff.1 k)]
  · obtain ⟨cursor, on⟩ := (advances g).1 ((hf g).1 far)
    rw [moves, advanceCursor, cursor]
    dsimp only
    rw [if_pos on, starts]
    have expander : m.expander = { v.expander with
        cursor := m.expander.cursor, carried := m.expander.carried, firstDone := m.expander.firstDone } := by
      rw [← hm]
      split <;> rfl
    rw [setCursor, expander]
  · rw [moves, advanceCursor]
    cases cursor : m.expander.cursor with
    | none => rfl
    | at_ g e => rfl
    | after g =>
      dsimp only
      rw [if_neg fun on => still g ((hf g).2 ((advances g).2 ⟨cursor, on⟩))]
  · have frame (u : State) : { advanceCursor u with expander := v.expander } = { u with expander := v.expander } := by
      unfold advanceCursor
      cases u.expander.cursor with
      | none => rfl
      | at_ g e => rfl
      | after g =>
        dsimp only
        split <;> rfl
    rw [moves, frame, same]

theorem segmentStartDue_of_play {a : State} {start : Time} (play : a.plan.play = .starting ∨ a.plan.play = .rest)
    (next : nextStart a = some start) (come : atOrBefore start a.now = true) : segmentStartDue a = true := by
  rw [segmentStartDue, next, Option.any_some, come, Bool.and_true, Bool.or_eq_true, beq_iff_eq, beq_iff_eq]
  exact play

theorem clockAtStart_eq {a : State} {g : Segment} {clock : Nat} (play : a.plan.play = .starting ∨ a.plan.play = .rest)
    (first : a.plan.play = .starting → clock = 0)
    (later : ∀ h, a.plan.play = .rest → currentSegment a = some h → clock = a.plan.clockBase + (h.sTo - h.sFrom) + 48 * g.restBefore)
    (ran : a.plan.play = .rest → currentSegment a ≠ none) : clockAtStart g a = clock := by
  unfold clockAtStart
  rcases play with play | play
  · rw [play]
    exact (first play).symm
  · obtain ⟨h, hh⟩ := Option.ne_none_iff_exists'.1 (ran play)
    rw [play]
    show clockAtEnd a + _ = _
    rw [clockAtEnd, hh, later h play hh]
    rfl

/-- The shutters at a segment's start, counted up to its clock, with the segment's ramp on them (R34, R173). -/
theorem shutter_segment_starts {a : State} {i : Nat} {g : Segment} {start : Time} {clock : Nat} (hc : clockAtStart g a = clock)
    (d : DivNo) :
    (g.ramp = none ∨ yielded a = true ∨ enclosed a d = false →
      shutter (startSegmentRamp g (segmentOpened i g start a)) d = shutter (countAll (raiseClock clock a)) d) ∧
    (∀ r, g.ramp = some r → yielded a = false → enclosed a d = true → 0 < r.delay →
      shutter (startSegmentRamp g (segmentOpened i g start a)) d =
        ⟨(shutter (countAll (raiseClock clock a)) d).position, .active r .delay 0, none, 0⟩) ∧
    (∀ r, g.ramp = some r → yielded a = false → enclosed a d = true → r.delay = 0 → 0 < r.stepLength →
      ∀ y, y = { shutter (countAll (raiseClock clock a)) d with queued := none } →
      ∀ st, st = r.fromStep.getD (nearestStep a.expression r.curve y.position) →
      RunsAt r st 0 y (shutter (startSegmentRamp g (segmentOpened i g start a)) d) (curveAt a.expression r.curve st)) := by
  subst hc
  have counted : shutter (segmentOpened i g start a) d = shutter (countAll (raiseClock (clockAtStart g a) a)) d := rfl
  have expression : (segmentOpened i g start a).expression = (countAll (raiseClock (clockAtStart g a) a)).expression := rfl
  have yields : yielded (segmentOpened i g start a) = yielded a := rfl
  have opens : enclosed (segmentOpened i g start a) d = enclosed a d := rfl
  have curves : (countAll (raiseClock (clockAtStart g a) a)).expression.curves = a.expression.curves := rfl
  rw [← yields, ← opens]
  refine ⟨fun still => ?_, fun r hr free inside late => ?_, fun r hr free inside now len y hy st hst => ?_⟩
  · rw [shutter_startSegmentRamp_still still, counted]
  · rw [shutter_startSegmentRamp_starts hr free inside, counted, placeNow_delays late]
  · rw [shutter_startSegmentRamp_starts hr free inside, expression, counted, ← curveAt_congr curves]
    refine placeNow_runs now len (by rw [hy]) ?_
    rw [hst, hy, startStep, nearestStep_congr curves]

/-- Settles O42. -/
theorem segmentStarts : Obligations.SegmentStarts := by
  rintro t s i g start runs a rfl play index segment time come clock first later ran
  have acts := event_acts (t := t) (p := segmentStartDue) (fun s => settle s (startSegment s)) runs
    (segmentStartDue_of_play play time come)
  generalize arrive t s = a at *
  have clockEq := clockAtStart_eq play first later ran
  have begins : startSegment a = beginSegment i g start a := by simp only [startSegment, index, segment, time]
  rw [begins, beginSegment_eq] at acts
  obtain ⟨x, ramps⟩ := startSegmentRamp_eq g (segmentOpened i g start a)
  refine ⟨startSegmentRamp g (segmentOpened i g start a), _, _, _, ?_, ?_, ?_, ?_, ?_,
    fun d => shutter_segment_starts clockEq d, ?_, rfl, rfl, cursorSegmentStart_started i _, ?_⟩
  · rw [ramps, segmentOpened_eq, clockEq]
  · rw [ramps, segmentOpened_eq]
  · rw [ramps, segmentOpened_eq, modeOf_eq]
  · rw [ramps, segmentOpened_eq]
  · rw [ramps, segmentOpened_eq]
    dsimp only
    rw [pendingCount_filter]
    simp only [decide_eq_true_eq]
  · rw [ramps, segmentOpened_eq]
    rfl
  · have notice_ : segmentNotice i g start (startSegmentRamp g (segmentOpened i g start a)) =
        .segment i g.kind g.verse g.sFrom g.sTo a.plan.order.length start a.map.period g.follow := by
      rw [ramps, segmentOpened_eq]
      rfl
    rw [segmentTold, notice_] at acts
    exact acts

/-! ### The end of a segment -/

theorem pausePlanned_none {a : State} (none_ : ∀ p ∈ a.map.pauses, p.state = .planned → a.map.current ≠ some p.segment) :
    pausePlanned a = false := by
  rw [pausePlanned, List.any_eq_false]
  intro p hp
  rw [Bool.and_eq_true, beq_iff_eq]
  rintro ⟨planned, here⟩
  rw [Bool.not_eq_true', ← Bool.not_eq_true, Pause.isRunning_iff, Classical.not_not] at planned
  exact none_ p hp planned here.symm

theorem exists_first {α : Type} (p : α → Prop) (l : List α) :
    (∃ x c y, l = x ++ c :: y ∧ p c ∧ ∀ z ∈ x, ¬p z) ∨ ∀ z ∈ l, ¬p z := by
  induction l with
  | nil => exact .inr nofun
  | cons v l ih =>
    by_cases hit : p v
    · exact .inl ⟨[], v, l, rfl, hit, nofun⟩
    · have cons {x : List α} (none_ : ∀ z ∈ x, ¬p z) : ∀ z ∈ v :: x, ¬p z := List.forall_mem_cons.2 ⟨hit, none_⟩
      refine ih.imp ?_ cons
      rintro ⟨x, c, y, rfl, hc, none_⟩
      exact ⟨v :: x, c, y, rfl, hc, cons none_⟩

theorem currentTime_eq {s : State} {c : Nat} {an : Anchor} (hc : s.map.current = some c) (ha : s.map.anchor = some an) (pos : Nat)
    (rel : Bool) : currentTime s pos rel = some (addTu an.time (roundDiv (((pos : Int) - an.pos) * s.map.period) 48 +
      extSum s fun p => p.segment == c && decide (an.pos ≤ p.pos) && (decide (p.pos < pos) || (rel && p.pos == pos)))) := by
  rw [currentTime, hc, Option.bind_some, ha, Option.map_some]

/-- What a segment's end makes of the cues that a pause's end left, where that pause ran in it (R81, R98). -/
def CuesOfEnd (s : State) (cues : List Cue) : Prop :=
  cues.filter (fun c => !ofCurrent s c) = s.follower.cues.filter (fun c => !ofCurrent s c) ∧
  pendingCount (cues.filter (ofCurrent s)) = pendingCount (s.follower.cues.filter (ofCurrent s))

theorem cuesOfEnd_reEntry {s : State} {x y : List Cue} {c : Cue} (hc : s.follower.cues = x ++ c :: y) (wait : IsAwaited s c) :
    CuesOfEnd s (x ++ { c with kind := .reEntry } :: y) := by
  have here : ofCurrent s c = true := beq_iff_eq.2 wait.2
  have here' : ofCurrent s { c with kind := .reEntry } = true := here
  have pending : Cue.isPending { c with kind := .reEntry } = c.isPending := rfl
  refine ⟨?_, ?_⟩
  · rw [hc]
    simp [here, here']
  · rw [hc, pendingCount, pendingCount]
    simp only [List.filter_append, List.filter_cons, here, here', if_true, pending, List.length_append]
    split <;> rfl

section
variable {s : State} {p : Pause} {g : Segment} {u : Time}

/-- The pause that a segment's end finds RUNNING is ended (R81, R98). -/
theorem endPause_at_end (runs : runningPause s = some p) (hg : currentSegment s = some g) (hu : currentTime s p.pos true = some u) :
    ∃ cues owed, CuesOfEnd s cues ∧
      (owed = true ↔ s.follower.owed = true ∨ (g.follow = .follow ∧ ∀ c ∈ s.follower.cues, IsAwaited s c → c.pos < p.pos)) ∧
      endPause s = { s with
        map := { s.map with
          anchor := some ⟨u, p.pos⟩
          pauses := (s.map.pauses.filter fun q => q != p).filter fun z =>
            z.isRunning || !(some z.segment == s.map.current && decide (z.pos < p.pos)) }
        follower := { s.follower with
          mode := if s.follower.mode = .fermata then .follow else s.follower.mode, cues := cues, owed := owed } } := by
  obtain ⟨cues, owed, still, follows, ended⟩ := endPause_left runs hu
  refine ⟨cues, owed, ?_⟩
  by_cases follow : g.follow = .follow
  · obtain ⟨found, none_⟩ := follows ⟨g, hg, follow⟩
    rcases exists_first (fun c => IsAwaited s c ∧ p.pos ≤ c.pos) s.follower.cues with ⟨x, c, y, hc, ⟨wait, late⟩, early⟩ | never
    · obtain ⟨rfl, rfl⟩ := found x c y hc wait late fun z hz w => Nat.not_le.1 fun le => early z hz ⟨w, le⟩
      refine ⟨cuesOfEnd_reEntry hc wait, ⟨.inl, fun h => h.resolve_right fun none_ => ?_⟩, ended⟩
      exact absurd (none_.2 c (by simp [hc]) wait) (Nat.not_lt.2 late)
    · have before : ∀ z ∈ s.follower.cues, IsAwaited s z → z.pos < p.pos := fun z hz w => Nat.not_le.1 fun le => never z hz ⟨w, le⟩
      obtain ⟨rfl, rfl⟩ := none_ before
      exact ⟨⟨rfl, rfl⟩, ⟨fun _ => .inr ⟨follow, before⟩, fun _ => rfl⟩, ended⟩
  · have other : ¬∃ g', currentSegment s = some g' ∧ g'.follow = .follow := by
      rintro ⟨g', hg', hf⟩
      obtain rfl : g = g' := Option.some.inj (hg.symm.trans hg')
      exact follow hf
    obtain ⟨rfl, rfl⟩ := still other
    exact ⟨⟨rfl, rfl⟩, ⟨.inl, fun h => h.resolve_right fun f => follow f.1⟩, ended⟩

/-- The pauses left once the segment has ended (R81). -/
theorem pauses_at_end (s : State) (keep : Pause → Bool) (pos : Nat) (all : ∀ q : Pause, s.map.current ≠ some q.segment → keep q = true) :
    (((s.map.pauses.filter keep).filter fun q => some q.segment != s.map.current).filter fun q =>
      q.isRunning || !(some q.segment == s.map.current && decide (q.pos < pos))) =
    s.map.pauses.filter fun q => decide (s.map.current ≠ some q.segment) := by
  rw [List.filter_filter, List.filter_filter]
  refine List.filter_congr fun q _ => ?_
  by_cases here : s.map.current = some q.segment
  · simp [here]
  · have other : (some q.segment == s.map.current) = false := beq_eq_false_iff_ne.2 fun h => here h.symm
    simp [here, other, all q here, bne]

/-- What the follower's part of a segment's end leaves (R81). -/
theorem followerSegmentEnd_left {stop : Time} (hg : currentSegment s = some g) (hstop : currentTime s g.sTo true = some stop) :
    ∃ time owed,
      (runningPause s = none → time = stop ∧ owed = s.follower.owed) ∧
      (∀ p u, runningPause s = some p → (∀ q ∈ s.map.pauses, s.map.current = some q.segment → q = p) →
        currentTime s p.pos true = some u →
        time = addTu u (roundDiv (((g.sTo : Int) - p.pos) * s.map.period) 48) ∧
        (owed = true ↔ s.follower.owed = true ∨ (g.follow = .follow ∧ ∀ c ∈ s.follower.cues, IsAwaited s c → c.pos < p.pos))) ∧
      followerSegmentEnd g s = { s with
        map := { s.map with
          anchor := some ⟨time, g.sTo⟩, pauses := s.map.pauses.filter fun p => decide (s.map.current ≠ some p.segment) }
        follower := { s.follower with
          mode := .lead, credit := s.follower.settings.allowance, rejoinRun := 0, owed := owed
          cues := s.follower.cues.filter fun c => !ofCurrent s c }
        counters := { s.counters with
          missed := bumpBy (pendingCount (s.follower.cues.filter (ofCurrent s))) s.counters.missed } } := by
  obtain ⟨c, hc, -⟩ := Option.bind_eq_some_iff.1 hg
  by_cases ends : ∃ p u, runningPause s = some p ∧ currentTime s p.pos true = some u
  · obtain ⟨p, u, runs, hu⟩ := ends
    obtain ⟨cues, owed, ⟨left, counted⟩, owes, ended⟩ := endPause_at_end runs hg hu
    have inside : s.map.current = some p.segment := by
      have := List.find?_some runs
      rw [Bool.and_eq_true, beq_iff_eq] at this
      exact this.1.symm
    have timed : currentTime (endPause s) g.sTo true = some (addTu u (roundDiv (((g.sTo : Int) - p.pos) * (endPause s).map.period) 48 +
        extSum (endPause s) fun q =>
          q.segment == c && decide (p.pos ≤ q.pos) && (decide (q.pos < g.sTo) || (true && q.pos == g.sTo)))) :=
      currentTime_eq (an := ⟨u, p.pos⟩) (by rw [ended]; exact hc) (by rw [ended]) g.sTo true
    generalize htime : addTu u (roundDiv (((g.sTo : Int) - p.pos) * (endPause s).map.period) 48 +
      extSum (endPause s) fun q =>
        q.segment == c && decide (p.pos ≤ q.pos) && (decide (q.pos < g.sTo) || (true && q.pos == g.sTo))) = time at timed
    refine ⟨time, owed, fun none_ => ?_, fun p' u' runs' alone hu' => ?_, ?_⟩
    · rw [runs] at none_
      cases none_
    · obtain rfl : p = p' := Option.some.inj (runs.symm.trans runs')
      obtain rfl : u = u' := Option.some.inj (hu.symm.trans hu')
      refine ⟨?_, owes⟩
      have gone : ∀ q ∈ (endPause s).map.pauses, ¬(q.segment == c && decide (p.pos ≤ q.pos) &&
          (decide (q.pos < g.sTo) || (true && q.pos == g.sTo))) = true := by
        intro q hq here
        rw [ended] at hq
        obtain ⟨hq, -⟩ := List.mem_filter.1 hq
        obtain ⟨hq, other⟩ := List.mem_filter.1 hq
        rw [Bool.and_eq_true, Bool.and_eq_true, beq_iff_eq] at here
        exact (bne_iff_ne.1 other) (alone q hq (by rw [hc, here.1.1]))
      rw [← htime, extSum, List.filter_eq_nil_iff.2 gone, ended]
      simp
    · have pauses := pauses_at_end s (fun q => (q.isRunning || !(some q.segment == s.map.current && decide (q.pos < p.pos))) && q != p)
        g.sTo fun q other => by
          have apart : q ≠ p := by
            rintro rfl
            exact other inside
          have elsewhere : (some q.segment == s.map.current) = false := beq_eq_false_iff_ne.2 fun h => other h.symm
          simp [elsewhere, apart]
      rw [← List.filter_filter] at pauses
      rw [followerSegmentEnd_eq, anchoredAtEnd, timed, ← pauses, ← left, ← counted, ended]
      rfl
  · have still : endPause s = s := by
      rw [endPause_eq]
      split
      next p u runs hu =>
        rw [pauseEndTime, runs] at hu
        exact (ends ⟨p, u, runs, hu⟩).elim
      · rfl
    have pauses := pauses_at_end s (fun _ => true) g.sTo fun _ _ => rfl
    rw [List.filter_eq_self.2 fun _ _ => rfl] at pauses
    refine ⟨stop, s.follower.owed, fun _ => ⟨rfl, rfl⟩, fun p u runs _ hu => (ends ⟨p, u, runs, hu⟩).elim, ?_⟩
    rw [followerSegmentEnd_eq, anchoredAtEnd, still, hstop, ← pauses]
    rfl

end

theorem ofCurrent_eq (s : State) (c : Cue) : ofCurrent s c = decide (s.map.current = some c.segment) := by
  rw [ofCurrent, Bool.eq_iff_iff, beq_iff_eq, decide_eq_true_iff, eq_comm]

/-- Settles O43. -/
theorem segmentEnds : Obligations.SegmentEnds := by
  rintro t s g stop runs a rfl play planned hg hstop come
  have due : segmentEndDue (arrive t s) = true := by
    rw [segmentEndDue, play, pausePlanned_none planned, segmentEndTime, hg, Option.bind_some, hstop, Option.any_some, come]
    rfl
  have acts := event_acts (t := t) (p := segmentEndDue) (fun s => settle s (endSegment s)) runs due
  generalize arrive t s = a at *
  have clock : clockAtEnd a = a.plan.clockBase + (g.sTo - g.sFrom) := by rw [clockAtEnd, hg, Option.elim_some]
  have ends : endSegment a = afterSegment (followerSegmentEnd g
      (countAll (raiseClock (a.plan.clockBase + (g.sTo - g.sFrom)) a))) := by
    rw [← clock]
    simp only [endSegment, hg]
  obtain ⟨x, counted⟩ := counted_eq (a.plan.clockBase + (g.sTo - g.sFrom)) a
  rw [ends] at acts
  generalize countAll (raiseClock (a.plan.clockBase + (g.sTo - g.sFrom)) a) = v at *
  have reads : currentSegment v = some g ∧ currentTime v g.sTo true = some stop := by
    rw [counted]
    exact ⟨hg, hstop⟩
  obtain ⟨time, owed, still, ran, left⟩ := followerSegmentEnd_left reads.1 reads.2
  have next : nextSegment (followerSegmentEnd g v) = nextSegment a := by
    rw [left, counted]
    rfl
  rw [afterSegment, next] at acts
  refine ⟨followerSegmentEnd g v, time, owed, ?_, ?_, ?_, ?_, ?_, ?_, ?_, ?_, ?_, fun none_ => ?_, fun h hh rests => ?_,
    fun h hh free => ?_⟩
  · rw [counted] at still
    exact still
  · rw [counted] at ran
    exact ran
  · rw [left, counted]
  · rw [left, counted]
    simp only [ofCurrent_eq, ← decide_not]
  · rw [left, counted]
  · rw [left, counted]
    dsimp only
    rw [pendingCount_filter]
    simp only [ofCurrent_eq, decide_eq_true_eq]
  · rw [left, counted]
  · rw [left]
  · rw [left, counted]
  · rw [none_] at acts
    exact acts
  · rw [hh] at acts
    dsimp only at acts
    rw [if_neg (Nat.ne_of_gt rests)] at acts
    exact acts
  · rw [hh] at acts
    dsimp only at acts
    rw [if_pos free] at acts
    exact acts

end Sys2Proof.Machine

/-! PROOFS. TUNE_END: the seven checks with the index each reports, and what validation derives (R9 to R13). -/

namespace Sys2Proof.Machine

-- The proofs are elaborated one after another, which keeps the whole text within its memory.
set_option Elab.async false

/-! ### Order of the events -/

/-- Two neighbours overlap (R10, ORDER). -/
def Overlap (es : List Event) (i : Nat) : Prop :=
  ∃ e f, es[i]? = some e ∧ es[i + 1]? = some f ∧ f.pos < e.pos + e.len

theorem overlap_succ (e : Event) (es : List Event) (i : Nat) : Overlap (e :: es) (i + 1) ↔ Overlap es i := by
  simp [Overlap]

theorem firstOverlap_none {es : List Event} {k : Nat} (h : firstOverlap k es = none) (i : Nat) : ¬Overlap es i := by
  induction es generalizing k i with
  | nil =>
    rintro ⟨e, f, he, -⟩
    simp at he
  | cons e es ih =>
    cases es with
    | nil =>
      rintro ⟨x, y, -, hy, -⟩
      simp at hy
    | cons f es =>
      rw [firstOverlap, List.head?_cons] at h
      dsimp only at h
      split at h
      · cases h
      next apart =>
        cases i with
        | zero =>
          rintro ⟨x, y, hx, hy, lt⟩
          obtain rfl : e = x := by simpa using hx
          obtain rfl : f = y := by simpa using hy
          exact apart lt
        | succ i => exact mt (overlap_succ e _ i).1 (ih h i)

theorem firstOverlap_some {es : List Event} {k n : Nat} (h : firstOverlap k es = some n) :
    ∃ i, n = k + i + 1 ∧ Overlap es i ∧ ∀ j, j < i → ¬Overlap es j := by
  induction es generalizing k with
  | nil => cases h
  | cons e es ih =>
    cases es with
    | nil => cases h
    | cons f es =>
      rw [firstOverlap, List.head?_cons] at h
      dsimp only at h
      split at h
      next lt =>
        cases h
        exact ⟨0, rfl, ⟨e, f, rfl, rfl, lt⟩, nofun⟩
      next apart =>
        obtain ⟨i, rfl, here, before⟩ := ih h
        refine ⟨i + 1, by omega, (overlap_succ e _ i).2 here, fun j hj => ?_⟩
        cases j with
        | zero =>
          rintro ⟨x, y, hx, hy, lt⟩
          obtain rfl : e = x := by simpa using hx
          obtain rfl : f = y := by simpa using hy
          exact apart lt
        | succ j => exact mt (overlap_succ e _ j).1 (before j (by omega))

/-- An event without AMEN that follows one with AMEN, or follows any where AMEN was seen before (R10, AMEN_PLACE). -/
def Stray (seen : Bool) (es : List Event) (k : Nat) : Prop :=
  (∃ f, es[k]? = some f ∧ f.amen = false) ∧ (seen = true ∨ ∃ j e, j < k ∧ es[j]? = some e ∧ e.amen = true)

theorem stray_zero (seen : Bool) (e : Event) (es : List Event) : Stray seen (e :: es) 0 ↔ (seen && !e.amen) = true := by
  simp [Stray, and_comm]

theorem stray_succ (seen : Bool) (e : Event) (es : List Event) (k : Nat) :
    Stray seen (e :: es) (k + 1) ↔ Stray (seen || e.amen) es k := by
  unfold Stray
  rw [List.getElem?_cons_succ, Bool.or_eq_true, or_assoc]
  refine and_congr Iff.rfl (or_congr Iff.rfl ?_)
  constructor
  · rintro ⟨j, x, hj, hx, amen⟩
    cases j with
    | zero =>
      obtain rfl : e = x := by simpa using hx
      exact .inl amen
    | succ j => exact .inr ⟨j, x, by omega, hx, amen⟩
  · rintro (amen | ⟨j, x, hj, hx, amen⟩)
    · exact ⟨0, e, by omega, rfl, amen⟩
    · exact ⟨j + 1, x, by omega, hx, amen⟩

theorem strayVerseEvent_none {es : List Event} {i : Nat} {seen : Bool} (h : strayVerseEvent i seen es = none) (k : Nat) :
    ¬Stray seen es k := by
  induction es generalizing i seen k with
  | nil =>
    rintro ⟨⟨f, hf, -⟩, -⟩
    simp at hf
  | cons e es ih =>
    rw [strayVerseEvent] at h
    split at h
    · cases h
    next kept =>
      cases k with
      | zero => exact mt (stray_zero seen e es).1 kept
      | succ k => exact mt (stray_succ seen e es k).1 (ih h k)

theorem strayVerseEvent_some {es : List Event} {i n : Nat} {seen : Bool} (h : strayVerseEvent i seen es = some n) :
    ∃ k, n = i + k ∧ Stray seen es k ∧ ∀ j, j < k → ¬Stray seen es j := by
  induction es generalizing i seen with
  | nil => cases h
  | cons e es ih =>
    rw [strayVerseEvent] at h
    split at h
    next here =>
      cases h
      exact ⟨0, rfl, (stray_zero seen e es).2 here, nofun⟩
    next kept =>
      obtain ⟨k, rfl, stray, before⟩ := ih h
      refine ⟨k + 1, by omega, (stray_succ seen e es k).2 stray, fun j hj => ?_⟩
      cases j with
      | zero => exact mt (stray_zero seen e es).1 kept
      | succ j => exact mt (stray_succ seen e es j).1 (before j (by omega))

/-! ### The indices of the events that satisfy a condition -/

theorem indicesOf_cons (p : Event → Bool) (e : Event) (es : List Event) :
    indicesOf p (e :: es) = (if p e then [0] else []) ++ (indicesOf p es).map (· + 1) := by
  unfold indicesOf
  rw [List.length_cons, List.range_succ_eq_map, List.filter_cons, List.filter_map]
  cases h : p e
  · simp [h, Function.comp_def]
  · simp [h, Function.comp_def]

theorem indicesOf_length (p : Event → Bool) (es : List Event) : (indicesOf p es).length = es.countP p := by
  induction es with
  | nil => rfl
  | cons e es ih =>
    rw [indicesOf_cons, List.length_append, List.length_map, ih, List.countP_cons]
    split <;> simp [*, Nat.add_comm]

theorem indicesOf_get {p : Event → Bool} {es : List Event} {k i : Nat} (h : (indicesOf p es)[k]? = some i) :
    (∃ e, es[i]? = some e ∧ p e = true) ∧ (es.take i).countP p = k := by
  induction es generalizing k i with
  | nil => simp [indicesOf] at h
  | cons e es ih =>
    rw [indicesOf_cons] at h
    cases hit : p e with
    | false =>
      rw [hit] at h
      obtain ⟨i, hi, rfl⟩ : ∃ i', (indicesOf p es)[k]? = some i' ∧ i' + 1 = i := by simpa using h
      obtain ⟨found, count⟩ := ih hi
      exact ⟨found, by simpa [List.countP_cons, hit] using count⟩
    | true =>
      rw [hit] at h
      cases k with
      | zero =>
        obtain rfl : 0 = i := by simpa using h
        exact ⟨⟨e, rfl, hit⟩, rfl⟩
      | succ k =>
        obtain ⟨i, hi, rfl⟩ : ∃ i', (indicesOf p es)[k]? = some i' ∧ i' + 1 = i := by simpa using h
        obtain ⟨found, count⟩ := ih hi
        exact ⟨found, by simpa [List.countP_cons, hit] using count⟩

theorem split_of_getElem? {es : List Event} {i : Nat} {e : Event} (he : es[i]? = some e) :
    es = es.take i ++ e :: es.drop (i + 1) := by
  obtain ⟨hi, rfl⟩ := List.getElem?_eq_some_iff.1 he
  rw [← List.drop_eq_getElem_cons, List.take_append_drop]

theorem seventeenth_none {p : Event → Bool} {es : List Event} :
    seventeenth p es = none ↔ es.countP (fun e => p e && e.lineEnd) ≤ 16 := by
  rw [seventeenth, List.getElem?_eq_none_iff, indicesOf_length]

theorem seventeenth_some {p : Event → Bool} {es : List Event} {i : Nat} (h : seventeenth p es = some i) :
    seventeenthLine p es i ∧ 16 < es.countP (fun e => p e && e.lineEnd) := by
  obtain ⟨⟨e, he, hp⟩, count⟩ := indicesOf_get h
  refine ⟨⟨⟨e, he, (Bool.and_eq_true _ _).mp hp⟩, count⟩, Nat.lt_of_not_le fun le => ?_⟩
  rw [seventeenth_none.2 le] at h
  cases h

/-- The last non-Amen event, and its index (R10). -/
theorem lastVerseIndex_eq {es : List Event} (h : ∃ e ∈ es, e.amen = false) : lastVerseEvent es (lastVerseIndex es) ∧
    es[lastVerseIndex es]? = (es.filter fun e => !e.amen).getLast? := by
  have some_ : 0 < es.countP fun e => !e.amen := by
    obtain ⟨e, he, verse⟩ := h
    exact List.countP_pos_iff.2 ⟨e, he, by rw [verse]; rfl⟩
  have last : (indicesOf (fun e => !e.amen) es)[es.countP (fun e => !e.amen) - 1]? = some (lastVerseIndex es) := by
    rw [lastVerseIndex, List.getLast?_eq_getElem?, indicesOf_length]
    cases found : (indicesOf (fun e => !e.amen) es)[es.countP (fun e => !e.amen) - 1]? with
    | some i => rfl
    | none =>
      rw [List.getElem?_eq_none_iff, indicesOf_length] at found
      omega
  obtain ⟨⟨e, he, verse⟩, count⟩ := indicesOf_get last
  have split := split_of_getElem? he
  have none_ : (es.drop (lastVerseIndex es + 1)).countP (fun e => !e.amen) = 0 := by
    have total := congrArg (List.countP fun e : Event => !e.amen) split
    rw [List.countP_append, List.countP_cons_of_pos (p := fun e : Event => !e.amen) verse] at total
    omega
  have amens (f : Event) (hf : f ∈ es.drop (lastVerseIndex es + 1)) : f.amen = true := by
    simpa using List.countP_eq_zero.1 none_ f hf
  refine ⟨⟨⟨e, he, by simpa using verse⟩, fun k f later hf => amens f ?_⟩, ?_⟩
  · refine List.mem_iff_getElem?.2 ⟨k - (lastVerseIndex es + 1), ?_⟩
    rw [List.getElem?_drop, Nat.add_sub_cancel' later, hf]
  · have rest : (es.drop (lastVerseIndex es + 1)).filter (fun e => !e.amen) = [] :=
      List.filter_eq_nil_iff.2 fun f hf => by simp [amens f hf]
    rw [he]
    conv => rhs; rw [split, List.filter_append, List.filter_cons_of_pos (p := fun e : Event => !e.amen) verse, rest]
    rw [List.getLast?_concat]

/-! ### The first failing check (R10) -/

/-- A check of R10 is the first to fail, with the index that it reports. -/
def FaultFound (h : TuneHeader) (es : List Event) (code index : Nat) : Prop :=
  (∀ k, k < code → tunePasses h es k) ∧ ¬tunePasses h es code ∧ tuneReports es code index

section
variable {h : TuneHeader} {es : List Event}

theorem passes_order (none_ : ∀ i, ¬Overlap es i) : tunePasses h es 1 :=
  fun j e f he hf => Nat.le_of_not_lt fun lt => none_ j ⟨e, f, he, hf, lt⟩

theorem fails_order {i : Nat} (here : Overlap es i) (before : ∀ j, j < i → ¬Overlap es j) :
    ¬tunePasses h es 1 ∧ tuneReports es 1 (i + 1) := by
  obtain ⟨e, f, he, hf, lt⟩ := here
  refine ⟨fun pass => Nat.not_le.2 lt (pass i e f he hf), i, e, f, rfl, he, hf, lt, fun j x y hj hx hy => ?_⟩
  exact Nat.le_of_not_lt fun lt => before j hj ⟨x, y, hx, hy, lt⟩

theorem passes_amenPlace (some_ : ∃ e ∈ es, e.amen = false) (none_ : ∀ k, ¬Stray false es k) : tunePasses h es 2 := by
  refine ⟨some_, fun j k e f lt he hf amen => ?_⟩
  refine Decidable.of_not_not fun verse => ?_
  exact none_ k ⟨⟨f, hf, Bool.eq_false_iff.2 verse⟩, .inr ⟨j, e, lt, he, amen⟩⟩

theorem fails_allAmen (all : ∀ e ∈ es, e.amen = true) : ¬tunePasses h es 2 ∧ tuneReports es 2 0 := by
  have never : ¬∃ e ∈ es, e.amen = false := by
    rintro ⟨e, he, verse⟩
    exact Bool.noConfusion (verse.symm.trans (all e he))
  exact ⟨fun pass => never pass.1, fun _ => rfl, fun some_ => absurd some_ never⟩

theorem fails_amenPlace {i : Nat} (here : Stray false es i) (before : ∀ j, j < i → ¬Stray false es j) :
    ¬tunePasses h es 2 ∧ tuneReports es 2 i := by
  obtain ⟨⟨f, hf, verse⟩, amens⟩ := here
  obtain ⟨j, e, lt, he, amen⟩ := amens.resolve_left nofun
  refine ⟨fun pass => Bool.noConfusion (verse.symm.trans (pass.2 j i e f lt he hf amen)), fun all => ?_,
    fun some_ strays hs => ⟨?_, fun k hk => ?_⟩⟩
  · exact absurd (all f (List.mem_of_getElem? hf)) (by rw [verse]; nofun)
  · rw [hs]
    exact ⟨⟨f, hf, verse⟩, j, e, lt, he, amen⟩
  · rw [hs]
    rintro ⟨found, amens⟩
    exact before k hk ⟨found, .inr amens⟩

theorem passes_below_succ {n : Nat} (below : ∀ k, k < n → tunePasses h es k) (here : tunePasses h es n) :
    ∀ k, k < n + 1 → tunePasses h es k := fun k hk =>
  (Nat.lt_succ_iff_lt_or_eq.1 hk).elim (below k) fun eq => eq ▸ here

section
variable (some_ : ∃ e ∈ es, e.amen = false)
include some_

theorem passes_verseEnd (lineEnd : (es[lastVerseIndex es]?).any (·.lineEnd) = true) : tunePasses h es 3 := by
  intro e he
  rw [(lastVerseIndex_eq some_).2, he] at lineEnd
  exact lineEnd

theorem fails_verseEnd (open_ : ¬(es[lastVerseIndex es]?).any (·.lineEnd) = true) :
    ¬tunePasses h es 3 ∧ tuneReports es 3 (lastVerseIndex es) := by
  obtain ⟨last, same⟩ := lastVerseIndex_eq some_
  refine ⟨fun pass => open_ ?_, last⟩
  obtain ⟨⟨e, he, -⟩, -⟩ := last
  rw [he]
  exact pass e (same.symm.trans he)

theorem fails_noCue (none_ : ¬(es.any fun e => !e.amen && e.cue) = true) :
    ¬tunePasses h es 5 ∧ tuneReports es 5 (lastVerseIndex es) := by
  refine ⟨?_, (lastVerseIndex_eq some_).1⟩
  rintro ⟨e, he, verse, cue⟩
  exact none_ (List.any_eq_true.2 ⟨e, he, by rw [verse, cue]; rfl⟩)

end

theorem passes_lines (verse : seventeenth (fun e => !e.amen) es = none) (amen : seventeenth (·.amen) es = none) :
    tunePasses h es 4 := ⟨seventeenth_none.1 verse, seventeenth_none.1 amen⟩

theorem fails_verseLines {i : Nat} (found : seventeenth (fun e => !e.amen) es = some i) :
    ¬tunePasses h es 4 ∧ tuneReports es 4 i := by
  obtain ⟨line, many⟩ := seventeenth_some found
  exact ⟨fun pass => Nat.not_le.2 many pass.1, fun _ => line, fun few => absurd few (Nat.not_le.2 many)⟩

theorem fails_amenLines {i : Nat} (few : seventeenth (fun e => !e.amen) es = none) (found : seventeenth (·.amen) es = some i) :
    ¬tunePasses h es 4 ∧ tuneReports es 4 i := by
  obtain ⟨line, many⟩ := seventeenth_some found
  exact ⟨fun pass => Nat.not_le.2 many pass.2, fun more => absurd (seventeenth_none.1 few) (Nat.not_le.2 more), fun _ => line⟩

theorem passes_cue (some_ : (es.any fun e => !e.amen && e.cue) = true) : tunePasses h es 5 := by
  obtain ⟨e, he, cue⟩ := List.any_eq_true.1 some_
  rw [Bool.and_eq_true, Bool.not_eq_true'] at cue
  exact ⟨e, he, cue.1, cue.2⟩

theorem fails_amenEnd (open_ : (es.any (·.amen) && !(es.getLast?).any (·.lineEnd)) = true) :
    ¬tunePasses h es 6 ∧ tuneReports es 6 (es.length - 1) := by
  refine ⟨fun pass => ?_, rfl⟩
  rw [Bool.and_eq_true, Bool.not_eq_true'] at open_
  have amens := List.any_eq_true.1 open_.1
  cases last : es.getLast? with
  | none =>
    obtain ⟨e, he, -⟩ := amens
    rw [List.getLast?_eq_none_iff.1 last] at he
    cases he
  | some e =>
    rw [last] at open_
    exact Bool.noConfusion (open_.2.symm.trans (pass amens e last))

theorem passes_amenEnd (closed : ¬(es.any (·.amen) && !(es.getLast?).any (·.lineEnd)) = true) : tunePasses h es 6 := by
  intro amens e last
  rw [Bool.and_eq_true, Bool.not_eq_true', last] at closed
  refine Decidable.of_not_not fun open_ => ?_
  exact closed ⟨List.any_eq_true.2 amens, Bool.eq_false_iff.2 open_⟩

/-- The first failing check of R10 with the index it reports; where none is found every check passes. -/
theorem tuneFault_found (h : TuneHeader) (es : List Event) : (tuneFault h es = none ∧ ∀ code, code < 7 → tunePasses h es code) ∨
    ∃ f index, tuneFault h es = some (f, index) ∧ FaultFound h es f.code index := by
  unfold tuneFault
  dsimp only
  by_cases count : es.length = h.declared
  case neg =>
    rw [if_pos count]
    exact .inr ⟨_, _, rfl, nofun, count, rfl⟩
  rw [if_neg (Classical.not_not.2 count)]
  have pass0 : ∀ k, k < 1 → tunePasses h es k := fun k hk => by
    obtain rfl : k = 0 := by omega
    exact count
  cases order : firstOverlap 0 es with
  | some n =>
    obtain ⟨i, rfl, here, before⟩ := firstOverlap_some order
    rw [Nat.zero_add]
    exact .inr ⟨_, _, rfl, pass0, fails_order here before⟩
  | none =>
  dsimp only
  have pass1 := passes_below_succ pass0 (passes_order (firstOverlap_none order))
  by_cases all : es.all (·.amen) = true
  case pos =>
    rw [if_pos all]
    exact .inr ⟨_, _, rfl, pass1, fails_allAmen (List.all_eq_true.1 all)⟩
  rw [if_neg all]
  have some_ : ∃ e ∈ es, e.amen = false := by simpa using all
  cases stray : strayVerseEvent 0 false es with
  | some n =>
    obtain ⟨i, rfl, here, before⟩ := strayVerseEvent_some stray
    rw [Nat.zero_add]
    exact .inr ⟨_, _, rfl, pass1, fails_amenPlace here before⟩
  | none =>
  dsimp only
  have pass2 := passes_below_succ pass1 (passes_amenPlace some_ (strayVerseEvent_none stray))
  by_cases closed : (es[lastVerseIndex es]?).any (·.lineEnd) = true
  case neg =>
    rw [if_pos (by simpa using closed)]
    exact .inr ⟨_, _, rfl, pass2, fails_verseEnd some_ closed⟩
  rw [if_neg (by simpa using closed)]
  have pass3 := passes_below_succ pass2 (passes_verseEnd some_ closed)
  cases verse : seventeenth (fun e => !e.amen) es with
  | some n => exact .inr ⟨_, _, rfl, pass3, fails_verseLines verse⟩
  | none =>
  dsimp only
  cases amen : seventeenth (·.amen) es with
  | some n => exact .inr ⟨_, _, rfl, pass3, fails_amenLines verse amen⟩
  | none =>
  dsimp only
  have pass4 := passes_below_succ pass3 (passes_lines verse amen)
  by_cases cue : (es.any fun e => !e.amen && e.cue) = true
  case neg =>
    rw [if_pos (by simpa using cue)]
    exact .inr ⟨_, _, rfl, pass4, fails_noCue some_ cue⟩
  rw [if_neg (by simpa using cue)]
  have pass5 := passes_below_succ pass4 (passes_cue cue)
  by_cases amenEnd : (es.any (·.amen) && !(es.getLast?).any (·.lineEnd)) = true
  · rw [if_pos amenEnd]
    exact .inr ⟨_, _, rfl, pass5, fails_amenEnd amenEnd⟩
  · rw [if_neg amenEnd]
    exact .inl ⟨rfl, passes_below_succ pass5 (passes_amenEnd amenEnd)⟩

end

/-! ### TUNE_END -/

section
variable {s : State} {i : Fin 16} {b : List Byte} (hi : byteAt b 0 = i.val)
include hi

theorem doTuneEnd_refuses (idle : ∀ h es, slot s i ≠ .loading h es) : doTuneEnd b s = (s, refuse .notLoading) := by
  simp only [doTuneEnd, not_badSlot hi, toFin_of_eq_val hi, if_false]
  cases load : slot s i with
  | empty => rfl
  | ready x => rfl
  | loading h es => exact absurd load (idle h es)

variable {h : TuneHeader} {es : List Event} (load : slot s i = .loading h es)
include load

theorem doTuneEnd_validates (none_ : tuneFault h es = none) : doTuneEnd b s = (setSlot i (.ready (deriveTune h es)) s.store.free s,
    ok (e8 (deriveTune h es).lines.length ++ e16 (deriveTune h es).verseEnd ++ eFlag (deriveTune h es).amen.isSome)) := by
  simp only [doTuneEnd, not_badSlot hi, toFin_of_eq_val hi, if_false, load, none_]

theorem doTuneEnd_empties {f : TuneFault} {n : Nat} (fault : tuneFault h es = some (f, n)) :
    doTuneEnd b s = (setSlot i .empty (s.store.free + h.declared) s, ⟨.badTune, e8 f.code ++ e16 n⟩) := by
  simp only [doTuneEnd, not_badSlot hi, toFin_of_eq_val hi, if_false, load, fault]

end

theorem amenTailOf_none {es : List Event} (verse : ∀ e ∈ es, e.amen = false) : amenTailOf es = none := by
  have none_ : es.findIdx? (·.amen) = none := List.findIdx?_eq_none_iff.2 verse
  rw [amenTailOf, none_, Option.bind_none]

theorem amenTailOf_some {es : List Event} {i : Nat} {e l : Event} (he : es[i]? = some e) (amen : e.amen = true)
    (first : ∀ f ∈ es.take i, f.amen = false) (hl : es.getLast? = some l) :
    amenTailOf es = some ⟨e.pos, l.pos + l.len, i, es.length - 1⟩ := by
  obtain ⟨lt, here⟩ := List.getElem?_eq_some_iff.1 he
  have found : es.findIdx? (·.amen) = some i := by
    rw [List.findIdx?_eq_some_iff_getElem]
    refine ⟨lt, by rw [here]; exact amen, fun j hj => ?_⟩
    exact Bool.eq_false_iff.1 (first _ (List.mem_take_iff_getElem.2 ⟨j, by omega, rfl⟩))
  rw [amenTailOf, found, Option.bind_some, he, Option.bind_some, hl, Option.map_some]

theorem exec_tuneEnd {s u : State} {t : Time} {tag sl : Byte} {x : Answer} (hs : Listens s)
    (hx : doTuneEnd [sl] (arrive t s) = (u, x)) : exec (.tuneEnd t tag [sl]) s = .next (answer 0x06 tag x.status x.fields u) :=
  request_of_handler (f := ⟨0x06, tag, [sl]⟩) hs rfl rfl hx

/-- Settles O15. -/
theorem tuneEndValidates : Obligations.TuneEndValidates := by
  rintro t tag sl s hs a rfl
  refine ⟨fun bad => exec_tuneEnd hs (if_pos bad), fun i hi => ⟨fun idle => exec_tuneEnd hs (doTuneEnd_refuses hi idle),
    fun h es load => ⟨fun pass => ?_, fun fails => ?_⟩⟩⟩
  · have none_ : tuneFault h es = none := by
      rcases tuneFault_found h es with ⟨none_, -⟩ | ⟨f, n, -, -, fail, -⟩
      · exact none_
      · exact absurd (pass f.code (by cases f <;> decide)) fail
    refine ⟨deriveTune h es, rfl, rfl, linesOf_formLines _ 0 0, fun e he => ?_, amenTailOf_none, fun j e l he amen first hl =>
      amenTailOf_some he amen first hl, exec_tuneEnd hs (doTuneEnd_validates (b := [sl]) hi load none_)⟩
    show (versePart es).getLast?.elim 0 Event.stop = _
    rw [versePart, he]
    rfl
  · rcases tuneFault_found h es with ⟨-, pass⟩ | ⟨f, n, fault, below, fail, reports⟩
    · exact absurd pass fails
    · exact ⟨f.code, n, by cases f <;> decide, below, fail, reports, exec_tuneEnd hs (doTuneEnd_empties (b := [sl]) hi load fault)⟩

end Sys2Proof.Machine

/-! PROOFS. An onset is taken: ignored, a duplicate, unmatched, or a match with what it moves (R85 to R88, R91 to R95). -/

namespace Sys2Proof.Machine

-- The proofs are elaborated one after another, which keeps the whole text within its memory.
set_option Elab.async false

/-! ### What an onset meets -/

theorem ignoresOnsets_iff (a : State) : ignoresOnsets a = true ↔ a.follower.mode = .off ∨ a.follower.mode = .lead ∨
    a.follower.mode = .fermata ∨ (runningPause a).isSome = true ∨ yielded a = true := by
  unfold ignoresOnsets
  rw [Bool.or_eq_true, Bool.or_eq_true]
  cases a.follower.mode <;> simp

section
variable {a : State} {c : Cue}

/-- A cue of the current segment holds a time within its window (R83, R86, R87). -/
def Within (a : State) (tOn : Time) (c : Cue) : Prop :=
  ∃ u, currentTime a c.pos true = some u ∧ (diff tOn u).natAbs ≤ windowFor a.follower.settings.win a.map.period c.kind

theorem cueError_eq (here : a.map.current = some c.segment) (tOn : Time) :
    cueError a c tOn = (currentTime a c.pos true).map fun u => diff tOn u := by rw [cueError, cueTime_awaited here]

theorem within_iff (here : a.map.current = some c.segment) (tOn : Time) :
    ((cueError a c tOn).any fun e => decide (e.natAbs ≤ cueWindow a c.kind)) = true ↔ Within a tOn c := by
  rw [cueError_eq here, Option.any_map, Option.any_eq_true, cueWindow_eq]
  simp only [Within, decide_eq_true_eq]

theorem isDuplicate_iff (a : State) (tOn : Time) : isDuplicate a tOn = true ↔
    ∃ c ∈ a.follower.cues, c.state ≠ .pending ∧ a.map.current = some c.segment ∧ Within a tOn c := by
  rw [isDuplicate, List.any_eq_true]
  refine exists_congr fun c => and_congr Iff.rfl ?_
  rw [Bool.and_eq_true, Bool.and_eq_true, Bool.not_eq_true', ← Bool.not_eq_true, isPending_iff, ofCurrent, beq_iff_eq, and_assoc]
  exact and_congr Iff.rfl (and_congr_right fun here => within_iff here tOn)

theorem cueContains_iff (a : State) (tOn : Time) (c : Cue) : cueContains a tOn c = true ↔
    IsAwaited a c ∧ (∀ z ∈ a.map.pauses, ¬(z.segment = c.segment ∧ z.pos = c.pos)) ∧ Within a tOn c := by
  have free : (!cueHeld a c) = true ↔ ∀ z ∈ a.map.pauses, ¬(z.segment = c.segment ∧ z.pos = c.pos) := by
    simp [cueHeld]
  rw [cueContains, Bool.and_eq_true, Bool.and_eq_true, awaited_iff, free, and_assoc]
  exact and_congr_right fun wait => and_congr_right fun _ => within_iff wait.2 tOn

/-- The candidate of the smallest error, the earlier in the list, wins (R87). -/
theorem winner_eq {tOn time : Time} {before after : List Cue} (hc : a.follower.cues = before ++ c :: after)
    (holds : cueContains a tOn c = true) (htime : currentTime a c.pos true = some time)
    (early : ∀ z ∈ before, cueContains a tOn z = true → ∃ u, currentTime a z.pos true = some u ∧
      (diff tOn time).natAbs < (diff tOn u).natAbs)
    (late : ∀ z ∈ after, cueContains a tOn z = true → ∃ u, currentTime a z.pos true = some u ∧
      (diff tOn time).natAbs ≤ (diff tOn u).natAbs) : winner a tOn = some (before, c, after) := by
  have current {z : Cue} (hz : cueContains a tOn z = true) : a.map.current = some z.segment := ((cueContains_iff a tOn z).1 hz).1.2
  have error {z : Cue} {u : Time} (hz : cueContains a tOn z = true) (hu : currentTime a z.pos true = some u) :
      cueError a z tOn = some (diff tOn u) := by rw [cueError_eq (current hz), hu, Option.map_some]
  have best : bestError a tOn = some (diff tOn time).natAbs := by
    rw [bestError, List.min?_eq_some_iff]
    refine ⟨List.mem_filterMap.2 ⟨c, List.mem_filter.2 ⟨by simp [hc], holds⟩, by rw [error holds htime]; rfl⟩, fun n hn => ?_⟩
    obtain ⟨z, hz, he⟩ := List.mem_filterMap.1 hn
    obtain ⟨hz, contains⟩ := List.mem_filter.1 hz
    rw [hc, List.mem_append, List.mem_cons] at hz
    have least : ∃ u, currentTime a z.pos true = some u ∧ (diff tOn time).natAbs ≤ (diff tOn u).natAbs := by
      rcases hz with hz | rfl | hz
      · obtain ⟨u, hu, lt⟩ := early z hz contains
        exact ⟨u, hu, Nat.le_of_lt lt⟩
      · exact ⟨time, htime, Nat.le_refl _⟩
      · exact late z hz contains
    obtain ⟨u, hu, le⟩ := least
    rw [error contains hu] at he
    cases he
    exact le
  rw [winner, best, Option.bind_some, hc]
  refine splitFirst_eq_some (fun z hz => Bool.eq_false_iff.2 fun hit => ?_) ?_
  · rw [Bool.and_eq_true] at hit
    obtain ⟨u, hu, lt⟩ := early z hz hit.1
    rw [error hit.1 hu, Option.any_some, beq_iff_eq] at hit
    omega
  · rw [holds, error holds htime, Option.any_some, beq_self_eq_true]
    rfl

theorem winner_none {tOn : Time} (none_ : ∀ c ∈ a.follower.cues, ¬cueContains a tOn c = true) : winner a tOn = none := by
  have best : bestError a tOn = none := by
    rw [bestError, List.filter_eq_nil_iff.2 none_]
    rfl
  rw [winner, best, Option.bind_none]

end

/-! ### What a match does -/

theorem periodStep_eq {v : State} {pos : Nat} {e change : Int}
    (near : ∀ last, v.follower.lastMatch = some last → last < pos → pos ≤ last + 384 →
      change = clampAbs (roundDiv (e * 48 * v.follower.settings.periodGain) (256 * (pos - last))) (v.map.period / 16))
    (far : (∀ last, v.follower.lastMatch = some last → pos ≤ last ∨ last + 384 < pos) → change = 0) :
    periodStep v pos e = change := by
  unfold periodStep
  cases hl : v.follower.lastMatch with
  | none => exact (far fun last h => nomatch hl.symm.trans h).symm
  | some last =>
    dsimp only
    by_cases inside : last < pos ∧ pos ≤ last + 384
    · have d : ((pos : Int) - last).toNat = pos - last := by omega
      rw [if_pos (by omega), d, near last hl inside.1 inside.2]
    · rw [if_neg (by omega)]
      refine (far fun last' h => ?_).symm
      obtain rfl : last = last' := Option.some.inj (hl.symm.trans h)
      omega

theorem markMatched_eq (c : Cue) (tOn : Time) (v : State) : markMatched c tOn v = { v with follower := { v.follower with
    cues := matchedCues c tOn v.now v.follower.settings.win v.map.period v.follower.cues } } := by
  have until_ : matchRemoval c tOn v = addTu tOn (2 * windowFor v.follower.settings.win v.map.period c.kind : Nat) := by
    rw [matchRemoval, cueWindow_eq]
  unfold markMatched matchedCues
  rw [until_]
  dsimp only
  split <;> rfl

theorem applyMatch_applied (c : Cue) (tOn : Time) (e : Int) (v : State) : MatchApplied c tOn e v (applyMatch c tOn e v) := by
  refine ⟨matchedPeriod v c.kind c.pos e, phaseStep v c.kind e, fun kind => ?_, fun kind => ⟨?_, fun change near far x hx => ?_⟩, ?_⟩
  · rw [kind]
    exact ⟨rfl, rfl⟩
  · rw [kind]
    rfl
  · rw [kind, matchedPeriod, periodStep_eq near far]
    exact clampPeriod_eq hx _
  · rw [applyMatch, markMatched_eq]
    rfl

theorem takeMatch_taken (c : Cue) (tOn : Time) (e : Int) (v : State) : MatchTaken c tOn e v (takeMatch c tOn e v) := by
  refine ⟨fun follow => ⟨applyMatch c tOn e v, applyMatch_applied c tOn e v, ?_⟩, fun steady few => ?_, fun steady many => ?_⟩
  · have raises : takeMatch c tOn e v = raiseCredit (applyMatch c tOn e v) := by rw [takeMatch, follow]
    rw [raises, raiseCredit, applyMatch, markMatched_eq]
    rfl
  · have counts : takeMatch c tOn e v = markMatched c tOn { v with follower := { v.follower with
        rejoinRun := v.follower.rejoinRun + 1 } } := by
      simp only [takeMatch, steady, if_pos few]
    rw [counts, markMatched_eq]
  · have rejoins : takeMatch c tOn e v = applyMatch c tOn e (rejoinFollow c.pos v) := by
      simp only [takeMatch, steady, if_neg (Nat.not_lt.2 many)]
    rw [rejoins]
    exact applyMatch_applied c tOn e _

/-! ### The chain of cues passed over -/

/-- A cue is passed over (R88). -/
def passCue (s : State) (c : Cue) : State := missCost c (countMissed 1 s)

theorem passOver_chain (before rest : List Cue) (v : State) : ∃ chain : List State,
    chain.length = (before.filter (awaited v)).length + 1 ∧
    chain.head? = some (setCues (before.filter (fun c => !awaited v c) ++ rest) v) ∧
    (∀ (i : Nat) (z : Cue) (x y : State), (before.filter (awaited v))[i]? = some z → chain[i]? = some x → chain[i + 1]? = some y →
      MissCounted z x y) ∧ chain.getLast? = some (passOver before rest v) := by
  refine ⟨(before.filter (awaited v)).scanl passCue (setCues (before.filter (fun c => !awaited v c) ++ rest) v), ?_, ?_, ?_, ?_⟩
  · rw [List.length_scanl]
  · rw [List.head?_scanl]
  · intro i z x y hz hx hy
    rw [List.getElem?_succ_scanl, hx, hz] at hy
    cases hy
    exact missCost_counted z x
  · rw [List.getLast?_scanl]
    rfl

/-! ### ONSET_TAKEN -/

/-- The state in which the oldest onset has been taken (R85). -/
def onsetTaking (rest : List Onset) (a : State) : State := { syncRamps a with front := { a.front with onsets := rest } }

theorem onsetTaking_eq (rest : List Onset) (a : State) : ∃ n x, onsetTaking rest a = { a with
    plan := { a.plan with clockShown := n }, expression := { a.expression with shutters := x }
    front := { a.front with onsets := rest } } := by
  obtain ⟨n, x, counted⟩ := syncRamps_eq a
  exact ⟨n, x, by rw [onsetTaking, counted]⟩

/-- An onset is taken where the follower and the map stand as they did (R85, log 9). -/
theorem onsetAtOnce_meets {a : State} {o : Onset} {rest : List Onset} (ho : a.front.onsets = o :: rest) : onsetAtOnce a =
    mapMoved a (meetOnset (addTu o.tObs (-(travel a (mic a o.mic).settings.choirDistance : Int))) (onsetTaking rest a)) := by
  have onsets : (syncRamps a).front = a.front := syncRamps_front a
  have time : correctedTime (syncRamps a) o = addTu o.tObs (-(travel a (mic a o.mic).settings.choirDistance : Int)) := by
    obtain ⟨n, x, counted⟩ := syncRamps_eq a
    rw [counted]
    rfl
  have takes : takeOnset (syncRamps a) =
      meetOnset (addTu o.tObs (-(travel a (mic a o.mic).settings.choirDistance : Int))) (onsetTaking rest a) := by
    rw [takeOnset, onsets, ho]
    dsimp only
    rw [time, onsetTaking]
  rw [onsetAtOnce, takes]
  rfl

section
variable {v : State} {tOn : Time} (takes : ¬ignoresOnsets v = true) (fresh : ¬isDuplicate v tOn = true)
include takes fresh

theorem meetOnset_unmatched (none_ : winner v tOn = none) : meetOnset tOn v = countUnmatched v := by
  simp only [meetOnset, if_neg takes, if_neg fresh, none_]

theorem meetOnset_matches {before after : List Cue} {c : Cue} {e : Int} (wins : winner v tOn = some (before, c, after))
    (error : cueError v c tOn = some e) : meetOnset tOn v = takeMatch c tOn e (passOver before (c :: after) v) := by
  simp only [meetOnset, if_neg takes, if_neg fresh, wins, error, Option.getD_some]

end

theorem mapMoved_same {a u : State} (h : u.map = a.map) : mapMoved a u = u := if_pos h

theorem passOver_reads {before : List Cue} {v : State} : (before.filter (awaited v)) =
    before.filter (fun z => decide (z.state = .pending ∧ v.map.current = some z.segment)) ∧
    before.filter (fun c => !awaited v c) = before.filter (fun z => !decide (z.state = .pending ∧ v.map.current = some z.segment)) := by
  have same : awaited v = fun z => decide (z.state = .pending ∧ v.map.current = some z.segment) := funext fun z => by
    rw [Bool.eq_iff_iff, decide_eq_true_iff]
    exact awaited_iff v z
  rw [same]
  exact ⟨rfl, rfl⟩

/-- Settles O39. -/
theorem onsetTaken : Obligations.OnsetTaken := by
  rintro t s o rest runs ho a rfl v tOn hv htOn ignored hi
  have onsets : (arrive t s).front.onsets = o :: rest := by rw [arrive_front, ho]
  have acts := event_acts (t := t) (p := fun s => s.front.onsets != []) onsetAtOnce runs (by rw [onsets]; rfl)
  generalize arrive t s = a at *
  have taking : v = onsetTaking rest a := hv
  obtain ⟨n, x, frame⟩ := onsetTaking_eq rest a
  rw [← taking] at frame
  rw [onsetAtOnce_meets onsets, ← htOn, ← taking] at acts
  have map : v.map = a.map := by rw [frame]
  have follower : v.follower = a.follower := by rw [frame]
  have time (pos : Nat) : currentTime v pos true = currentTime a pos true := by
    rw [frame]
    rfl
  have ignores : ignoresOnsets v = true ↔ ignored := by
    rw [hi, ignoresOnsets_iff, frame]
    rfl
  have within (c : Cue) : Within v tOn c ↔ ∃ u, currentTime a c.pos true = some u ∧
      (diff tOn u).natAbs ≤ windowFor a.follower.settings.win a.map.period c.kind := by
    rw [Within, time, follower, map]
  refine ⟨fun yes => ?_, fun no duplicate hd => ?_⟩
  · have meets : meetOnset tOn v = countIgnored v := if_pos (ignores.2 yes)
    rw [meets, mapMoved_same (u := countIgnored v) map] at acts
    exact acts
  have duplicates : isDuplicate v tOn = true ↔ duplicate := by
    rw [hd, isDuplicate_iff, follower, map]
    simp only [within]
  refine ⟨fun yes => ?_, fun other holds hh => ?_⟩
  · have meets : meetOnset tOn v = countDuplicate v := (if_neg (mt ignores.1 no)).trans (if_pos (duplicates.2 yes))
    rw [meets, mapMoved_same (u := countDuplicate v) map] at acts
    exact acts
  have contains (c : Cue) : cueContains v tOn c = true ↔ holds c := by
    rw [hh, cueContains_iff, within, IsAwaited, map, IsAwaited]
  refine ⟨fun none_ => ?_, fun before c after found hc hold htime early late => ?_⟩
  · have lost := winner_none (a := v) (tOn := tOn) fun c hc => mt (contains c).1 (none_ c (follower ▸ hc))
    rw [meetOnset_unmatched (mt ignores.1 no) (mt duplicates.1 other) lost, mapMoved_same (u := countUnmatched v) map] at acts
    exact acts
  · have wins : winner v tOn = some (before, c, after) := by
      refine winner_eq (time := found) (by rw [follower, hc]) ((contains c).2 hold) (by rw [time, htime]) (fun z hz hold => ?_)
        fun z hz hold => ?_
      · rw [time]
        exact early z hz ((contains z).1 hold)
      · rw [time]
        exact late z hz ((contains z).1 hold)
    have here : v.map.current = some c.segment := ((cueContains_iff v tOn c).1 ((contains c).2 hold)).1.2
    have error : cueError v c tOn = some (diff tOn found) := by rw [cueError_eq here, time, htime, Option.map_some]
    obtain ⟨chain, length, head, steps, last⟩ := passOver_chain before (c :: after) v
    obtain ⟨passed, kept⟩ := passOver_reads (before := before) (v := v)
    rw [passed] at length steps
    rw [kept] at head
    rw [map] at length steps head
    rw [meetOnset_matches (mt ignores.1 no) (mt duplicates.1 other) wins error] at acts
    exact ⟨_, chain, _, _, rfl, length, head, steps, last, takeMatch_taken c tOn _ _, acts⟩

end Sys2Proof.Machine

/-! PROOFS. The parts of an expansion: keys, ties, pair numbers, follow-on links and requested stops (R109 to R111, R117 to
R120, R122). -/

namespace Sys2Proof.Machine

-- The proofs are elaborated one after another, which keeps the whole text within its memory.
set_option Elab.async false

/-! ### Keys, ties and breath -/

theorem foldRaw_folds (compass : Nat) (raw : Int) : foldsTo compass raw (foldRaw compass raw) := by
  have start : ∃ m : Nat, (if raw < 0 then raw % 12 else raw).toNat = m ∧
      ((0 ≤ raw ∧ raw = m) ∨ (raw < 0 ∧ m < 12 ∧ ∃ j : Nat, raw + 12 * j = m)) := by
    by_cases neg : raw < 0
    · refine ⟨(raw % 12).toNat, by rw [if_pos neg], .inr ⟨neg, by omega, (-(raw / 12)).toNat, by omega⟩⟩
    · exact ⟨raw.toNat, by rw [if_neg neg], .inl ⟨by omega, by omega⟩⟩
  obtain ⟨m, hm, from_⟩ := start
  refine ⟨m, from_, ?_⟩
  unfold foldRaw
  dsimp only
  rw [hm]
  refine ⟨fun inside => if_pos inside, fun outside wide => ?_, fun outside narrow => ?_⟩
  · rw [if_neg (by omega), if_pos wide]
    exact ⟨by omega, by omega, (m - compass) / 12 + 1, by omega⟩
  · rw [if_neg (by omega), if_neg (by omega)]

theorem tiedInto_iff (g : Segment) (v : Voice) (e f : Event) : tiedInto g v e f = true ↔ tiedForward g v e f := by
  simp only [tiedInto, sounded, inSegment, tiedForward, Bool.and_eq_true, decide_eq_true_eq, beq_iff_eq, and_assoc]

theorem chainLast_ends (g : Segment) (v : Voice) (e : Event) (later : List Event) :
    chainEnds g v (e :: later) (chainLast g v e later) := by
  induction later generalizing e with
  | nil => exact ⟨0, rfl, fun i _ _ hi => absurd hi (Nat.not_lt_zero i), fun y hy => by simp at hy⟩
  | cons f fs ih =>
    unfold chainLast
    by_cases tied : tiedInto g v e f = true
    · rw [if_pos tied]
      obtain ⟨n, found, ties, open_⟩ := ih f
      refine ⟨n + 1, found, fun i x y hi hx hy => ?_, open_⟩
      cases i with
      | zero =>
        cases hx
        cases hy
        exact (tiedInto_iff g v e f).1 tied
      | succ i => exact ties i x y (by omega) hx hy
    · rw [if_neg tied]
      refine ⟨0, rfl, fun i _ _ hi => absurd hi (Nat.not_lt_zero i), fun y hy => ?_⟩
      cases hy
      exact mt (tiedInto_iff g v e f).2 tied

theorem noteEnd_eq (factor breath : Nat) (l : Event) : noteEnd factor breath l = releasePosition factor breath l := by
  unfold noteEnd releasePosition Event.stop
  refine ite_congr (propext ?_) (fun _ => rfl) fun _ => rfl
  simp only [Bool.and_eq_true, decide_eq_true_eq, Bool.not_eq_true', ← Bool.not_eq_true, and_assoc]

/-! ### Pair numbers (R117) -/

/-- Among more numbers in a row than are used, one is free. -/
theorem not_all_used {used : List (BitVec 16)} {c : BitVec 16} {n : Nat} (few : used.length < n) (small : n ≤ 65536) :
    ¬∀ j, j < n → used.contains (c + BitVec.ofNat 16 j) = true := by
  intro all
  have distinct : ((List.range n).map fun j => c + BitVec.ofNat 16 j).Nodup := by
    refine List.pairwise_map.2 (List.pairwise_lt_range.imp_of_mem fun {x y} hx hy lt eq => ?_)
    have small : x < 2 ^ 16 ∧ y < 2 ^ 16 := by
      rw [List.mem_range] at hx hy
      omega
    have same : BitVec.ofNat 16 x = BitVec.ofNat 16 y := by bv_omega
    have := congrArg BitVec.toNat same
    rw [BitVec.toNat_ofNat, BitVec.toNat_ofNat, Nat.mod_eq_of_lt small.1, Nat.mod_eq_of_lt small.2] at this
    omega
  have inside : ((List.range n).map fun j => c + BitVec.ofNat 16 j) ⊆ used := by
    intro x hx
    obtain ⟨j, hj, rfl⟩ := List.mem_map.1 hx
    exact List.contains_iff_mem.1 (all j (List.mem_range.1 hj))
  have := distinct.length_le_of_subset inside
  rw [List.length_map, List.length_range] at this
  omega

/-- The search passes over used numbers only, and stops at a free one or with its fuel. -/
theorem freePair_passes (used : List (BitVec 16)) (n : Nat) (c : BitVec 16) : ∃ m, m ≤ n ∧
    freePair used n c = c + BitVec.ofNat 16 m ∧ (∀ j, j < m → used.contains (c + BitVec.ofNat 16 j) = true) ∧
    (m < n → ¬used.contains (c + BitVec.ofNat 16 m) = true) := by
  induction n generalizing c with
  | zero => exact ⟨0, Nat.le_refl _, by simp [freePair], nofun, nofun⟩
  | succ n ih =>
    have zero : c + BitVec.ofNat 16 0 = c := by simp
    by_cases taken : used.contains c = true
    · obtain ⟨m, le, eq, passed, free⟩ := ih (c + 1)
      have shift (j : Nat) : c + 1 + BitVec.ofNat 16 j = c + BitVec.ofNat 16 (j + 1) := by
        rw [BitVec.ofNat_add, BitVec.add_assoc, BitVec.add_comm (1 : BitVec 16)]
        rfl
      refine ⟨m + 1, by omega, ?_, fun j hj => ?_, fun lt => ?_⟩
      · rw [freePair, if_pos taken, eq, shift]
      · cases j with
        | zero => rwa [zero]
        | succ j =>
          rw [← shift]
          exact passed j (by omega)
      · rw [← shift]
        exact free (by omega)
    · exact ⟨0, by omega, by rw [freePair, if_neg taken, zero], nofun, fun _ => by rwa [zero]⟩

theorem freePair_free {used : List (BitVec 16)} (few : used.length < pairFuel) (c : BitVec 16) :
    ¬used.contains (freePair used pairFuel c) = true ∧
    ∀ j, j < (freePair used pairFuel c - c).toNat → used.contains (c + BitVec.ofNat 16 j) = true := by
  obtain ⟨m, le, eq, passed, free⟩ := freePair_passes used pairFuel c
  have inside : m < pairFuel := by
    refine Nat.lt_of_le_of_ne le ?_
    rintro rfl
    exact not_all_used few (by decide) passed
  have distance : (freePair used pairFuel c - c).toNat = m := by
    rw [eq, BitVec.add_comm, BitVec.add_sub_cancel, BitVec.toNat_ofNat]
    exact Nat.mod_eq_of_lt (Nat.lt_of_lt_of_le inside (by decide))
  rw [distance, eq]
  exact ⟨free inside, passed⟩

theorem takePairs_length (used : List (BitVec 16)) (n : Nat) (c : BitVec 16) : (takePairs used n c).1.length = n := by
  induction n generalizing c with
  | zero => rfl
  | succ n ih => exact congrArg (· + 1) (ih _)

theorem takePairs_taken {used : List (BitVec 16)} {isUsed : BitVec 16 → Prop} (few : used.length < pairFuel)
    (same : ∀ n, used.contains n = true ↔ isUsed n) (n : Nat) (c : BitVec 16) :
    pairsTaken isUsed c (takePairs used n c).1 (takePairs used n c).2 := by
  induction n generalizing c with
  | zero => exact rfl
  | succ n ih =>
    obtain ⟨free, passed⟩ := freePair_free few c
    exact ⟨mt (same _).2 free, fun j hj => (same _).1 (passed j hj), ih _⟩

theorem usedPairs_contains (q : List Entry) (n : BitVec 16) : (usedPairs q).contains n = true ↔
    ∃ x ∈ q, x.action.onPair = some n ∨ x.action.offPair = some n := by
  rw [List.contains_iff_mem, usedPairs, List.mem_filterMap]
  refine exists_congr fun x => and_congr Iff.rfl ?_
  cases x.action <;> simp [Action.onPair, Action.offPair]

/-! ### Follow-on links (R120) -/

/-- The place of an entry in the running order. -/
def Entry.place (e : Entry) : Nat × Nat := (e.segment, e.pos)

theorem placeLe_iff (x y : Entry) : placeLe x.place y.place = true ↔ ¬liesBefore y x := by
  have spelled : placeLe x.place y.place = true ↔ x.segment < y.segment ∨ (x.segment = y.segment ∧ x.pos ≤ y.pos) := by
    unfold placeLe
    rw [Bool.or_eq_true, Bool.and_eq_true, beq_iff_eq]
    exact or_congr decide_eq_true_iff (and_congr Iff.rfl decide_eq_true_iff)
  rw [spelled]
  unfold liesBefore
  omega

theorem placeLe_total {x y : Nat × Nat} (h : placeLe x y = false) : placeLe y x = true := by
  simp only [placeLe, Bool.or_eq_false_iff, Bool.and_eq_false_iff, decide_eq_false_iff_not, beq_eq_false_iff_ne, Bool.or_eq_true,
    Bool.and_eq_true, decide_eq_true_eq, beq_iff_eq] at *
  omega

theorem placeLe_trans {x y z : Nat × Nat} (h : placeLe x y = true) (h' : placeLe y z = true) : placeLe x z = true := by
  simp only [placeLe, Bool.or_eq_true, Bool.and_eq_true, decide_eq_true_eq, beq_iff_eq] at *
  omega

theorem placeLe_refl (x : Nat × Nat) : placeLe x x = true := by simp [placeLe]

theorem placeLe_antisymm {x y : Nat × Nat} (h : placeLe x y = true) (h' : placeLe y x = true) : x = y := by
  simp only [placeLe, Bool.or_eq_true, Bool.and_eq_true, decide_eq_true_eq, beq_iff_eq] at *
  exact Prod.ext (by omega) (by omega)

/-- The later of a place and that of an entry. -/
def laterPlace (best : Option (Nat × Nat)) (e : Entry) : Option (Nat × Nat) :=
  match best with
  | some b => if placeLe e.place b then best else some e.place
  | none => some e.place

theorem latestPlace_eq (es : List Entry) : latestPlace es = es.foldl laterPlace none := rfl

theorem foldl_laterPlace {es : List Entry} {best : Option (Nat × Nat)} {y : Nat × Nat}
    (reached : best = some y ∨ ∃ e ∈ es, e.place = y) (top : ∀ b, best = some b → placeLe b y = true)
    (most : ∀ e ∈ es, placeLe e.place y = true) : es.foldl laterPlace best = some y := by
  induction es generalizing best with
  | nil => exact reached.resolve_right nofun
  | cons e es ih =>
    have here := most e List.mem_cons_self
    have rest : ∀ x ∈ es, placeLe x.place y = true := fun x hx => most x (List.mem_cons_of_mem e hx)
    rw [List.foldl_cons]
    refine ih ?_ (fun b hb => ?_) rest
    · rcases reached with rfl | ⟨x, hx, hy⟩
      · exact .inl (if_pos here)
      · rcases List.mem_cons.1 hx with rfl | hx
        · refine .inl ?_
          cases best with
          | none => exact congrArg some hy
          | some b =>
            unfold laterPlace
            dsimp only
            split
            next le => exact congrArg some (placeLe_antisymm (top b rfl) (hy ▸ le))
            · exact congrArg some hy
        · exact .inr ⟨x, hx, hy⟩
    · unfold laterPlace at hb
      split at hb
      next b' =>
        split at hb
        · exact top b hb
        · cases hb
          exact here
      · cases hb
        exact here

theorem linkable_iff {new y : Entry} {d : DivNo} {k : KeyNo} {o : Voice} {n : BitVec 16} {nb : Option Time}
    (h : new.action = .keyOn d k o n nb) : linkable new y = true ↔
    (∃ o' m, y.action = .keyOff d k o' m none) ∧ ¬liesBefore new y := by
  rw [← placeLe_iff]
  unfold linkable Entry.place
  rw [h]
  cases hy : y.action with
  | keyOn => simp
  | stopSet => simp
  | keyOff d' k' o' m f =>
    cases f with
    | some f => simp
    | none =>
      dsimp only
      rw [Bool.and_eq_true, Bool.and_eq_true, beq_iff_eq, beq_iff_eq]
      refine and_congr ⟨?_, ?_⟩ Iff.rfl
      · rintro ⟨rfl, rfl⟩
        exact ⟨o', m, rfl⟩
      · rintro ⟨_, _, same⟩
        injection same with division key
        exact ⟨division.symm, key.symm⟩

theorem linkOne_links (q : List Entry) (new : Entry) : linksOn new q (linkOne q new) := by
  intro d k o n hnew able hable
  have iff (y : Entry) : linkable new y = true ↔ able y := (linkable_iff hnew).trans (by rw [hable])
  have pair : new.action.onPair = some n := by rw [hnew]; rfl
  refine ⟨fun none_ => ?_, fun before y after hq hy early late o' m hoff => ?_⟩
  · have empty : q.filter (linkable new) = [] := List.filter_eq_nil_iff.2 fun y hy => mt (iff y).1 (none_ y hy)
    rw [linkOne, pair, empty]
    rfl
  · have place : latestPlace (q.filter (linkable new)) = some y.place := by
      refine foldl_laterPlace (.inr ⟨y, List.mem_filter.2 ⟨by simp [hq], (iff y).2 hy⟩, rfl⟩) nofun fun z hz => ?_
      obtain ⟨hz, links⟩ := List.mem_filter.1 hz
      rw [hq, List.mem_append, List.mem_cons] at hz
      rw [placeLe_iff]
      rcases hz with hz | rfl | hz
      · have := early z hz ((iff z).1 links)
        unfold liesBefore at *
        omega
      · unfold liesBefore
        omega
      · exact late z hz ((iff z).1 links)
    have first : splitFirst (fun e => linkable new e && (e.segment, e.pos) == y.place) q = some (before, y, after) := by
      rw [hq]
      refine splitFirst_eq_some (fun z hz => Bool.eq_false_iff.2 fun hit => ?_) ?_
      · rw [Bool.and_eq_true, beq_iff_eq, iff] at hit
        have lies := early z hz hit.1
        have same : (z.segment, z.pos) = (y.segment, y.pos) := hit.2
        rw [Prod.mk.injEq] at same
        unfold liesBefore at lies
        omega
      · rw [(iff y).2 hy]
        exact beq_self_eq_true _
    have follows : y.withFollowOn n = { y with action := .keyOff d k o' m (some n) } := by simp [Entry.withFollowOn, hoff]
    simp only [linkOne, pair, place, first, follows]

theorem linkOne_other {q : List Entry} {new : Entry} (h : new.action.onPair = none) : linkOne q new = q := by
  rw [linkOne, h]

/-- Only the new KEY_ONs are linked (R120). -/
theorem linkAll_ons (q new : List Entry) : linkAll q new = (new.filter fun x => x.action.onPair.isSome).foldl linkOne q := by
  rw [linkAll]
  induction new generalizing q with
  | nil => rfl
  | cons x new ih =>
    rw [List.foldl_cons, ih, List.filter_cons]
    cases pair : x.action.onPair with
    | some n => rfl
    | none => rw [linkOne_other pair]; rfl

/-! ### Requested stops (R122) -/

/-- The stops of a STOP_SET entry of a division, with its segment. -/
def stopsOf (d : DivNo) (e : Entry) : Option (Nat × StopSet) :=
  match e.action with
  | .stopSet d' r => if d' = d then some (e.segment, r) else none
  | .keyOn .. => none
  | .keyOff .. => none

theorem stopsOf_eq_some {d : DivNo} {e : Entry} {x : Nat × StopSet} :
    stopsOf d e = some x ↔ e.action = .stopSet d x.2 ∧ e.segment = x.1 := by
  unfold stopsOf
  cases e.action with
  | keyOn => simp
  | keyOff => simp
  | stopSet d' r =>
    dsimp only
    rw [Option.ite_none_right_eq_some, Option.some.injEq, Prod.ext_iff, Action.stopSet.injEq]
    exact ⟨fun ⟨same, segment, stops⟩ => ⟨⟨same, stops⟩, segment⟩, fun ⟨⟨same, stops⟩, segment⟩ => ⟨same, segment, stops⟩⟩

/-- The later written of two STOP_SETs of a division, by segment and then by place in the queue (log 31). -/
def laterStops (d : DivNo) (best : Option (Nat × StopSet)) (e : Entry) : Option (Nat × StopSet) :=
  match stopsOf d e with
  | some x => if (best.all fun b => decide (b.1 ≤ x.1)) = true then some x else best
  | none => best

theorem queuedStops_eq (q : List Entry) (d : DivNo) : queuedStops q d = q.foldl (laterStops d) none := by
  refine congrArg (fun f => q.foldl f none) (funext fun best => funext fun e => ?_)
  unfold laterStops stopsOf
  cases e.action with
  | keyOn => rfl
  | keyOff => rfl
  | stopSet d' r =>
    dsimp only
    by_cases here : d' = d
    · simp [here]
    · simp [here]

section
variable {d : DivNo}

theorem foldl_laterStops_none {q : List Entry} {best : Option (Nat × StopSet)} (none_ : ∀ z ∈ q, stopsOf d z = none) :
    q.foldl (laterStops d) best = best := by
  induction q generalizing best with
  | nil => rfl
  | cons z q ih =>
    have still : laterStops d best z = best := by simp only [laterStops, none_ z List.mem_cons_self]
    rw [List.foldl_cons, still, ih fun y hy => none_ y (List.mem_cons_of_mem z hy)]

theorem laterStops_le {best : Option (Nat × StopSet)} {z : Entry} {n : Nat} (hb : ∀ b, best = some b → b.1 ≤ n)
    (hz : ∀ b, stopsOf d z = some b → b.1 ≤ n) : ∀ b, laterStops d best z = some b → b.1 ≤ n := by
  intro b h
  unfold laterStops at h
  split at h
  next x hx =>
    split at h
    · cases h
      exact hz b hx
    · exact hb b h
  · exact hb b h

theorem foldl_laterStops_le {q : List Entry} {best : Option (Nat × StopSet)} {n : Nat} (hb : ∀ b, best = some b → b.1 ≤ n)
    (hq : ∀ z ∈ q, ∀ b, stopsOf d z = some b → b.1 ≤ n) : ∀ b, q.foldl (laterStops d) best = some b → b.1 ≤ n := by
  induction q generalizing best with
  | nil => exact hb
  | cons z q ih =>
    exact ih (laterStops_le hb (hq z List.mem_cons_self)) fun y hy => hq y (List.mem_cons_of_mem z hy)

theorem foldl_laterStops_keeps {q : List Entry} {x : Nat × StopSet} (hq : ∀ z ∈ q, ∀ b, stopsOf d z = some b → b.1 < x.1) :
    q.foldl (laterStops d) (some x) = some x := by
  induction q with
  | nil => rfl
  | cons z q ih =>
    have still : laterStops d (some x) z = some x := by
      unfold laterStops
      split
      next b hb =>
        have lt := hq z List.mem_cons_self b hb
        exact if_neg (by simpa using lt)
      · rfl
    rw [List.foldl_cons, still, ih fun y hy => hq y (List.mem_cons_of_mem z hy)]

end

theorem requestedStops_requested (s : State) (d : DivNo) : requestedOf s d (requestedStops s d) := by
  refine ⟨fun none_ => ?_, fun before y after x hq hy early late => ?_⟩
  · have never : queuedStops s.queue d = none := by
      rw [queuedStops_eq]
      refine foldl_laterStops_none fun z hz => Option.eq_none_iff_forall_ne_some.2 fun b hb => ?_
      exact none_ z hz b.2 (stopsOf_eq_some.1 hb).1
    rw [requestedStops, never, Option.elim_none]
  · have found : queuedStops s.queue d = some (y.segment, x) := by
      have below : ∀ b, before.foldl (laterStops d) none = some b → b.1 ≤ y.segment := by
        refine foldl_laterStops_le nofun fun z hz b hb => ?_
        obtain ⟨stops, segment⟩ := stopsOf_eq_some.1 hb
        exact segment ▸ early z hz ⟨b.2, stops⟩
      have here : stopsOf d y = some (y.segment, x) := stopsOf_eq_some.2 ⟨hy, rfl⟩
      have takes : laterStops d (before.foldl (laterStops d) none) y = some (y.segment, x) := by
        simp only [laterStops, here]
        refine if_pos ?_
        cases acc : before.foldl (laterStops d) none with
        | none => rfl
        | some b => exact decide_eq_true (below b acc)
      rw [queuedStops_eq, hq, List.foldl_append, List.foldl_cons, takes]
      refine foldl_laterStops_keeps fun z hz b hb => ?_
      obtain ⟨stops, segment⟩ := stopsOf_eq_some.1 hb
      exact segment ▸ late z hz ⟨b.2, stops⟩
    rw [requestedStops, found, Option.elim_some]

/-! ### The targets of an event (R109) -/

/-- An examined target with its voice and pitch. -/
def Examined.asked (x : Examined) : Voice × Nat × Target := (x.voice, x.pitch, x.target)

theorem askedTargets_eq (s : State) (r : Reading) : askedTargets s r.segment r.event = (examined s r).map Examined.asked := by
  rw [askedTargets, examined, List.map_flatMap]
  refine congrArg (fun f => allVoices.flatMap f) (funext fun v => ?_)
  cases pitch : r.event.pitch.get v with
  | none => simp [sounded, pitch]
  | some p =>
    have carries : carriedHere s r.event v = (s.expander.carried.get v == some p) := by
      unfold carriedHere
      cases s.expander.carried.get v with
      | none => rfl
      | some q =>
        rw [pitch, Bool.eq_iff_iff, beq_iff_eq, beq_iff_eq]
        exact eq_comm
    have sounds : (sounded r.segment r.event v && !carriedHere s r.event v) =
        (r.segment.mask.get v && s.expander.carried.get v != some p) := by
      rw [carries, sounded, pitch]
      simp [bne]
    dsimp only
    rw [sounds]
    split
    · rw [List.map_map]
      rfl
    · rfl

end Sys2Proof.Machine

/-! PROOFS. The expansion of the event under the cursor (R112 to R122): what it writes. -/

namespace Sys2Proof.Machine

-- The proofs are elaborated one after another, which keeps the whole text within its memory.
set_option Elab.async false

/-! ### The pause and the cue -/

/-- The pauses after an expansion: the event's own joins, unless one of its segment and position is there (R96; log 17). -/
def plannedPauses (r : Reading) (s : State) : List Pause :=
  if makesPause s r && !(s.map.pauses.any fun q => q.segment == r.index && q.pos == r.event.stop) then
    placePause ⟨r.index, r.event.stop, r.event.len, .planned⟩ s.map.pauses
  else s.map.pauses

/-- The follower after an expansion, with the event's cue (R82). -/
def postedFollower (r : Reading) (s : State) : Follower :=
  if makesCue r then (postCue r.index r.eventIndex r.event.pos (isRejoinEvent s r) s).follower else s.follower

theorem addPause_frame (r : Reading) (s : State) : (if makesPause s r then addPause r s else s) =
    { s with map := { s.map with pauses := plannedPauses r s } } := by
  unfold addPause plannedPauses
  cases makesPause s r with
  | false => rfl
  | true =>
    dsimp only
    cases s.map.pauses.any fun q => q.segment == r.index && q.pos == r.event.stop <;> rfl

theorem expansionPosted_eq (r : Reading) (s : State) : expansionPosted r s = { s with
    map := { s.map with pauses := plannedPauses r s }
    follower := postedFollower r s
    counters := { s.counters with
      noDivision := bumpBy ((examined s r).filter fun x => !kept s x).length s.counters.noDivision } } := by
  unfold expansionPosted postedFollower
  rw [addPause_frame]
  dsimp only
  cases makesCue r <;> rfl

theorem placePause_perm (p : Pause) (ps : List Pause) : (placePause p ps).Perm (p :: ps) := by
  induction ps with
  | nil => exact .refl _
  | cons q qs ih =>
    unfold placePause
    split
    · exact .refl _
    · exact (ih.cons q).trans (.swap p q qs)

theorem plannedPauses_joins {r : Reading} {s : State} (h : makesPause s r = true)
    (new : ∀ q ∈ s.map.pauses, ¬(q.segment = r.index ∧ q.pos = r.event.stop)) :
    (plannedPauses r s).Perm (⟨r.index, r.event.stop, r.event.len, .planned⟩ :: s.map.pauses) := by
  have absent : (s.map.pauses.any fun q => q.segment == r.index && q.pos == r.event.stop) = false := by
    simpa using new
  rw [plannedPauses, h, absent]
  exact placePause_perm _ _

theorem plannedPauses_there {r : Reading} {s : State}
    (there : ∃ q ∈ s.map.pauses, q.segment = r.index ∧ q.pos = r.event.stop) : plannedPauses r s = s.map.pauses := by
  have found : (s.map.pauses.any fun q => q.segment == r.index && q.pos == r.event.stop) = true := by
    simpa using there
  rw [plannedPauses, found, Bool.not_true, Bool.and_false]
  rfl

theorem plannedPauses_none {r : Reading} {s : State} (h : makesPause s r = false) : plannedPauses r s = s.map.pauses := by
  rw [plannedPauses, h]
  rfl

theorem isRejoinEvent_iff (s : State) (r : Reading) : isRejoinEvent s r = true ↔ s.yielding.state = .rejoining ∧
    ∃ p, s.yielding.rejoin = some p ∧ p.segment = r.index ∧ p.event = r.eventIndex := by
  simp only [isRejoinEvent, Bool.and_eq_true, beq_iff_eq, Option.any_eq_true_iff_get, Option.isSome_iff_exists]
  cases s.yielding.rejoin <;> simp

theorem postedKind_reEntry (s : State) (g : Nat) (b : Bool) : postedKind s g b = .reEntry ↔
    s.follower.lastPosted ≠ some g ∨ (s.map.current = some g ∧ s.follower.owed = true) ∨ b = true := by
  unfold postedKind
  split
  next other => simp [other]
  next same =>
    split
    next owed => simp [owed]
    next free =>
      cases b
      · simpa [free] using same
      · simp

/-! ### The entries -/

/-- The numbers of the new pairs (R117). -/
def newNums (s : State) (r : Reading) : List (BitVec 16) :=
  (takePairs (usedPairs s.queue) ((examined s r).filter (kept s)).length s.expander.pairCounter).1

/-- The entries of the new pairs (R117). -/
def newPairs (s : State) (r : Reading) : List Entry :=
  (((examined s r).filter (kept s)).zip (newNums s r)).flatMap fun p => pairEntries s r p.1 p.2

theorem newEntries_fst (s : State) (r : Reading) : (newEntries s r).1 = stopSetEntries s r ++ newPairs s r := rfl

theorem newNums_taken {s : State} (few : s.queue.length + 26 ≤ 256) (r : Reading) :
    pairsTaken (fun n => ∃ x ∈ s.queue, x.action.onPair = some n ∨ x.action.offPair = some n) s.expander.pairCounter
      (newNums s r) (newEntries s r).2 := by
  have used : (usedPairs s.queue).length ≤ s.queue.length := List.length_filterMap_le _ _
  exact takePairs_taken (by show _ < 512; omega) (fun n => usedPairs_contains s.queue n) _ _

/-- The targets that get a pair, each with its voice and pitch (R109, R111). -/
theorem askedTargets_kept (s : State) (r : Reading) :
    ((askedTargets s r.segment r.event).filter fun x => (div s x.2.2.division).present) =
      ((examined s r).filter (kept s)).map Examined.asked := by
  rw [askedTargets_eq, List.filter_map]
  rfl

theorem askedTargets_absent (s : State) (r : Reading) :
    ((askedTargets s r.segment r.event).filter fun x => !(div s x.2.2.division).present).length =
      ((examined s r).filter fun x => !kept s x).length := by
  rw [askedTargets_eq, List.filter_map, List.length_map]
  rfl

/-- The key number, unbounded, that a target's pitch folds to (R110). -/
def foldedKey (s : State) (x : Target) (p : Nat) : Nat :=
  foldRaw (div s x.division).compass ((p : Int) + 12 * x.shift - (div s x.division).base)

theorem newPairs_eq (s : State) (r : Reading) : newPairs s r =
    ((((examined s r).filter (kept s)).map Examined.asked).zip (newNums s r)).flatMap fun x =>
      [⟨.keyOn x.1.2.2.division (toFin 61 (foldedKey s x.1.2.2 x.1.2.1)) x.1.1 x.2 none, r.index, r.event.pos, s.now⟩,
       ⟨.keyOff x.1.2.2.division (toFin 61 (foldedKey s x.1.2.2 x.1.2.1)) x.1.1 x.2 none, r.index,
         releasePosition (activeFactor s) (activeBreath s) (chainLast r.segment x.1.1 r.event r.later), s.now⟩] := by
  rw [List.zip_map_left, List.flatMap_map, newPairs]
  refine congrArg (fun f => List.flatMap f _) (funext fun x => ?_)
  rw [pairEntries, noteEnd_eq]
  rfl

theorem stopSetEntries_onPair {s : State} {r : Reading} {e : Entry} (h : e ∈ stopSetEntries s r) : e.action.onPair = none := by
  unfold stopSetEntries at h
  split at h
  · split at h
    · cases h
    · obtain ⟨d, -, rfl⟩ := List.mem_map.1 h
      rfl
  · cases h

/-- The queue before an expansion, with the follow-on links of its new entries (R120). -/
def linked (r : Reading) (s : State) : List Entry := linkAll s.queue (newEntries s r).1

/-- Only the new KEY_ONs are linked (R120). -/
theorem linked_eq (s : State) (r : Reading) : linked r s =
    ((newPairs s r).filter fun x => x.action.onPair.isSome).foldl linkOne s.queue := by
  have stops : ((stopSetEntries s r).filter fun x => x.action.onPair.isSome) = [] :=
    List.filter_eq_nil_iff.2 fun e he => by simp [stopSetEntries_onPair he]
  rw [linked, linkAll_ons, newEntries_fst, List.filter_append, stops, List.nil_append]

/-- The queue before each link and after the last: each link is that of its KEY_ON (R120). -/
theorem linkOne_chain {ons q : List Entry} {n : Nat} {x : Entry} {p p' : List Entry} (hx : ons[n]? = some x)
    (hp : (ons.scanl linkOne q)[n]? = some p) (hp' : (ons.scanl linkOne q)[n + 1]? = some p') : linksOn x p p' := by
  rw [List.getElem?_succ_scanl, hp, hx] at hp'
  cases hp'
  exact linkOne_links p x

theorem stopSetEntries_empty {s : State} {r : Reading} (h : r.index = 0 ∨ s.expander.firstDone = true) :
    stopSetEntries s r = [] := by
  unfold stopSetEntries
  split
  next g ended index found =>
    have done : s.expander.firstDone = true := h.resolve_left (by omega)
    exact if_pos done
  next => rfl

theorem stopSetEntries_later {s : State} {r : Reading} {g : Nat} {ended : Segment} (index : r.index = g + 1)
    (found : segmentAt s g = some ended) (first : s.expander.firstDone = false) : stopSetEntries s r =
      ([(0 : DivNo), 1, 2, 3, 4, 5].filter fun d => (div s d).present &&
          decide (drawnBy s r.segment.registration d ≠ requestedStops s d)).map fun d =>
        ⟨.stopSet d (drawnBy s r.segment.registration d), g, ended.sTo, s.now⟩ := by
  have differs (d : DivNo) : (setDraws s r.segment.registration d != requestedStops s d) =
      decide (drawnBy s r.segment.registration d ≠ requestedStops s d) := by
    rw [Bool.eq_iff_iff, bne_iff_ne, decide_eq_true_iff]
    rfl
  unfold stopSetEntries
  simp only [index, Nat.add_sub_cancel, found, first, Bool.false_eq_true, if_false, differs]
  rfl

/-! ### The state an expansion leaves -/

/-- The expansion of an event up to the moves of its cursor over the end of a segment (R116). -/
def expansionWritten (r : Reading) (s : State) : State :=
  { expansionQueued r (expansionPosted r s) with expander := { (expansionQueued r (expansionPosted r s)).expander with
    cursor := cursorNext r, carried := carriedAfter r, firstDone := true
    pairCounter := (newEntries (expansionPosted r s) r).2 } }

theorem expand_written (r : Reading) (s : State) : expand r s = advanceCursor (expansionWritten r s) := rfl

/-- The queue with the new entries after it, every issue time recomputed by the map and the follower that the expansion
leaves (R135). -/
def recomputed (r : Reading) (a w : State) : List Entry := retimeList w (linked r a ++ (newEntries a r).1)

/-- The lists and the counters of an expansion, over the state before it and the state `w` it leaves: every new entry is
placed by the map and the follower that the expansion leaves (R116, R126, R136). -/
structure ExpansionWrote (r : Reading) (a w : State) : Prop where
  map : w.map = { a.map with pauses := plannedPauses r a }
  follower : w.follower = postedFollower r a
  expander : w.expander = { a.expander with
    cursor := cursorNext r, carried := carriedAfter r, firstDone := true, pairCounter := (newEntries a r).2 }
  queue : w.queue = sortEntries (recomputed r a w)
  late : w.counters.late = bumpBy
    (lateCount a.now (linked r a)
        ((recomputed r a w).take (linked r a).length) +
      (((recomputed r a w).drop (linked r a).length).filter fun e => atOrBefore e.issue a.now).length) a.counters.late
  noDivision : w.counters.noDivision = bumpBy ((examined a r).filter fun x => !kept a x).length a.counters.noDivision
  clock : w.plan.clockShown = (syncRamps a).plan.clockShown
  shutters : w.expression.shutters = (syncRamps a).expression.shutters
  others : { w with
    queue := a.queue, map := a.map, follower := a.follower, expander := a.expander
    counters := { w.counters with late := a.counters.late, noDivision := a.counters.noDivision }
    plan := { w.plan with clockShown := a.plan.clockShown }
    expression := { w.expression with shutters := a.expression.shutters } } = a

theorem expansionWritten_wrote (r : Reading) (a : State) : ExpansionWrote r a (expansionWritten r (syncRamps a)) := by
  obtain ⟨n, x, counted⟩ := syncRamps_eq a
  rw [expansionWritten, expansionPosted_eq, counted]
  constructor
  case clock => rw [counted]; rfl
  case shutters => rw [counted]; rfl
  all_goals rfl

/-! ### The event that is expanded -/

theorem cursorNext_eq (r : Reading) : cursorNext r = match r.later with
    | f :: _ => if r.segment.sFrom ≤ f.pos ∧ f.pos < r.segment.sTo then .at_ r.index (r.eventIndex + 1) else .after r.index
    | [] => .after r.index := by
  unfold cursorNext
  cases r.later with
  | nil => rfl
  | cons f _ =>
    refine ite_congr (propext ?_) (fun _ => rfl) fun _ => rfl
    rw [inSegment, Bool.and_eq_true, decide_eq_true_iff, decide_eq_true_iff]

theorem get_of {α : Type} (f : Voice → α) (v : Voice) : (PerVoice.of f).get v = f v := by
  cases v <;> rfl

theorem carriedAfter_get (r : Reading) (v : Voice) : (carriedAfter r).get v = match r.later.head? with
    | some f => if r.segment.mask.get v = true ∧ (r.event.pitch.get v).isSome = true ∧ r.event.tie.get v = true ∧
        r.segment.sFrom ≤ f.pos ∧ f.pos < r.segment.sTo ∧ f.pitch.get v = r.event.pitch.get v then r.event.pitch.get v else none
    | none => none := by
  rw [carriedAfter, get_of]
  cases r.later with
  | nil => rfl
  | cons f _ => exact ite_congr (propext (tiedInto_iff r.segment v r.event f)) (fun _ => rfl) fun _ => rfl

theorem makesCue_iff (r : Reading) : makesCue r = true ↔ r.event.cue = true ∧ r.segment.follow = .follow := by
  rw [makesCue, Bool.and_eq_true, beq_iff_eq]

theorem makesPause_iff (s : State) (r : Reading) : makesPause s r = true ↔ r.event.fermata = true ∧ 8 < activeFactor s := by
  rw [makesPause, Bool.and_eq_true, decide_eq_true_iff]

theorem reading_at {s : State} {r : Reading} (cursor : s.expander.cursor = .at_ r.index r.eventIndex)
    (found : segmentAt s r.index = some r.segment) (events : (activeEvents s).drop r.eventIndex = r.event :: r.later) :
    reading s = some r := by
  simp only [reading, cursor, found, Option.bind_some, events]

theorem expandable_of {s : State} {r : Reading} {u : Time} (read : reading s = some r) (free : yielded s = false)
    (time : positionTime s r.index r.event.pos false = some u)
    (near : atOrBefore u (s.now + BitVec.ofNat 32 s.follower.settings.horizon) = true) (room : roomFor s r = true) :
    expandable s = some r := by
  have horizon : withinHorizon s r = true := by
    rw [withinHorizon, time, Option.any_some, addTu_natCast]
    exact near
  simp [expandable, free, read, horizon, room]

theorem expansion_acts {t : Time} {s : State} {r : Reading} (runs : Runs s) (h : expandable (arrive t s) = some r) :
    exec (.expansion t) s =
      .next (settle (arrive t s) (advanceCursor (expansionWritten r (syncRamps (arrive t s))))) := by
  have acts : expandAtOnce (arrive t s) = settle (arrive t s) (expand r (syncRamps (arrive t s))) := by
    rw [expandAtOnce, h]
  refine (event_acts (t := t) (p := fun s => (expandable s).isSome) expandAtOnce runs ?_).trans (congrArg _ acts)
  rw [h]
  rfl

/-- Settles O47. -/
theorem expansionWrites : Obligations.ExpansionWrites := by
  rintro t s g i seg e later u runs a rfl cursor found events free time near room forCue forPause
  obtain ⟨r, rfl, rfl, rfl, rfl, rfl⟩ : ∃ r : Reading, r.index = g ∧ r.segment = seg ∧ r.eventIndex = i ∧ r.event = e ∧
      r.later = later := ⟨⟨g, seg, i, e, later⟩, rfl, rfl, rfl, rfl, rfl⟩
  have roomy : roomFor (arrive t s) r = true := roomFor_iff.2 ⟨room,
    fun h => ((makesCue_iff _).1 h).elim forCue, fun h => ((makesPause_iff _ _).1 h).elim forPause⟩
  have acts := expansion_acts runs (expandable_of (reading_at cursor found events) free time near roomy)
  have wrote := expansionWritten_wrote r (arrive t s)
  generalize arrive t s = a at *
  generalize expansionWritten r (syncRamps a) = w at *
  obtain ⟨map, follower, expander, queue, late, noDivision, clock, shutters, others⟩ := wrote
  have all : linked r a ++ stopSetEntries a r ++ newPairs a r = linked r a ++ (newEntries a r).1 := List.append_assoc ..
  have old : (linked r a).length ≤ (recomputed r a w).length := by
    rw [recomputed, retimeList_length, List.length_append]
    exact Nat.le_add_right _ _
  refine ⟨w, newNums a r, linked r a, stopSetEntries a r, newPairs a r,
    (recomputed r a w).take (linked r a).length, (recomputed r a w).drop (linked r a).length,
    ((newPairs a r).filter fun x => x.action.onPair.isSome).scanl linkOne a.queue, foldedKey a,
    fun v => chainLast r.segment v r.event r.later, requestedStops a, ?pause, ?noPause, ?pauses, ?noCue, ?cue, ?pairs,
    requestedStops_requested a, stopSetEntries_empty, fun _ _ => stopSetEntries_later, ?links, ?queue, ?split, ?old, late,
    clock, shutters, ?absent, ?cursor, ?done, ?voicing, ?carried, others, acts⟩
  case pause =>
    rintro p rfl fermata factor
    have makes := (makesPause_iff a r).2 ⟨fermata, factor⟩
    exact ⟨fun new => map ▸ plannedPauses_joins makes new, fun there => by rw [map, plannedPauses_there there]⟩
  case noPause =>
    intro no
    rw [map, plannedPauses_none (Bool.eq_false_iff.2 (mt (makesPause_iff a r).1 no))]
  case pauses => rw [map]
  case noCue =>
    intro no
    rw [follower, postedFollower, if_neg (mt (makesCue_iff r).1 no)]
  case cue =>
    intro cue follows
    refine ⟨postedKind a r.index (isRejoinEvent a r), ?_, ?_⟩
    · rw [postedKind_reEntry, isRejoinEvent_iff]
    · rw [follower, postedFollower, if_pos ((makesCue_iff r).2 ⟨cue, follows⟩)]
      rfl
  case pairs =>
    rintro kept' rfl
    rw [askedTargets_kept]
    refine ⟨?_, ?_, fun x p => foldRaw_folds _ _, fun v => chainLast_ends _ _ _ _, newPairs_eq a r⟩
    · rw [newNums, takePairs_length, List.length_map]
    · rw [expander]
      exact newNums_taken room r
  case links =>
    rintro ons rfl
    refine ⟨List.length_scanl, List.head?_scanl, ?_, fun n x q q' => linkOne_chain⟩
    rw [List.getLast?_scanl, linked_eq]
  case queue => rw [queue, all]; rfl
  case split => rw [all, List.take_append_drop]; rfl
  case old => rw [List.length_take, Nat.min_eq_left old]
  case absent => rw [noDivision, askedTargets_absent]
  case cursor => rw [expander]; exact cursorNext_eq r
  case done => rw [expander]
  case voicing => rw [expander]
  case carried => rw [expander]; exact carriedAfter_get r

end Sys2Proof.Machine
